-- ==== Sys2Proof/Word.lean ====
section
/-! DEFINITION. The word types of the Ovhavik 256 model and the sparse table type.
Fields that software reads as words are bit vectors; counts, times and lengths are natural numbers. -/

namespace Sys2Proof

/-- A byte of memory, of a tile register or of a message (R4). -/
abbrev Byte := BitVec 8
/-- A register word: every register is 32 bits wide (R404). -/
abbrev W32 := BitVec 32
/-- A pilot scalar, a tick number, a frame number (R25, R129). -/
abbrev W64 := BitVec 64
/-- An error code (R9) or a device address (R312). -/
abbrev W16 := BitVec 16
/-- A berth index b0 to b255 (R13). -/
abbrev BerthIdx := BitVec 8
/-- A frame domain FD0 to FD15 (R33). -/
abbrev DomIdx := BitVec 4
/-- A port P0 to P23 (R16). -/
abbrev PortIdx := Fin 24
/-- An LPDDR5X memory device M00 to M23 (R18). -/
abbrev MemIdx := Fin 24
/-- A sparse table: pairs of a key and a value, keys strictly rising, no value equal to the default. -/
abbrev Tbl (α : Type) := List (Nat × α)

end Sys2Proof
end

