-- ==== Sys2Proof/Config.lean ====
section
/-! DEFINITION. What the spec leaves open, as constants without a body (log 5, log 9): nothing can be proved of
their values. -/

namespace Sys2Proof

/-- The byte at address `a` of the storage whose contents fill `n` leaves open (R67, R89, R195). -/
opaque Config.freeByte : Nat → Nat → Byte

/-- A free choice among alternatives: the `n`-th value read (R190, R344, R499). -/
opaque Config.freeNat : Nat → Nat

/-- A free word: the `n`-th value read (R331, R493). -/
opaque Config.freeWord : Nat → W64

/-- Which code of class 0x5 MOVE_FULL is: R199 names it and no code table numbers it. -/
opaque Config.moveFull : Nat

/-- The extent number of ordinal `k` of ward object `o` on a buddy: the extent table is the buddy's (R365). -/
opaque Config.wardExt : Nat → Nat → Nat → Nat

/-- Verification of a vendor signature, SLH-DSA-SHA2-192s under the key of the mask ROM: message and signature (R424). -/
opaque Config.vendorVerify : List Byte → List Byte → Bool

/-- Verification under SLH-DSA-SHA2-192s: public key, message, signature (R427, R436). -/
opaque Config.slhVerify : List Byte → List Byte → List Byte → Bool

/-- The public key that SLH-DSA-SHA2-128f generates from sk_seed, sk_prf and pk_seed (R430). -/
opaque Config.slhKeygen : List Byte → List Byte → List Byte → List Byte

/-- The signature under SLH-DSA-SHA2-128f that the keys of a seed give a message (R434). -/
opaque Config.slhSign : List Byte → List Byte → List Byte

/-- The bytes of the challenge counter, whose width R436 does not give. -/
opaque Config.counterBytes : Nat → List Byte

/-- The level in a boundary register cell that no preload has set (R440; log 29). -/
opaque Config.boundaryCell : Nat → Bool

/-- The debug scope that a vendor instruction of the TAP belongs to (R435, R439): the vendor's choice (log 29). -/
opaque Config.jtagScope : BitVec 8 → Nat

end Sys2Proof
end

