-- ==== Sys2Proof/Machine/Codes.lean ====
section
/-! DEFINITION. The error codes of the class tables (R9 and the class code table of each chapter). -/

namespace Sys2Proof.Code
open Sys2Proof

-- 02_ticks_frames_commit.md
def frameOverrun : W16 := 0x1001
def recalled : W16 := 0x1002
def nonfiniteSkip : W16 := 0x1003
def freshExhausted : W16 := 0x1004
def tickLost : W16 := 0x1005
def eventLate : W16 := 0x1006
def recallLate : W16 := 0x1007
def frameHeld : W16 := 0x1008
def configRefused : W16 := 0x1009
def writeForeign : W16 := 0x100A
def timerUnclaimed : W16 := 0x100B
-- 03_berths_tiles_lighters.md
def ltBadDesc : W16 := 0x2001
def ltTierMismatch : W16 := 0x2002
def tileAlign : W16 := 0x2003
def ltRange : W16 := 0x2004
def ltScratchForeign : W16 := 0x2005
def imemBusy : W16 := 0x2006
def chanUndeclared : W16 := 0x2007
def chanSize : W16 := 0x2008
def sramUncorrectable : W16 := 0x2009
def sramCorrected : W16 := 0x200A
-- 04_matrix_engine_and_accumulation.md
def mxBadOperand : W16 := 0x3001
def mxShape : W16 := 0x3002
def accNotOpen : W16 := 0x3003
def accBusyOpen : W16 := 0x3004
def accMode : W16 := 0x3005
def mxRateDisabled : W16 := 0x3006
-- 05_vector_engine_and_pilot.md
def vxBadOperand : W16 := 0x4001
def vxShape : W16 := 0x4002
def plAddr : W16 := 0x4003
def plPcRange : W16 := 0x4004
-- 06_berth_instruction_set.md
def isReservedOp : W16 := 0x4101
def isReservedBits : W16 := 0x4102
def isField : W16 := 0x4103
def optAlias : W16 := 0x4104
-- 08_memory_tiers_and_objects.md
def evictBusy : W16 := 0x5001
def moveDuplicate : W16 := 0x5002
def movePinned : W16 := 0x5003
def moveWritable : W16 := 0x5004
def moveBad : W16 := 0x5005
def moveBadState : W16 := 0x5006
def moveAbandoned : W16 := 0x5007
def extentMoved : W16 := 0x5008
def extentPool : W16 := 0x5009
def extentPoisoned : W16 := 0x500A
def freshPoolEmpty : W16 := 0x500B
def memRange : W16 := 0x500C
def memUncorrectable : W16 := 0x500D
def memCorrected : W16 := 0x500E
def memRetryOk : W16 := 0x500F
def objBadEntry : W16 := 0x5010
def objBusy : W16 := 0x5011
def remapNoPool : W16 := 0x5012
def lpxTrainFail : W16 := 0x5013
def lpxLinkEcc : W16 := 0x5014
def lpxHot : W16 := 0x5015
/-- MOVE_FULL, which R199 names and no table numbers: one of the codes of class 0x5 that are reported (R9; log 4). -/
def moveFull : W16 := BitVec.ofNat 16 (0x5001 + Config.moveFull % 21)
-- 09_weight_sets_and_caravans.md
def weightsUnavailable : W16 := 0x6001
def wsBad : W16 := 0x6002
def wsWritable : W16 := 0x6003
def wsBusy : W16 := 0x6004
def wsLoadIncomplete : W16 := 0x6005
def wsNotReady : W16 := 0x6006
def wsNoCurrent : W16 := 0x6007
def cvBadLeg : W16 := 0x6008
def cvUnclaimed : W16 := 0x6009
def cvNoSource : W16 := 0x600A
-- 10_grains_mapping_and_elastic_jobs.md
def stepSkew : W16 := 0x7001
def epochStale : W16 := 0x7002
def epochAhead : W16 := 0x7003
def mapBad : W16 := 0x7004
def remoorRefused : W16 := 0x7005
def redBadEntry : W16 := 0x7006
def redPostBad : W16 := 0x7007
def rcUnclaimed : W16 := 0x7008
def shardMoveFail : W16 := 0x7009
def stepCtlWrite : W16 := 0x700A
-- 11_lending_serving_and_accounting.md
def joinNoMemory : W16 := 0x8001
def joinTooLarge : W16 := 0x8002
def deadlineMissed : W16 := 0x8003
def mfBadEntry : W16 := 0x8004
def mfProdBad : W16 := 0x8005
def berthTaken : W16 := 0x8006
def slotCtlWrite : W16 := 0x8007
def resqBad : W16 := 0x8008
-- 12_voxle_optical_links.md
def linkLost : W16 := 0x9001
def linkTrainFail : W16 := 0x9002
def linkRetrain : W16 := 0x9003
def linkRetryExhausted : W16 := 0x9004
def flitCrc : W16 := 0x9005
def fecUncorrectable : W16 := 0x9006
def lambdaSpared : W16 := 0x9007
def linkDegraded : W16 := 0x9008
def lambdaFail : W16 := 0x9009
def laserLow : W16 := 0x900A
def rxPowerLow : W16 := 0x900B
def linkParityMismatch : W16 := 0x900C
def linkProtocol : W16 := 0x900D
def seamLaneSpared : W16 := 0x900E
def seamDegraded : W16 := 0x900F
def seamFail : W16 := 0x9010
def seamReplay : W16 := 0x9011
def kaMissed : W16 := 0x9012
def linkRoleMismatch : W16 := 0x9013
-- 13_voxle_addressing_routing_transactions.md
def noRoute : W16 := 0xA001
def hopLimit : W16 := 0xA002
def xportTimeout : W16 := 0xA003
def regDenied : W16 := 0xA004
def routeBad : W16 := 0xA005
def mcBad : W16 := 0xA006
def mcPortDown : W16 := 0xA007
def addrBad : W16 := 0xA008
def msgBad : W16 := 0xA009
def pathBad : W16 := 0xA00A
def dropDown : W16 := 0xA00B
def tickConflict : W16 := 0xA00C
def redOrphan : W16 := 0xA00D
def hbLinkDown : W16 := 0xA00E
-- 14_faults_health_and_audit.md
def digestMismatch : W16 := 0xB001
def audMismatch : W16 := 0xB002
def audLasting : W16 := 0xB003
def audInconclusive : W16 := 0xB004
def audSkipped : W16 := 0xB005
def pathFault : W16 := 0xB006
def sramRetryOk : W16 := 0xB007
def restrictedEntered : W16 := 0xB008
def retireCandidate : W16 := 0xB009
def hlTransition : W16 := 0xB00A
def deviceRetired : W16 := 0xB00B
-- 15_recovery_without_spares.md
def svFallback : W16 := 0xB101
def svReplayMismatch : W16 := 0xB102
def svLogGap : W16 := 0xB103
def svNoPlan : W16 := 0xB104
def svNoCkpt : W16 := 0xB105
def svNoLeader : W16 := 0xB106
def svParityLost : W16 := 0xB107
def ckptLate : W16 := 0xB108
def svSeqLost : W16 := 0xB109
def svDeviceLost : W16 := 0xB10A
def svUnclaimed : W16 := 0xB10B
def svBadPlan : W16 := 0xB10C
def svCmdRefused : W16 := 0xB10D
def svPathRecovered : W16 := 0xB10E
-- 18_boot_identity_and_access.md
def unlockRefused : W16 := 0xC001
def unlockWait : W16 := 0xC002
def hmCfgBad : W16 := 0xC003
def hmPufFail : W16 := 0xC004
def hmOwnerBad : W16 := 0xC005
def hmImageBad : W16 := 0xC006
def hmNoImage : W16 := 0xC007
def hmFlashFail : W16 := 0xC008
def hmBusy : W16 := 0xC009
def hmBadCmd : W16 := 0xC00A
def hmAttDebug : W16 := 0xC00B
def hmSvnLow : W16 := 0xC00C
def hmChalStale : W16 := 0xC00D
-- 19_package_balls_power_clocks.md
def pwrFault : W16 := 0xD001
def refclkLost : W16 := 0xD002
def thermtrip : W16 := 0xD003
def prochotExt : W16 := 0xD004
def pwrbrkApplied : W16 := 0xD005
-- 20_electrical_and_thermal.md
def thermalThrottle : W16 := 0xD101
def powerOver : W16 := 0xD102
def railWarn : W16 := 0xD103
def lpxHotLimit : W16 := 0xD104
-- 16_interrupt_controller.md
def intStray : W16 := 0xE001
def intWithdrawn : W16 := 0xE002
def intNoEvtDev : W16 := 0xE003
-- 17_register_pages.md
def claimDenied : W16 := 0xE101
def lgUnclaimed : W16 := 0xE102
def lgInUse : W16 := 0xE103
def lgBad : W16 := 0xE104
def regLocked : W16 := 0xE105
def regNoPage : W16 := 0xE106
def regAlign : W16 := 0xE107

end Sys2Proof.Code
end

