-- ==== Sys2Proof/Syntax.lean ====
section
/-! DEFINITION. The commands of the block: one constructor of `Instr` for each row of spec/opcode_table.json,
with the operands a sender gives. The table gives no bits for any row, so the operands are the model's
(log 8). What the outside world decides (a level, a measurement, whether a read failed) is an operand. -/

namespace Sys2Proof

/-- Who makes a register request: the acting client (0xFF acts as the house, R404), whether the
harbourmaster itself writes (R412), the requester's address and its tag (R325). -/
structure Req where
  client : BitVec 8
  hm : Bool
  src : W16
  tag : BitVec 14
  /-- For a path-routed request, the ports its answer takes: the arrival port here, then RET in reverse (R321). -/
  back : Option (List (BitVec 5)) := none
  deriving DecidableEq, Repr

/-- A TICK message (the tick message table, R330) with the offset that the tick unit measured for it (R331). -/
structure TickMsg where
  num : W64
  periodUs : BitVec 10
  depth : BitVec 8
  backup : Bool
  master : W16
  offsetNs : W16
  deriving DecidableEq, Repr

/-- A RECALL message (KIND 0x51, R326): replay tick 0 for none; `data` is the source device of the missing or
corrupt data and the port it last arrived on, where the recall is for such data (R338). -/
structure RecallMsg where
  f : W64
  replays : BitVec 8
  dom : DomIdx
  cause : W16
  replayTick : W64
  data : Option (W16 × BitVec 8)
  deriving DecidableEq, Repr

/-- The three registers of a frame-timer slot (R51). -/
inductive TmrReg where
  | cfg | cmpLo | cmpHi
  deriving DecidableEq, Repr

/-- The units of a berth that hold a queue (R54). -/
inductive EngUnit where
  | mxe | vxe | lt (n : BitVec 2)
  deriving DecidableEq, Repr

/-- What the memories report while one access reads (R66, R213): the event is the outside world's. `off` is the
offset of the word concerned within the access; `link` that the link ECC reported it. -/
inductive ReadEvent where
  | clean
  | sramCorrected
  | sramUncorrectable (off : Nat)
  | linkCorrected (off : Nat)
  /-- The link ECC could not correct a transfer, and its repeat was good (R213). -/
  | linkRepeated (off : Nat)
  | lpxCorrected (off : Nat)
  | lpxRetryOk (off : Nat) (link : Bool)
  | lpxRetryFail (off : Nat) (link : Bool)
  deriving DecidableEq, Repr

/-- The offset within the access at which an event lies. -/
def ReadEvent.off (x : ReadEvent) : Nat :=
  match x with
  | .clean => 0
  | .sramCorrected => 0
  | .sramUncorrectable o => o
  | .linkCorrected o => o
  | .linkRepeated o => o
  | .lpxCorrected o => o
  | .lpxRetryOk o _ => o
  | .lpxRetryFail o _ => o

/-- What the memories report while a caravan reads the source of a leg, by domain and leg (R66, R213, R240). -/
structure LegRead where
  dom : DomIdx
  leg : W16
  x : ReadEvent
  deriving DecidableEq, Repr

/-- What a base tick finds outside: GPIO input levels, the two board signals (R388, R390), and what the memories report while
the caravans of frames that open read their sources (R229, R240). -/
structure TickIn where
  gpio : BitVec 16
  prochotLow : Bool
  pwrbrkLow : Bool
  legs : List LegRead := []
  deriving DecidableEq, Repr

/-- The frame tag that opens several message kinds (R326). -/
structure FrameTag where
  f : W64
  replays : BitVec 8
  noFrame : Bool
  dom : DomIdx
  deriving DecidableEq, Repr

/-- The header of CHAN and CHAN_POST (KIND 0x20, 0x21). -/
structure ChanHdr where
  src : W16
  tag : FrameTag
  epoch : W32
  chan : BitVec 8
  consumer : BerthIdx
  producer : BerthIdx
  deriving DecidableEq, Repr

/-- Rounding field RM of format V (R148). -/
abbrev RmField := BitVec 2

/-- The operand fields of format V (R139). -/
structure VFields where
  d : BitVec 5
  a : BitVec 5
  b : BitVec 5
  ma : BitVec 2
  mb : BitVec 2
  r : BitVec 7
  fd : BitVec 4
  fa : BitVec 4
  fb : BitVec 4
  rm : RmField
  xd : Bool
  xa : Bool
  xb : Bool
  sk : BitVec 5
  sn : BitVec 5
  deriving DecidableEq, Repr

/-- The operand fields of format RD (R139). -/
structure RdFields where
  d : BitVec 5
  a : BitVec 5
  b : BitVec 5
  ma : BitVec 2
  mb : BitVec 2
  r : BitVec 7
  drow : BitVec 7
  fa : BitVec 4
  fb : BitVec 4
  xa : Bool
  xb : Bool
  op : BitVec 3
  axis : BitVec 2
  deriving DecidableEq, Repr

/-- One operand pair of format MM (R139). -/
structure MmPair where
  ta : BitVec 4
  tb : BitVec 4
  fa : BitVec 4
  fb : BitVec 4
  kblk : BitVec 3
  deriving DecidableEq, Repr

/-- The elementwise operations of groups 0x9 and 0xA (R149). -/
inductive VOp where
  | vadd | vsub | vmul | vfma | vmax | vmin | vdiv | vabs | vneg | vcvt | vrcp | vsqrt | vrsqrt
  | vexp | vexp2 | vlog | vlog2 | vtanh | vsigmoid | verf
  deriving DecidableEq, Repr

/-- Scalar operations of group 0x1 (R142). -/
inductive SrOp where
  | add | sub | and | or | xor | shl | shr | sar | mul | mulhu | minu | maxu
  deriving DecidableEq, Repr

/-- Scalar operations of group 0x2 (R142). -/
inductive SiOp where
  | addi | andi | ori | xori | shli | shri | sari | lih
  deriving DecidableEq, Repr

/-- Comparisons of group 0x3 (R142). -/
inductive CmpOp where
  | eq | ne | lt | le | gt | ge | ltu | leu | gtu | geu
  deriving DecidableEq, Repr

/-- Predicate logic of group 0x3 (R142). -/
inductive PlOp where
  | pand | por | pandn
  deriving DecidableEq, Repr

/-- A word of a berth program, its fields decoded (R139 to R156). The pilot of a berth issues it; the
predicate field stands beside it. -/
inductive PWord where
  | sr (op : SrOp) (rd rs1 rs2 : BitVec 5)
  | si (op : SiOp) (rd rs1 : BitVec 5) (imm : W32)
  | cmp (op : CmpOp) (pd : BitVec 3) (rs1 rs2 : BitVec 5)
  | btst (pd : BitVec 3) (rs1 : BitVec 5) (bit : BitVec 6)
  | plog (op : PlOp) (pd pa pb : BitVec 3)
  | ld (signed : Bool) (rd rb : BitVec 5) (size : BitVec 2) (off : W32)
  | st (rs rb : BitVec 5) (size : BitVec 2) (off : W32)
  | br (off : W16)
  | brl (rd : BitVec 5) (off : W16)
  | jr (rs1 : BitVec 5)
  | jrl (rd rs1 : BitVec 5)
  | nop
  | frameEnd
  | sync (mask : BitVec 6)
  | rdctx (rd : BitVec 5) (sel : BitVec 4)
  | vsetvl (src : Bool) (rs : BitVec 5) (rows cols : BitVec 8)
  | ltIssue (ln : BitVec 2) (sc ss sd sg : BitVec 5)
  | ltWait (ln : BitVec 2) (pd : BitVec 3) (sn : BitVec 5) (clr : Bool)
  | chSend (ln : BitVec 2) (t : BitVec 4) (chan : BitVec 8) (fmt : BitVec 4)
  | chRecv (ln : BitVec 2) (t : BitVec 4) (chan : BitVec 8)
  | accOpen (g : BitVec 3) (w init : Bool) (sk sn : BitVec 5)
  | accClose (g : BitVec 3)
  | mma (g : BitVec 3) (p : MmPair) (mrows : BitVec 8)
  | mmaG (g : BitVec 3) (p : MmPair) (n : BitVec 4) (mrows : BitVec 8)
  | mmaF (g : BitVec 3) (p q : MmPair) (mrows : BitVec 8)
  | mxFclr
  | vec (op : VOp) (v : VFields)
  | vred (v : RdFields)
  | vget (sd a sx : BitVec 5) (fa : BitVec 4) (xa : Bool)
  | vput (d sv sx : BitVec 5) (fd : BitVec 4)
  | flagsRd (sd : BitVec 5)
  | vxFclr
  | optMom (t1 t2 : BitVec 4) (g sa : BitVec 5)
  | optStep (t1 t2 t4 : BitVec 4) (sa sb : BitVec 5)
  | optApply (t1 t2 t4 : BitVec 4) (g sa sc : BitVec 5)
  deriving DecidableEq, Repr

/-- A memory request from a peer or from the host bridge (R326, R500): `h` is the bit from the host,
`epoch` is unused by these kinds. -/
structure MemReq where
  src : W16
  tag : BitVec 14
  h : Bool
  frame : FrameTag
  addr : BitVec 48
  /-- For a path-routed request, the ports its answer takes (R321). -/
  back : Option (List (BitVec 5)) := none
  deriving DecidableEq, Repr

/-- The tag of a caravan tile or of a request for a leg (KIND 0x30, 0x31). -/
inductive CvTag where
  | stream (t : FrameTag)
  | load (gen : W32) (set : BitVec 6) (slot : Bool)
  deriving DecidableEq, Repr

/-- RED_ITEM and RED_RESULT (the reduction item table, R328). `word16` is bytes 16 to 19: NODE of an item, Q_ROOT of a
result. -/
structure RedMsg where
  src : W16
  tag : FrameTag
  epoch : W32
  ctx : BitVec 6
  tile : BitVec 6
  last : Bool
  nf : Bool
  r : W16
  level : BitVec 5
  word16 : W32
  qSum : W32
  qMin : W32
  qMax : W32
  data : List Byte
  deriving DecidableEq, Repr

/-- The acknowledgement and credit fields of a passing flit (R294, R295). -/
structure AckFields where
  ackSeq : BitVec 12
  ackValid : Bool
  nak : Bool
  credit : BitVec 8
  pool : BitVec 4
  resv : BitVec 9
  deriving DecidableEq, Repr

/-- A flit whose CRCs match: its header fields and its payload bytes 8 to 119 (the flit header table, R294). -/
structure Flit where
  typ : BitVec 4
  seq : BitVec 12
  ack : AckFields
  cls : BitVec 3
  som : Bool
  eom : Bool
  len : BitVec 7
  shared : Bool
  payload : List Byte
  deriving DecidableEq, Repr

/-- The payload of a PARAM flit (R303). -/
structure ParamFlit where
  port : BitVec 8
  qslot : BitVec 3
  hostport : Bool
  dev : W16
  version : W32
  idTag : W64
  deriving DecidableEq, Repr

/-- The path block (R321): ports, arrival ports, hops, and the reserved bytes 22 and 23. -/
structure PathBlock where
  ports : List (BitVec 5)
  rets : List (BitVec 5)
  nhops : Nat
  hop : Nat
  resv : W16 := 0
  deriving DecidableEq, Repr

/-- A Voxle message as a switch sees it (R322): the header and the bytes after it. -/
structure RawMsg where
  dst : W16
  src : W16
  kind : BitVec 8
  ttl : BitVec 6
  mc : Bool
  h : Bool
  nf : Bool
  tag : BitVec 14
  epoch : W32
  resv : BitVec 12
  lenOk : Bool
  path : Option PathBlock
  body : List Byte
  deriving DecidableEq, Repr

/-- What reaches a pier die: from a port of its own (none: from a unit of this device). -/
abbrev Arrival := Option PortIdx

/-- An AUD_REQ (KIND 0xA0, R343): the captured slice as bytes. -/
structure AudReq where
  src : W16
  tag : BitVec 14
  frame : FrameTag
  berth : BerthIdx
  group : BitVec 3
  wide16 : Bool
  fa : BitVec 4
  fb : BitVec 4
  kblk : BitVec 3
  block : BitVec 2
  row0 : BitVec 8
  height : BitVec 8
  sk : W64
  counter : W32
  load : BitVec 8
  temp : BitVec 8
  digest : W64
  aRows : List Byte
  aScales : List Byte
  bRows : List Byte
  bScales : List Byte
  cells : List W32
  deriving DecidableEq, Repr

/-- The body of a MEMBERSHIP event (the membership body table, R376). -/
structure MemberBody where
  epoch : W32
  rl : W16
  rlAlt : W16
  rollback : Bool
  fallback : Bool
  cause : W16
  ckpt : W64
  lost : List W16
  deriving DecidableEq, Repr

/-- A fall that takes the device into reset (R457). -/
inductive ResetPin where
  | resetN | pwrOk
  deriving DecidableEq, Repr

/-- Bytes of the boot flash that the board's controller has programmed while the device was in reset, from an address on
(R462). -/
structure FlashPart where
  addr : BitVec 26
  bytes : List Byte
  deriving DecidableEq, Repr

/-- A signal that the boundary register covers (R439): the GPIO pins, the open-drain outputs, the reset of each memory
device, and by number the other CMOS and LPDDR5X signals. -/
inductive Pin where
  | gpio (n : BitVec 4)
  | prochotN | thermtripN | smbAlertN
  | memResetN (m : BitVec 5)
  | other (k : Nat)
  deriving DecidableEq, Repr

/-- What the mask ROM found besides the bytes of the flash (R428, R430): whether the flash answered, and
the seed it extracted from the PUF response, if its check passed. -/
structure BootIn where
  flashOk : Bool := true
  seed : Option (List Byte) := none
  deriving DecidableEq, Repr

/-- A lane of a seam: die, seam, facing pair, whether its direction is into the die, group, lane (R307). -/
structure SeamLane where
  die : BitVec 2
  seam : BitVec 2
  pair : BitVec 3
  inward : Bool
  group : BitVec 5
  lane : BitVec 5
  deriving DecidableEq, Repr

/-- A rail measurement: millivolts and units of 0.1 A (R486). -/
structure RailIn where
  mv : W16
  ma : W16
  deriving DecidableEq, Repr

/-- What a vendor instruction of the TAP does with the access that its scope opens (R435): reads and writes of memory for
MEM_ACCESS; halting, stepping and inspecting a pilot, its queues and tile registers for BERTH_DEBUG. -/
inductive DebugAct where
  | none
  | memRead (addr : BitVec 48) (n : Nat)
  | memWrite (addr : BitVec 48) (data : List Byte)
  | halt (b : BerthIdx)
  | step (b : BerthIdx)
  | inspect (b : BerthIdx)
  deriving DecidableEq, Repr

/-- The commands (spec/opcode_table.json, in the table's order). -/
inductive Instr where
  -- ticks, frames, recall (02)
  | baseTick (t : TickIn)
  | tick (port : PortIdx) (m : TickMsg)
  | holdoverStart
  | tickLost
  | backupTakeover
  | tickCfgWrite (r : Req) (v : W32)
  | tkRoleWrite (r : Req) (v : W32)
  | fdCfgWrite (r : Req) (d : DomIdx) (v : W32)
  | hold (r : Req) (d : DomIdx)
  | resume (r : Req) (d : DomIdx)
  | guardPoint (d : DomIdx)
  | recall (m : RecallMsg)
  | abortComplete (d : DomIdx)
  | tmrCfgWrite (r : Req) (slot : BitVec 3) (reg : TmrReg) (v : W32)
  | frameTimerFire (slot : BitVec 3)
  | gpioPulseEnd (pin : BitVec 4)
  -- units of a berth (03 to 06)
  | queueEntryFree (b : BerthIdx)
  | pilotStallEnd (b : BerthIdx) (x : ReadEvent := .clean)
  | engineWordCheck (b : BerthIdx) (u : EngUnit)
  | mxeStart (b : BerthIdx)
  | accCloseFold (b : BerthIdx) (g : BitVec 3)
  | vxeStart (b : BerthIdx)
  | ltDescStart (b : BerthIdx) (n : BitVec 2) (x : ReadEvent)
  | ltDescComplete (b : BerthIdx) (n : BitVec 2)
  | sliceReadRetry (b : BerthIdx) (off : BitVec 28) (ok : Bool)
  | ltGo (r : Req) (b : BerthIdx) (n : BitVec 2) (v : W32)
  | chanPost (h : ChanHdr)
  | chan (h : ChanHdr) (fmt : BitVec 4) (data : List Byte)
  | chanAck (b : BerthIdx) (n : BitVec 2) (dropped : Bool := false)
  -- pilot words (06)
  | add (b : BerthIdx) (p : BitVec 3) (rd rs1 rs2 : BitVec 5)
  | sub (b : BerthIdx) (p : BitVec 3) (rd rs1 rs2 : BitVec 5)
  | and (b : BerthIdx) (p : BitVec 3) (rd rs1 rs2 : BitVec 5)
  | or (b : BerthIdx) (p : BitVec 3) (rd rs1 rs2 : BitVec 5)
  | xor (b : BerthIdx) (p : BitVec 3) (rd rs1 rs2 : BitVec 5)
  | shl (b : BerthIdx) (p : BitVec 3) (rd rs1 rs2 : BitVec 5)
  | shr (b : BerthIdx) (p : BitVec 3) (rd rs1 rs2 : BitVec 5)
  | sar (b : BerthIdx) (p : BitVec 3) (rd rs1 rs2 : BitVec 5)
  | mul (b : BerthIdx) (p : BitVec 3) (rd rs1 rs2 : BitVec 5)
  | mulhu (b : BerthIdx) (p : BitVec 3) (rd rs1 rs2 : BitVec 5)
  | minu (b : BerthIdx) (p : BitVec 3) (rd rs1 rs2 : BitVec 5)
  | maxu (b : BerthIdx) (p : BitVec 3) (rd rs1 rs2 : BitVec 5)
  | addi (b : BerthIdx) (p : BitVec 3) (rd rs1 : BitVec 5) (imm : W32)
  | andi (b : BerthIdx) (p : BitVec 3) (rd rs1 : BitVec 5) (imm : W32)
  | ori (b : BerthIdx) (p : BitVec 3) (rd rs1 : BitVec 5) (imm : W32)
  | xori (b : BerthIdx) (p : BitVec 3) (rd rs1 : BitVec 5) (imm : W32)
  | shli (b : BerthIdx) (p : BitVec 3) (rd rs1 : BitVec 5) (imm : W32)
  | shri (b : BerthIdx) (p : BitVec 3) (rd rs1 : BitVec 5) (imm : W32)
  | sari (b : BerthIdx) (p : BitVec 3) (rd rs1 : BitVec 5) (imm : W32)
  | lih (b : BerthIdx) (p : BitVec 3) (rd rs1 : BitVec 5) (imm : W32)
  | cmpEq (b : BerthIdx) (p pd : BitVec 3) (rs1 rs2 : BitVec 5)
  | cmpNe (b : BerthIdx) (p pd : BitVec 3) (rs1 rs2 : BitVec 5)
  | cmpLt (b : BerthIdx) (p pd : BitVec 3) (rs1 rs2 : BitVec 5)
  | cmpLe (b : BerthIdx) (p pd : BitVec 3) (rs1 rs2 : BitVec 5)
  | cmpGt (b : BerthIdx) (p pd : BitVec 3) (rs1 rs2 : BitVec 5)
  | cmpGe (b : BerthIdx) (p pd : BitVec 3) (rs1 rs2 : BitVec 5)
  | cmpLtu (b : BerthIdx) (p pd : BitVec 3) (rs1 rs2 : BitVec 5)
  | cmpLeu (b : BerthIdx) (p pd : BitVec 3) (rs1 rs2 : BitVec 5)
  | cmpGtu (b : BerthIdx) (p pd : BitVec 3) (rs1 rs2 : BitVec 5)
  | cmpGeu (b : BerthIdx) (p pd : BitVec 3) (rs1 rs2 : BitVec 5)
  | btst (b : BerthIdx) (p pd : BitVec 3) (rs1 : BitVec 5) (bit : BitVec 6)
  | pand (b : BerthIdx) (p pd pa pb : BitVec 3)
  | por (b : BerthIdx) (p pd pa pb : BitVec 3)
  | pandn (b : BerthIdx) (p pd pa pb : BitVec 3)
  | ld (b : BerthIdx) (p : BitVec 3) (rd rb : BitVec 5) (size : BitVec 2) (off : W32) (x : ReadEvent)
  | lds (b : BerthIdx) (p : BitVec 3) (rd rb : BitVec 5) (size : BitVec 2) (off : W32) (x : ReadEvent)
  | st (b : BerthIdx) (p : BitVec 3) (rs rb : BitVec 5) (size : BitVec 2) (off : W32)
  | br (b : BerthIdx) (p : BitVec 3) (off : W16)
  | brl (b : BerthIdx) (p : BitVec 3) (rd : BitVec 5) (off : W16)
  | jr (b : BerthIdx) (p : BitVec 3) (rs1 : BitVec 5)
  | jrl (b : BerthIdx) (p : BitVec 3) (rd rs1 : BitVec 5)
  | nop (b : BerthIdx) (p : BitVec 3)
  | frameEnd (b : BerthIdx) (p : BitVec 3)
  | sync (b : BerthIdx) (p : BitVec 3) (mask : BitVec 6)
  | rdctx (b : BerthIdx) (p : BitVec 3) (rd : BitVec 5) (sel : BitVec 4)
  | vsetvl (b : BerthIdx) (p : BitVec 3) (src : Bool) (rs : BitVec 5) (rows cols : BitVec 8)
  | ltIssue (b : BerthIdx) (p : BitVec 3) (ln : BitVec 2) (sc ss sd sg : BitVec 5)
  | ltWait (b : BerthIdx) (p : BitVec 3) (ln : BitVec 2) (pd : BitVec 3) (sn : BitVec 5) (clr : Bool)
  | chSend (b : BerthIdx) (p : BitVec 3) (ln : BitVec 2) (t : BitVec 4) (chan : BitVec 8) (fmt : BitVec 4)
  | chRecv (b : BerthIdx) (p : BitVec 3) (ln : BitVec 2) (t : BitVec 4) (chan : BitVec 8)
  | accOpen (b : BerthIdx) (p : BitVec 3) (g : BitVec 3) (w init : Bool) (sk sn : BitVec 5)
  | accClose (b : BerthIdx) (p : BitVec 3) (g : BitVec 3)
  | mma (b : BerthIdx) (p : BitVec 3) (g : BitVec 3) (m : MmPair) (mrows : BitVec 8)
  | mmaG (b : BerthIdx) (p : BitVec 3) (g : BitVec 3) (m : MmPair) (n : BitVec 4) (mrows : BitVec 8)
  | mmaF (b : BerthIdx) (p : BitVec 3) (g : BitVec 3) (m m2 : MmPair) (mrows : BitVec 8)
  | mxFclr (b : BerthIdx) (p : BitVec 3)
  | vadd (b : BerthIdx) (p : BitVec 3) (v : VFields)
  | vsub (b : BerthIdx) (p : BitVec 3) (v : VFields)
  | vmul (b : BerthIdx) (p : BitVec 3) (v : VFields)
  | vfma (b : BerthIdx) (p : BitVec 3) (v : VFields)
  | vmax (b : BerthIdx) (p : BitVec 3) (v : VFields)
  | vmin (b : BerthIdx) (p : BitVec 3) (v : VFields)
  | vdiv (b : BerthIdx) (p : BitVec 3) (v : VFields)
  | vabs (b : BerthIdx) (p : BitVec 3) (v : VFields)
  | vneg (b : BerthIdx) (p : BitVec 3) (v : VFields)
  | vcvt (b : BerthIdx) (p : BitVec 3) (v : VFields)
  | vrcp (b : BerthIdx) (p : BitVec 3) (v : VFields)
  | vsqrt (b : BerthIdx) (p : BitVec 3) (v : VFields)
  | vrsqrt (b : BerthIdx) (p : BitVec 3) (v : VFields)
  | vexp (b : BerthIdx) (p : BitVec 3) (v : VFields)
  | vexp2 (b : BerthIdx) (p : BitVec 3) (v : VFields)
  | vlog (b : BerthIdx) (p : BitVec 3) (v : VFields)
  | vlog2 (b : BerthIdx) (p : BitVec 3) (v : VFields)
  | vtanh (b : BerthIdx) (p : BitVec 3) (v : VFields)
  | vsigmoid (b : BerthIdx) (p : BitVec 3) (v : VFields)
  | verf (b : BerthIdx) (p : BitVec 3) (v : VFields)
  | vred (b : BerthIdx) (p : BitVec 3) (v : RdFields)
  | vget (b : BerthIdx) (p : BitVec 3) (sd a sx : BitVec 5) (fa : BitVec 4) (xa : Bool)
  | vput (b : BerthIdx) (p : BitVec 3) (d sv sx : BitVec 5) (fd : BitVec 4)
  | flagsRd (b : BerthIdx) (p : BitVec 3) (sd : BitVec 5)
  | vxFclr (b : BerthIdx) (p : BitVec 3)
  | optMom (b : BerthIdx) (p : BitVec 3) (t1 t2 : BitVec 4) (g sa : BitVec 5)
  | optStep (b : BerthIdx) (p : BitVec 3) (t1 t2 t4 : BitVec 4) (sa sb : BitVec 5)
  | optApply (b : BerthIdx) (p : BitVec 3) (t1 t2 t4 : BitVec 4) (g sa sc : BitVec 5)
  -- control of a berth, objects, memory (08, 17)
  | ctrlBlockReset (r : Req) (lighter : Bool) (b : BerthIdx)
  | ctrlQuiesce (r : Req) (b : BerthIdx) (v : Bool)
  | ctrlEnable (r : Req) (b : BerthIdx) (v : Bool)
  | objWinRead (r : Req)
  | objWinWrite (r : Req)
  | cowCopyComplete (x : BitVec 21) (e : ReadEvent)
  | promote (r : Req) (tag : W16)
  | evict (r : Req) (tag : W16)
  | pin (r : Req) (tag : W16)
  | unpin (r : Req) (tag : W16)
  | remap (r : Req) (tag : W16)
  | moveCopyComplete (x : BitVec 21) (e : ReadEvent)
  | moveResRead (r : Req)
  | lpxRateWrite (r : Req) (v : W32)
  | lpxTrainingComplete (m : MemIdx) (chFail : BitVec 8)
  | lpxRefresh (m : MemIdx) (chan : BitVec 3) (bank : BitVec 4)
  | lpxMr4Read (m : MemIdx) (rate : BitVec 3) (hot : Bool)
  | lpxWckOscRead (m : MemIdx)
  | patrolScrubPass (m : MemIdx)
  | rebuildComplete (x : BitVec 21)
  | memPut (q : MemReq) (data : List Byte)
  | memGet (q : MemReq) (n : Nat) (x : ReadEvent)
  | memResp (tag : BitVec 14) (src : W16) (status : W16) (data : List Byte) (port : PortIdx := 0) (bad : Bool := false)
  | putAck (tag : BitVec 14) (src : W16) (status : W16)
  -- weight sets and caravans (09)
  | wsRead (r : Req)
  | wsLoad (r : Req)
  | wsReady (r : Req)
  | wsClear (r : Req)
  | loadGo (r : Req) (reads : List (W16 × ReadEvent) := [])
  | swGo (r : Req) (v : W32)
  | caravanPrefetch (d : DomIdx) (reads : List (W16 × ReadEvent) := [])
  | cvTile (t : CvTag) (leg : W16) (tile : BitVec 8) (fmt : BitVec 4) (data : List Byte)
      (port : PortIdx := 0)
  | cvLegreq (src : W16) (t : CvTag) (leg : W16) (x : ReadEvent := .clean)
  -- reductions, membership (10)
  | reductionSend (ctx : BitVec 6) (red : W16) (b : BerthIdx := 0) (e : ReadEvent := .clean)
  | redItem (m : RedMsg)
  | redResult (m : RedMsg)
  | mbDrain (r : Req) (d : DomIdx)
  | drainComplete (d : DomIdx)
  | mbActivate (r : Req) (d : DomIdx)
  | smGo (r : Req) (v : W32)
  | shardData (src : W16) (tag : BitVec 14) (d : DomIdx) (epoch : W32) (x : BitVec 21) (off : W32) (last : Bool) (digest : W64) (data : List Byte)
      (back : Option (List (BitVec 5)) := none) (port : PortIdx := 0)
  | shardAck (src : W16) (tag : BitVec 14) (epoch : W32) (status : W16) (x : BitVec 21)
  | shardMoveComplete (tag : W16)
  | smResRead (r : Req)
  -- serving and accounting (11)
  | manifestFwd (d : DomIdx) (eff : W64) (first : W64) (entries : List (List Byte))
  | rqGo (r : Req) (v : W32)
  | accClear (r : Req) (v : W32)
  -- optical links (12)
  /-- `symbols` names the wavelength of each corrected symbol, at most 15 (R292, R305). -/
  | codewordReceive (p : PortIdx) (correctable : Bool) (symbols : List Nat) (swap : Option (Fin 9))
  | flitData (p : PortIdx) (bytes : List Byte)
  | flitIdle (p : PortIdx) (bytes : List Byte)
  | flitCtrl (p : PortIdx) (bytes : List Byte)
  | flitKeepalive (p : PortIdx) (bytes : List Byte) (delayNs : W32)
  | flitParam (p : PortIdx) (bytes : List Byte)
  | nakRetryTimeout (p : PortIdx)
  | ackTimeout (p : PortIdx)
  | keepaliveSend (p : PortIdx)
  | kaWindowEnd (p : PortIdx)
  | fastRetrainEnd (p : PortIdx)
  | fastRetrainTimeout (p : PortIdx)
  | portRetrainTimer (p : PortIdx)
  | ptCfgWrite (r : Req) (p : PortIdx) (v : W32)
  | laserMeasureDone (p : PortIdx) (dbm : List W16)
  | lambdaLockTimeout (p : PortIdx) (unlocked : BitVec 9)
  | alignDone (p : PortIdx) (txMap : BitVec 9) (txFailed : BitVec 9 := 0)
  | trainTimeout (p : PortIdx)
  | symbolWindowEnd (p : PortIdx)
  | lambdaSwapComplete (p : PortIdx) (rx : Bool)
  | seamBeatFail (die : BitVec 2) (seam : BitVec 2) (pair : BitVec 3) (group : BitVec 5) (lane : BitVec 5) (newMs : Bool)
      (inward : Bool := false)
  -- routing and register access (13, 17)
  | rtAddrWrite (r : Req) (v : W32)
  | rtWinRead (r : Req)
  | rtWinWrite (r : Req)
  | messageForward (a : Arrival) (m : RawMsg)
  | xportTimeout (tag : BitVec 14)
  | hostMessage (m : RawMsg)
  | event (m : RawMsg)
  | discIdent (a : Arrival) (m : RawMsg)
  | regRd (h : Bool) (hm : Bool) (src : W16) (tag : BitVec 14) (back : Option (List (BitVec 5))) (addr : BitVec 48)
  | regWr (h : Bool) (hm : Bool) (src : W16) (tag : BitVec 14) (back : Option (List (BitVec 5))) (addr : BitVec 48) (v : W32)
  | regResp (src : W16) (tag : BitVec 14) (status : W16) (data : W32)
  | regLoRead (r : Req) (page : BitVec 12) (off : BitVec 12)
  | regLoWrite (r : Req) (page : BitVec 12) (off : BitVec 12) (v : W32)
  | regHiWrite (r : Req) (page : BitVec 12) (off : BitVec 12) (v : W32)
  | counterClearWrite (r : Req) (page : BitVec 12) (off : BitVec 12) (v : W32)
  -- health and audit (14)
  | audReq (q : AudReq)
  | auditRecompute (b b2 : BerthIdx)
  | audResp (src : W16) (tag : BitVec 14) (status : W16) (a1 : W64) (a2 : Option W64)
  | auditS2 (tag : BitVec 14) (b : BerthIdx)
  | auditTimeout (tag : BitVec 14)
  | healthDecay
  | hlStateWrite (r : Req) (v : W32)
  | applyCap (r : Req) (v : W32)
  | hlRecNext (r : Req) (v : W32)
  -- recovery (15)
  | encode (r : Req) (d : DomIdx) (group : BitVec 12)
  | pqGet (src : W16) (tag : BitVec 14) (d : DomIdx) (group : W16) (x : BitVec 21)
  | pqData (src : W16) (status : W16) (d : DomIdx) (group : W16) (x : BitVec 21) (piece : BitVec 4) (digest : W64) (data : List Byte)
      (port : PortIdx := 0)
  | pqAck (src : W16) (status : W16) (x : BitVec 21)
  | pqStale (d : DomIdx) (group : W16)
  | ckptData (src : W16) (d : DomIdx) (x : BitVec 21) (off : W32) (last : Bool) (step : W64) (digest : W64) (data : List Byte)
      (port : PortIdx := 0)
  | ckptAck (src : W16) (status : W16) (x : BitVec 21)
  | ckptDone (src : W16) (d : DomIdx) (step : W64)
  | ckptSafe (d : DomIdx) (epoch : W32) (step : W64) (eff : W64)
  | lossNote (src : W16) (d : DomIdx) (port : BitVec 8) (suspect : W16) (cause : W16) (tDet : W64)
  | probe (src : W16) (d : DomIdx)
  | probeAck (src : W16) (d : DomIdx) (epoch : W32)
  | probeTimeout (d : DomIdx) (suspect : W16)
  | membership (d : DomIdx) (eff : W64) (m : MemberBody)
  | membershipStage (d : DomIdx)
  | leaderTimeout (d : DomIdx)
  | restart (r : Req) (d : DomIdx)
  | ckptNow (r : Req) (d : DomIdx)
  -- interrupts, ledger, locks (16, 17)
  | irqRemind
  | irqClaim (r : Req) (t : BitVec 2)
  | irqComplete (r : Req) (t : BitVec 2) (v : W32)
  | irqSrcWrite (r : Req) (n : BitVec 10) (v : W32)
  | lgClaim (r : Req) (res : BitVec 8) (func : BitVec 4)
  | lgRelease (r : Req) (res : BitVec 8) (func : BitVec 4)
  | lgForceRelease (r : Req) (res : BitVec 8) (func : BitVec 4)
  | lockWrite (r : Req) (page : BitVec 12) (v : W32)
  | cdTempPeakWrite (r : Req) (page : BitVec 12) (v : W32)
  -- board, power, SMBus (19, 20)
  | vauxValid
  | smbAddrSample (v1 v0 : Fin 3)
  | resetRelease (qslot : BitVec 3) (hostport : Bool) (flash : List FlashPart := []) (boot : BootIn := {})
  | resetAssert (pin : ResetPin)
  | refclkLost
  | thermtrip
  | prochotSample (low : Bool)
  | pwrbrkSample (low : Bool)
  | powerControl (vin vaux vddqM vddPhy : Nat) (vopt : Nat := 0) (energyUj : Nat := 0)
  | thermalSensorRead (temps : List Int)
  | railCheck (rails : List RailIn)
  | smbState
  | smbHottestTemp
  | smbDieTemp (i : Fin 6)
  | smbPower
  | smbEnergy
  | smbIdentity
  | smbVersion
  | smbResetCause
  | smbLastErr
  | smbIrqClaim
  | smbIrqComplete (n : W16) (pec : Option Byte := none)
  | smbIrqTop
  | smbAlertResponse
  -- boot, identity, access (18, 21)
  | attest (r : Req)
  | challenge (r : Req)
  | unlockVendor (r : Req)
  | unlockOwner (r : Req)
  | unlockPassword (r : Req)
  | updateImage (r : Req)
  | installCfg (r : Req)
  | installOwner (r : Req)
  | hmCmdDone
  | challengeExpiry
  | unlockWaitEnd
  | extest (cells : List (Pin × Bool) := [])
  | samplePreload (cells : List (Pin × Bool) := [])
  | idcode
  | bypass
  | jtagVendorInstruction (code : BitVec 8) (act : DebugAct := .none)
  | firmwareBringupDone
  | selftestDone (layersFail : List (BitVec 4)) (lanes : List SeamLane)
  | clockLockTimeout
  | linkTrainDeadline
  | wavelengthsLocked (p : PortIdx) (locked : BitVec 9)
  | clockRecoveryLost (p : PortIdx) (lam : Fin 9)
  | rxPowerLow (p : PortIdx) (lam : Fin 9) (dbm : W16)
  | patrolScrubRead (m : MemIdx) (chan : BitVec 3) (sector : BitVec 25) (x : ReadEvent)
  | regulatorFault
  | vauxLost
  | bootRomDone (x : BootIn)
  | readyToggle
  | tapReset
  deriving DecidableEq, Repr

end Sys2Proof
end

