-- ==== Sys2Proof/Machine/State.lean ====
section
/-! DEFINITION. The state of the block as plain data, and the state after reset.
Each record names the rule of spec/ that gives it. Ticks kept inside the machine are natural numbers; what
software reads as a word is a bit vector. -/

namespace Sys2Proof.Machine
open Sys2Proof

/-- The header registers of one page (R409, R413). -/
structure PageHdr where
  quiesce : Bool := false
  enable : Bool := true
  errStatus : BitVec 3 := 0
  errMask : BitVec 2 := 0
  errFirst : W16 := 0
  /-- The lowest code recorded since FIRST_VALID was 0: what two errors of one cycle ask for (R410). -/
  errLow : W16 := 0
  errCount : W32 := 0
  eventStatus : W32 := 0
  eventEnable : W32 := 0
  lock : BitVec 2 := 0
  deriving DecidableEq, Repr

/-- The tick unit (R25 to R28, R330, R331). `goodRun` counts the consecutive ticks in step, `taken` is the number
of the last TICK accepted, `missed` the first tick missed in holdover. -/
structure TickUnit where
  num : W64 := 0
  periodUs : BitVec 10 := 10
  periodNext : Option (BitVec 10 × Nat) := none
  master : Bool := false
  masterFirst : Bool := false
  holdover : Bool := false
  locked : Bool := false
  everLocked : Bool := false
  offsetNs : W16 := 0
  taken : Option W64 := none
  missed : Option Nat := none
  goodRun : Nat := 0
  masterEn : Bool := false
  backupEn : Bool := false
  asBackup : Bool := false
  upAlt : BitVec 5 := 0
  upPort : BitVec 5 := 0
  fwd : BitVec 24 := 0
  depth : BitVec 8 := 0
  masterAddr : Option W16 := none
  deriving DecidableEq, Repr

/-- The states of a frame domain (the domain state table). -/
inductive FdState where
  | idle | armed | opened | done | recalling | held
  deriving DecidableEq, Repr

/-- Where the frame comes from that a waiting domain opens next (R48 to R50, R378). -/
inductive NextRun where
  | fresh
  | replay
  deriving DecidableEq, Repr

/-- A run marked recalled before it opened, with what its recall carried (R47.2). -/
structure Mark where
  f : W64
  replays : BitVec 8
  cause : W16
  tick : Nat
  deriving DecidableEq, Repr

/-- A recall for data that was missing or corrupt (R338): the frame, the cause, the source of the data, the port on which
it last arrived. -/
structure DataLoss where
  f : W64
  cause : W16
  src : W16
  port : Byte
  deriving DecidableEq, Repr

/-- One frame domain (R33 to R50, R499). -/
structure Domain where
  en : Bool := false
  guard : BitVec 12 := 0x032
  len : W16 := 1
  start : W64 := 0
  num : W64 := 0
  st : FdState := .idle
  replays : BitVec 8 := 0
  freshUsed : W16 := 0
  freshLimit : W16 := 0x0040
  holdReq : Bool := false
  offReq : Bool := false
  /-- Opening and ending tick of the run that is open (R33). -/
  opening : Nat := 0
  ending : Nat := 0
  guardSeen : Bool := false
  /-- The guard point of an OPEN or DONE run has passed and no base tick since (TMR_CFG mode 0b10). -/
  guardFresh : Bool := false
  abortDone : Bool := false
  /-- The tick at which the domain opens a frame after a recall (R48, R50), none while it waits. -/
  resumeAt : Option Nat := none
  nextRun : NextRun := .fresh
  /-- The domain becomes HELD once its abort completes, with the code it then records (R27, R49). -/
  holdAfterAbort : Option W16 := none
  /-- The domain was held with its frame recalled, so RESUME replays it (R49). -/
  heldRecalled : Bool := false
  /-- The run before this one was recalled by an overrun or a cause of R499. -/
  replayOfOver : Bool := false
  /-- Runs marked recalled before they opened (R47.2), and runs a recall was taken for (R47.4). -/
  marks : List Mark := []
  taken : List (W64 × BitVec 8) := []
  /-- Poisoned extents whose return to IDLE the domain awaits (R214). -/
  waitExt : List Nat := []
  /-- Lost positions of parity groups that the domain awaits: group and position (R364). -/
  waitPos : List (Nat × Nat) := []
  /-- A frame of the domain has committed or a run has opened since the domain was enabled. -/
  ran : Bool := false
  /-- The effective audit code of the open frame, 0 for none (R341). -/
  audCode : BitVec 4 := 0
  /-- While SUPERVISED, an audit of the open frame ended otherwise than with PASS or AUDITOR_TRANSIENT (R353). -/
  audBad : Bool := false
  /-- The last recall of each frame for missing or corrupt data that was taken here (R337, R338). -/
  dataLoss : List DataLoss := []
  deriving DecidableEq, Repr

/-- A frame-timer slot (R51, R52). -/
structure TimerSlot where
  arm : Bool := false
  fired : Bool := false
  mode : BitVec 2 := 0
  action : BitVec 2 := 0
  domain : BitVec 4 := 0
  gpio : BitVec 4 := 0
  cmp : W64 := 0
  /-- The tick at which the slot has last fired. -/
  at_ : Option Nat := none
  deriving DecidableEq, Repr

/-- States of an interrupt source (R393). -/
inductive SrcState where
  | inactive | pending | active | completing
  deriving DecidableEq, Repr

/-- One interrupt source (R391, R393, R401). -/
structure IrqSrc where
  asserted : Bool := false
  st : SrcState := .inactive
  again : Bool := false
  target : BitVec 2 := 0
  priority : BitVec 4 := 0
  deriving DecidableEq, Repr

/-- The interrupt controller (R391 to R402). IRQ_TOP is computed from the sources (R395). -/
structure Irq where
  /-- Step 5 of R394 has been taken at the present tick, its reminder with it (R399). -/
  judged : Bool := false
  src : Tbl IrqSrc := []
  thresh : Vector (BitVec 4) 3 := Vector.replicate 3 0
  stray : W32 := 0
  withdrawn : W32 := 0
  noevt : W32 := 0
  evtDev : W16 := 0xFFFF
  remind : W16 := 100
  /-- Ticks since the last INTERRUPT at each of which target 0 had an eligible source (R399). -/
  since : Nat := 0
  deriving DecidableEq, Repr

/-- The resource ledger and the GPIO pins (R414 to R420). An owner of none is an unowned resource. -/
structure LedgerEntry where
  owner : Option (BitVec 8) := none
  func : BitVec 4 := 0
  deriving DecidableEq, Repr

/-- A GPIO pin: its configuration, the input level at the pin, the level its function drives, and a pulse in
progress with the level it returns to (R419, R52). -/
structure Gpio where
  level : Bool := false
  out : Bool := false
  input : Bool := false
  drive : Bool := false
  pulse : Option Bool := none
  deriving DecidableEq, Repr

structure Ledger where
  entries : Tbl LedgerEntry := [(0, { owner := some 0xFF, func := 4 })]
  last : W32 := 0
  gpio : Tbl Gpio := []
  deriving DecidableEq, Repr

/-- One bank of the routing tables (R314): raw entry words by index. -/
structure RouteBank where
  quay : Tbl W32 := []
  slot : Tbl W32 := []
  mcast : Tbl W32 := []
  ctx0 : Tbl W32 := []
  ctx1 : Tbl W32 := []
  dom0 : Tbl W32 := []
  dom1 : Tbl W32 := []
  deriving DecidableEq, Repr

/-- Routing and the ROUTE page (R312 to R325, R335). -/
structure Route where
  addr : W16 := 0xFFFF
  bank0 : RouteBank := {}
  bank1 : RouteBank := {}
  active : Bool := false
  fence : BitVec 24 := 0
  drop : W32 := 0
  winSel : W32 := 0
  win0 : W32 := 0
  win1 : W32 := 0
  switchAt : W64 := 0
  /-- RT_SWITCH waits for its tick (R314). -/
  switchWaits : Bool := false
  timeout : W16 := 100
  ttl : BitVec 6 := 16
  mcPortDown : W32 := 0
  deriving DecidableEq, Repr

/-- The host bridge (R332 to R335): requests outstanding as (bridge tag, host tag). -/
structure HostBr where
  req : W32 := 0
  evt : W32 := 0
  drop : W32 := 0
  tags : List (BitVec 14 × BitVec 14) := []
  /-- Flits by class whose credits P23 returns once a tag is free (R332). -/
  owed : List (BitVec 3 × Nat) := []
  deriving DecidableEq, Repr

/-- Kinds of an extent number (R189). -/
inductive ExtKind where
  | scratch | pool | object
  deriving DecidableEq, Repr

/-- States of an extent (the extent state table). -/
inductive ExtState where
  | idle | fresh | promoting | evicting | poisoned | rebuilding | moved
  deriving DecidableEq, Repr

/-- An extent table entry (R198). RETIRED is kept by physical number in `Mem.retired`. -/
structure Ext where
  kind : ExtKind := .scratch
  st : ExtState := .idle
  pin : Bool := false
  freshFd : BitVec 4 := 0
  obj : W16 := 0
  ord : BitVec 21 := 0
  freshPhys : BitVec 21 := 0
  phys : BitVec 21 := 0
  deriving DecidableEq, Repr

/-- An object table entry (R194). -/
structure ObjEntry where
  valid : Bool := false
  sclass : BitVec 2 := 0
  writer : BitVec 5 := 0
  owner : BitVec 8 := 0
  audit : BitVec 4 := 0
  privMap : W16 := 0
  sgroup : W16 := 0
  label : W32 := 0
  extCount : BitVec 21 := 0
  deriving DecidableEq, Repr

/-- A range of physical bytes whose contents the spec leaves open: its byte `lo + i` reads as the free value
of fill `fill` at `org + i` (R67, R195; log 5). -/
structure Unk where
  lo : Nat
  len : Nat
  fill : Nat
  org : Nat
  deriving DecidableEq, Repr

/-- A version that open frames still read (R40, R196), or the source of a switched move (R202). -/
structure OldVer where
  ext : Nat
  phys : Nat
  readers : List Nat
  moved : Bool
  deriving DecidableEq, Repr

/-- A write that waits for a version-on-write copy (R193): the physical address it lands at. -/
structure CowWrite where
  off : Nat
  data : List Byte
  deriving DecidableEq, Repr

/-- A version-on-write copy in progress (R192, R193). -/
structure Cow where
  ext : Nat
  writes : List CowWrite
  deriving DecidableEq, Repr

/-- A MEM_PUT of another device's frame that has version-on-write copies to wait for before it is acknowledged (R70, R193). -/
structure PutWait where
  q : MemReq
  exts : List Nat
  deriving DecidableEq, Repr

/-- Operations of a move request (R199). -/
inductive MoveOp where
  | promote | evict | pin | unpin | remap
  deriving DecidableEq, Repr

/-- A request from outside whose slice read waits for its second read (R500). -/
structure WaitGet where
  b : BerthIdx
  off : BitVec 28
  q : MemReq
  n : Nat
  deriving DecidableEq, Repr

structure MoveReq where
  op : MoveOp
  src : Nat
  dst : Nat
  tag : W16
  deriving DecidableEq, Repr

/-- A move in progress (R201, R202), or a promote that waits for an eviction (R204). -/
structure Move where
  op : MoveOp
  src : Nat
  dst : Nat
  dstPhys : Nat
  tag : W16
  waiting : Bool
  copied : Bool
  /-- The physical extent of the destination has been retired (R213). -/
  dead : Bool := false
  deriving DecidableEq, Repr

/-- A staged write of the object window (R205): the table, the index and the four words. -/
structure Staged where
  extTable : Bool
  index : Nat
  data : BitVec 128
  deriving DecidableEq, Repr

/-- The registers of one LPX page (R216). -/
structure LpxDev where
  chFail : BitVec 8 := 0
  mr4Rate : BitVec 3 := 0
  hot : Bool := false
  trained : Bool := false
  ce : W32 := 0
  lasting : W16 := 0
  transient : W16 := 0
  link : W32 := 0
  ueValid : Bool := false
  ueChan : BitVec 3 := 0
  ueSector : BitVec 25 := 0
  scrub : W32 := 0
  deriving DecidableEq, Repr

/-- Memory tiers and objects (R187 to R216). `bytes` holds the bytes of PHYSICAL extents: byte `o` of physical
extent `x` at `x * 2^20 + o`. -/
structure Mem where
  bytes : List Host.Cell := []
  unk : List Unk := []
  exts : Tbl Ext := []
  objs : Tbl ObjEntry := []
  /-- Free physical extents of the slices, and the LPDDR5X physical extents that are not free (R190). -/
  sramFree : List Nat := []
  lpxTaken : List Nat := []
  retired : List Nat := []
  old : List OldVer := []
  cow : List Cow := []
  putWaits : List PutWait := []
  /-- Objects and domains that still write them in the frame that was open when WRITER changed from them (R197). -/
  keepsWrite : List (Nat × Nat) := []
  /-- Objects and domains that do not write them yet in the frame that was open when WRITER changed to them (R197). -/
  notYetWrite : List (Nat × Nat) := []
  staged : List Staged := []
  moveReqs : List MoveReq := []
  moves : List Move := []
  waitGets : List WaitGet := []
  moveRes : List (W16 × W16) := []
  winSel : W32 := 0
  win0 : W32 := 0
  win1 : W32 := 0
  win2 : W32 := 0
  win3 : W32 := 0
  moveSrc : BitVec 21 := 0
  moveDst : BitVec 21 := 0
  poolSel : BitVec 8 := 0
  rate : BitVec 4 := 7
  training : Bool := false
  lpx : Tbl LpxDev := []
  deriving DecidableEq, Repr

/-- A tile register, a group's cells, as sparse bytes. A byte not listed is 0 while `fill` is none, and the free
value of the fill otherwise (R38, R89; log 5). -/
structure Bank where
  fill : Option Nat := none
  cells : Tbl Byte := []
  deriving DecidableEq, Repr

/-- An accumulation group (R88 to R93, R102). Flags are NF, NI, NV, OF in bits 3 to 0. -/
structure Group where
  opened : Bool := false
  w16 : Bool := false
  key : W64 := 0
  ctr : W32 := 0
  flags : BitVec 4 := 0
  bank : Bank := {}
  deriving DecidableEq, Repr

/-- An instruction in a unit's queue with its issue number and what it captured at issue (R54, R131): the four
words of a descriptor for a lighter, the scalar operands for an engine. -/
structure QEnt where
  seq : Nat
  w : PWord
  a : W64 := 0
  b : W64 := 0
  c : W64 := 0
  d : W64 := 0
  rows : BitVec 8 := 128
  cols : BitVec 8 := 128
  driver : Bool := false
  /-- MXFLAGS as a waiting word found them when a later close folded or a later MX_FCLR cleared them (R127). -/
  mx : Option (BitVec 4) := none
  deriving DecidableEq, Repr

/-- The descriptor a lighter runs: `wait` counts responses that are outstanding, `got` holds data received by
offset, `dead` an access that never completes (R66), `ok` that a channel end or an acknowledgement has come. -/
structure Running where
  ent : QEnt
  wait : Nat := 0
  got : List (Nat × List Byte) := []
  dead : Bool := false
  posted : Bool := false
  sent : Bool := false
  ok : Bool := false
  /-- The row watermark of a receive's tile register: the rows below it have landed (R57). -/
  rows : Nat := 0
  /-- The order in which the descriptors of the berth started (R80). -/
  start : Nat := 0
  /-- The bytes that a SEND or a write to a peer has sent: its source may be overwritten before it completes (R73, R74). -/
  sentData : Option (List Byte) := none
  deriving DecidableEq, Repr

/-- A lighter (R70, R83). -/
structure Lighter where
  queue : List QEnt := []
  run : Option Running := none
  stopped : Bool := false
  mismatch : Bool := false
  done : W32 := 0
  digest : W64 := 0
  desc : Vector W32 8 := Vector.replicate 8 0
  deriving DecidableEq, Repr

/-- States of a pilot (PL_STATUS.STATE, R135); `held` is one that a debugger has halted (R435). -/
inductive PlState where
  | idle | run | stalled | halted | held
  deriving DecidableEq, Repr

/-- A posting of a receive as its producer sees it (R80, R327). -/
structure Posting where
  chan : BitVec 8
  dev : W16
  berth : BerthIdx
  deriving DecidableEq, Repr

/-- A berth (03 to 06). `vflags` is NF, NI, NV, DZ, OF, UF in bits 5 to 0; `mxflags` NF, NI, NV, OF in bits 3 to 0. -/
structure Berth where
  scal : Tbl W64 := []
  pred : BitVec 8 := 0
  imem : Tbl W64 := []
  pc : BitVec 16 := 0
  entry : BitVec 15 := 0
  pl : PlState := .idle
  stall : Option (BitVec 3 × PWord) := none
  /-- The pilot waits for a load that never completes (R66). -/
  dead : Bool := false
  /-- The frame-end instruction has executed (R37, R133). -/
  ended : Bool := false
  seq : Nat := 0
  tiles : Tbl Bank := []
  groups : Tbl Group := []
  mxq : List QEnt := []
  /-- Closes that have left the queue and wait for their fold, with their issue numbers (R98). -/
  closing : List (Nat × BitVec 3) := []
  mxStopped : Bool := false
  mxflags : BitVec 4 := 0
  doubleEn : Bool := false
  vxq : List QEnt := []
  vxStopped : Bool := false
  vflags : BitVec 6 := 0
  vlRows : BitVec 8 := 128
  vlCols : BitVec 8 := 128
  /-- Scalars that stay pending because the instruction that writes them was refused (R128, R134). -/
  stuck : List (BitVec 5) := []
  lt : Vector Lighter 4 := Vector.replicate 4 {}
  ltFlag : Bool := false
  ce : W32 := 0
  /-- Postings that have reached this berth as a producer (R80, R327). -/
  postings : List Posting := []
  /-- Channels whose first message of the frame the consumer has checked (R80). -/
  checked : List (BitVec 8) := []
  /-- Descriptors started so far (R80). -/
  starts : Nat := 0
  /-- The sampling register z (R342). -/
  audZ : W32 := 0
  deriving DecidableEq, Repr

/-- A forwarded manifest entry that waits for admission: its index, its effective tick, its 64 bytes and its
deferral count (R276, R278). -/
structure PendEntry where
  idx : W64
  eff : Nat
  data : List Byte
  defers : Nat := 0
  deriving DecidableEq, Repr

/-- What the device keeps of an admitted entry besides its slot entry: the frames it runs, its deadline, the sets it names,
and the weight-set slots it has latched (R222, R223, R274). -/
structure Latch where
  frames : Nat := 0
  deadline : W64 := 0
  baseSet : BitVec 8 := 0xFF
  adaptSet : BitVec 8 := 0xFF
  base : Option (BitVec 6 × Bool) := none
  adapt : Option (BitVec 6 × Bool) := none
  deriving DecidableEq, Repr

/-- The CLIENT group of a domain and its serving state (R271 to R280, R287). `nextRead` is the lowest index the lead
has not read, `records` the completion records that leave at rank 11. -/
structure Serve where
  serve : Bool := false
  client : BitVec 8 := 0
  nslots : BitVec 9 := 0
  depth : BitVec 13 := 0
  mfObj : W16 := 0
  slotObj : W16 := 0
  kvObj : W16 := 0
  lead : W16 := 0
  mask : BitVec 256 := 0
  cons : W64 := 0
  nextRead : Nat := 0
  pend : List PendEntry := []
  latches : Tbl Latch := []
  /-- Slots the open frame admitted; their latches are undone after a recall of that frame (R223, R282). -/
  admitted : List Nat := []
  undo : Bool := false
  records : List (List Byte) := []
  /-- Slots whose DONE byte 7 the open frame has written: a commit with DONE[63] set completes a SEQUENCE (R280). -/
  doneWrites : List Nat := []
  deriving DecidableEq, Repr

/-- The residency query registers (R283, R287). -/
structure Query where
  sel : W32 := 0
  busy : Bool := false
  sram : BitVec 21 := 0
  lpx : BitVec 21 := 0
  busyCnt : BitVec 21 := 0
  berths : BitVec 256 := 0
  deriving DecidableEq, Repr

/-- What an open frame has accrued (R284, R285). -/
structure Accrual where
  mxe : Nat := 0
  vxe : Nat := 0
  lt : Nat := 0
  lpx : Nat := 0
  tx : Nat := 0
  rx : Nat := 0
  energy : Nat := 0
  deriving DecidableEq, Repr

/-- Accounting (R284 to R288). Counters by client * 16 + index; `act` the weighted events of the tick by client
(R286); `rem` the energy remainder as numerator and denominator. -/
structure Acct where
  sel : BitVec 8 := 0
  clear : List (BitVec 8) := []
  w : Vector (BitVec 8) 9 := #v[4, 10, 14, 16, 26, 24, 3, 1, 4]
  wVoxle : BitVec 8 := 3
  ctr : Tbl W64 := []
  open_ : Tbl Accrual := []
  /-- Work outside frames by client, which waits for the base tick (R285). -/
  late : Tbl Accrual := []
  act : Tbl Nat := []
  rem : Tbl (Nat × Nat) := []
  deriving DecidableEq, Repr

/-- States of a weight-set slot (the slot state table, R218). -/
inductive SlotState where
  | free | loading | ready | current | draining
  deriving DecidableEq, Repr

/-- A slot of a weight set (R218), its load caravan (R238) and, while DRAINING, the switch that made it so (R225). -/
structure WsSlot where
  st : SlotState := .free
  owner : BitVec 8 := 0
  refs : W16 := 0
  firstObj : W16 := 0
  nObj : W16 := 0
  gen : W32 := 0
  altDev : W16 := 0xFFFF
  legsOut : W16 := 0
  legsFailed : W16 := 0
  loadList : W16 := 0
  loadLand : W16 := 0
  loadLegs : W16 := 0
  drainMask : W16 := 0
  drainTick : Nat := 0
  /-- The staging partitions that the load caravan uses, PD1 above PD0 (R236; log 17). -/
  parts : W16 := 0
  /-- Bytes of the load caravan, added to its client once no leg is outstanding (R285). -/
  owed : Accrual := {}
  deriving DecidableEq, Repr

/-- Commands of the weight-set window that wait for the next base tick (R219, R221). -/
inductive WsOp where
  | load | ready | clear
  deriving DecidableEq, Repr

structure WsCmd where
  op : WsOp
  set : Nat
  slot : Bool
  data : BitVec 128
  deriving DecidableEq, Repr

/-- A generation switch that waits for its effective tick (R224). -/
structure Switch where
  set : Nat
  slot : Bool
  gen : W32
  tick : Nat
  mask : W16
  deriving DecidableEq, Repr

/-- What this device holds of one leg of a caravan: the tag it runs under, the tiles that have come, whether the leg was
asked for a second time, whether its digest matched, the berths it has landed at (R232, R237). `f` is the frame number of a
stream leg, the generation of a load leg; `key` the domain, or 16 + 2 * set + slot. -/
structure LegIn where
  key : Nat
  f : Nat
  leg : Nat
  got : List (Nat × List Byte) := []
  retried : Bool := false
  done : Bool := false
  bad : Bool := false
  landed : List Nat := []
  deriving DecidableEq, Repr

/-- The caravan of a domain (R229 to R235, R241). -/
structure Caravan where
  list : W16 := 0
  land : W16 := 0
  en : Bool := false
  prefetch : Bool := false
  nlegs : W16 := 0
  parts : W16 := 0
  legsSent : W16 := 0
  /-- The legs of the open frame that fall to this device are all sent; stopped by EXTENT_MOVED (R229). -/
  allSent : Bool := false
  stopped : Bool := false
  /-- The frame whose legs were sent ahead, and those of them that were not yet (R235). -/
  ahead : Option W64 := none
  aheadLeft : List Nat := []
  deriving DecidableEq, Repr

/-- A rebuild of a weight extent from another quay's copy: that device, the address there, whether a piece's digest has not
matched, and whether it is the second request (R240, R337). -/
structure AltRead where
  ext : Nat
  dev : W16
  addr : Nat
  bad : Bool := false
  again : Bool := false
  /-- Bytes of the read, added to the house once it ends (R285). -/
  owed : Accrual := {}
  deriving DecidableEq, Repr

/-- Weight sets and caravans (R218 to R241). -/
structure Weights where
  sel : W32 := 0
  data0 : W32 := 0xFFFF0000
  data1 : W32 := 0
  data2 : W32 := 0
  data3 : W32 := 0
  loadCv : W32 := 0
  loadLegs : W16 := 0
  swDomains : W16 := 0
  swGen : W32 := 0
  swTick : W64 := 0
  slots : Tbl WsSlot := []
  cmds : List WsCmd := []
  switches : List Switch := []
  cv : Tbl Caravan := []
  legs : List LegIn := []
  /-- Domains to be recalled after the ranks of this tick: the frame that opens is recalled at once (R224). -/
  recallNow : List (Nat × W16) := []
  /-- Weight extents without a rebuild source (R240 step 5), and poisoned ones still to be remapped (step 2). -/
  noSource : List Nat := []
  /-- The rebuilds that read another quay's copy (R240 step 3, R337). -/
  alts : List AltRead := []
  deriving DecidableEq, Repr

/-- The membership state of a domain (the membership state table, R264). -/
inductive MState where
  | none | run | drainArmed | draining | drained | activated
  deriving DecidableEq, Repr

/-- The MEMBER group of a domain (R263, R264, R268). -/
structure Member where
  epoch : W32 := 0
  map : W16 := 0
  nextMap : W16 := 0
  drain : W64 := 0
  act : W64 := 0
  st : MState := .none
  stepObj : W16 := 0xFFFF
  /-- An accepted ACTIVATE waits for MB_ACT (R264 step 4). -/
  actPending : Bool := false
  /-- STEP, the run mode word as committed at the opening tick of the open frame (R261). -/
  step : W64 := 0
  mode : W64 := 0
  deriving DecidableEq, Repr

/-- A shard move of this device: extents left to send, the one in flight (R265). -/
structure ShardMove where
  tag : W16
  dom : BitVec 4
  src : Nat
  dst : Nat
  dev : W16
  count : Nat
  started : Bool := false
  /-- Extents acknowledged. -/
  done : Nat := 0
  retried : Bool := false
  failed : Option W16 := none
  /-- LPDDR5X bytes read by owner and payload bytes sent, repeats included, charged once the move ends (R284, R285). -/
  lpx : Tbl Nat := []
  tx : Nat := 0
  /-- The move has ended: its result is posted at the next base tick. -/
  ended : Bool := false
  deriving DecidableEq, Repr

/-- An extent whose digest has mismatched once here: its number and its sender (R265). -/
structure ShardIn where
  ext : Nat
  src : W16
  deriving DecidableEq, Repr

/-- The membership block (R265, R268) with the counts of stale and early messages (R263). -/
structure MemberBlk where
  src : BitVec 21 := 0
  dst : BitVec 21 := 0
  dev : W16 := 0
  groups : Tbl Member := []
  moves : List ShardMove := []
  results : List (W16 × W16) := []
  shardIn : List ShardIn := []
  stale : W32 := 0
  ahead : W32 := 0
  deriving DecidableEq, Repr

/-- One item of a reduction at this device: node, tile, mark, Q fields and data (R328, R329). -/
structure RedNode where
  level : Nat
  node : Nat
  tile : Nat
  nf : Bool
  qSum : W32
  qMin : W32
  qMax : W32
  data : List Byte
  deriving DecidableEq, Repr

/-- One reduction of the open frame: what it has collected and whether it was checked, sent and delivered (R255 to
R258, R329). -/
structure RedRun where
  red : Nat
  checked : Bool := false
  bad : Bool := false
  own : Bool := false
  lasts : Nat := 0
  items : List RedNode := []
  sent : Bool := false
  tilesIn : List Nat := []
  delivered : Bool := false
  flag : Bool := false
  qsum : W32 := 0
  qmin : W32 := 0
  qmax : W32 := 0
  qroot : W32 := 0
  deriving DecidableEq, Repr

/-- A reduction context (R253, R258, R269). -/
structure RedCtx where
  en : Bool := false
  dom : BitVec 4 := 0
  g : BitVec 20 := 0
  statsObj : W16 := 0
  tableObj : W16 := 0
  delivered : W16 := 0
  sent : W16 := 0
  nfStep : Bool := false
  runs : List RedRun := []
  /-- Counts posted by berth, and (berth, reduction) pairs that carry the mark of R185. -/
  counts : Tbl Nat := []
  marks : List (Nat × Nat) := []
  deriving DecidableEq, Repr

/-- What an outstanding request of this device asks for (R325). -/
inductive ReqWhat where
  | ltGet (b : BerthIdx) (n : BitVec 2) (off : Nat)
  | ltPut (b : BerthIdx) (n : BitVec 2)
  | shard (tag : W16) (ext : Nat)
  /-- An extent of a shard move of domain `d` that a membership change has abandoned (R264). -/
  | gone (d : Nat)
  | altRead (ext off : Nat)
  deriving DecidableEq, Repr

structure OutReq where
  tag : BitVec 14
  dev : W16
  what : ReqWhat
  deriving DecidableEq, Repr

/-- The device states (R352). -/
inductive HState where
  | healthy | supervised | restricted | retired
  deriving DecidableEq, Repr

/-- A captured slice of this device (R343): the request it was sent in, whether it has gone to ALT, the auditor it was
last sent to, and once that auditor disagrees its answers A1 and A2 (R346). -/
structure Capture where
  tag : BitVec 14
  q : AudReq
  alt : Bool := false
  a1 : Option W64 := none
  a2 : Option W64 := none
  auditor : W16
  deriving DecidableEq, Repr

/-- A recall of the last second (R338): when (in µs of base ticks), cause, domain, source device. -/
structure RecallNote where
  us : Nat
  cause : W16
  dom : Nat
  src : W16
  deriving DecidableEq, Repr

/-- What the clusters of a LASTING outcome ask for (R350): which of them exist, the TJ_CEIL of a band cluster, whether a
load cluster sets NO_DOUBLE. -/
structure Restriction where
  band : Bool
  load : Bool
  ceil : Option (BitVec 8)
  noDouble : Bool
  deriving DecidableEq, Repr

/-- Faults, health and audit (R337 to R356). Fault records are 32 bytes each. -/
structure Health where
  st : HState := .healthy
  candidate : Bool := false
  capPending : Bool := false
  /-- The pending cap sets NO_DOUBLE as well (R350). -/
  pendNoDouble : Bool := false
  cap : Bool := false
  noDouble : Bool := false
  tjCeil : BitVec 8 := 100
  score : W32 := 0
  rate : BitVec 4 := 7
  auditor : W32 := 0xFFFFFFFF
  seed : W32 := 0
  audFd : W64 := 0
  cntSel : BitVec 8 := 0
  cnt : Tbl W32 := []
  ring : List (List Byte) := []
  recData : List Byte := []
  /-- The restrictions of the clusters found at a LASTING outcome, which wait for the next base tick (R350). -/
  restrictNext : Option Restriction := none
  /-- The load class and band of the last LASTING outcome (R339). -/
  lastLoad : BitVec 8 := 0
  lastBand : BitVec 8 := 0
  recalls : List RecallNote := []
  /-- The port on which data from a device last arrived (R338). -/
  arrived : Tbl Byte := []
  captures : List Capture := []
  auditQ : List AudReq := []
  /-- Slice words that wait for their second read (R337): berth and offset. -/
  sramRetry : List (BerthIdx × BitVec 28) := []
  deriving DecidableEq, Repr

/-- Die temperatures in units of 1/16 °C and their peaks (R421, R422), dies CD0 to CD3 then PD0, PD1; the main clock in
MHz; BIST results. -/
structure Dies where
  temp : Vector (BitVec 16) 6 := Vector.replicate 6 0
  peak : Vector (BitVec 16) 6 := Vector.replicate 6 0
  clockMhz : Nat := 1600
  bistFail : Vector (BitVec 4) 4 := Vector.replicate 4 0
  bistDone : Bool := false
  deriving DecidableEq, Repr

/-- States of a link (the link state table, R302). -/
inductive LState where
  | off | light | lock | align | param | active | retrain | down
  deriving DecidableEq, Repr

/-- A DATA flit that waits for its credit, or for its acknowledgement: its class, whether it used a shared credit, and
how often it has been sent (R296, R298). -/
structure TxFlit where
  seq : BitVec 12 := 0
  cls : BitVec 3
  eom : Bool := true
  shared : Bool := false
  sends : Nat := 0
  /-- The message of a frame that it belongs to (R37), by its number in `State.frameOut`. -/
  frame : Option Nat := none
  /-- The domain and the epoch of the reduction message that it belongs to (R263, R264 step 3). -/
  red : Option (Nat × W32) := none
  deriving DecidableEq, Repr

/-- A flit in the receive buffer: its class, whether it used a shared credit, its payload (R294, R296). -/
structure RxFlit where
  cls : BitVec 3
  shared : Bool
  data : List Byte := []
  deriving DecidableEq, Repr

/-- A wavelength swap that codeword control has announced: the direction and the wavelength that failed (R305, R306). -/
structure Swap where
  rx : Bool
  lam : Nat
  deriving DecidableEq, Repr

/-- A port (R290 to R309). Wavelength masks have bit k for λk. -/
structure Port where
  mode : BitVec 2 := 0
  spareThr : BitVec 4 := 5
  st : LState := .off
  txAct : BitVec 9 := 0
  rxAct : BitVec 9 := 0
  /-- Wavelengths that failed in the receive and in the transmit direction. -/
  rxFailed : BitVec 9 := 0
  txFailed : BitVec 9 := 0
  txDeg : Bool := false
  rxDeg : Bool := false
  txSpare : Bool := false
  rxSpare : Bool := false
  peerDev : W16 := 0
  peerPort : BitVec 8 := 0
  parityBad : Bool := false
  peerHost : Bool := false
  peerSlot : BitVec 3 := 0
  peerId : W64 := 0
  flitErr : W32 := 0
  replay : W32 := 0
  fecCe : W32 := 0
  fecUe : W32 := 0
  kaMiss : W32 := 0
  trains : W16 := 0
  retrains : W16 := 0
  lsel : BitVec 4 := 0
  /-- Corrected symbols by wavelength: of the window in progress and of the last complete one (R305). -/
  sym : Tbl Nat := []
  symLast : Tbl Nat := []
  /-- Laser input power and received power by wavelength, in 0.1 dBm. -/
  laser : Tbl W16 := []
  rxPwr : Tbl W16 := []
  /-- A passing KEEPALIVE has come in the window; windows missed in a row (R299). -/
  kaSeen : Bool := false
  missRow : Nat := 0
  delayNs : W32 := 0
  /-- The receiver: next SEQ, and whether it has sent a NAK and discards (R297). -/
  rxNext : BitVec 12 := 0
  nakSent : Bool := false
  nakTwice : Bool := false
  /-- The sender: next SEQ, the replay buffer, flits that wait, credits by class and shared (R296, R298). -/
  txNext : BitVec 12 := 0
  unacked : List TxFlit := []
  waiting : List TxFlit := []
  credits : Vector Nat 8 := Vector.replicate 8 0
  sharedCr : Nat := 0
  /-- Credits the far end holds here: what it has left by class, and shared (R295, R296). -/
  farCredits : Vector Nat 8 := Vector.replicate 8 0
  farShared : Nat := 0
  /-- The receive buffer: the flits that have not left it (R296). -/
  rxBuf : List RxFlit := []
  /-- The class after which the round-robin of R323 goes on. -/
  rr : Nat := 2
  /-- The port has been ACTIVE since reset (R318). -/
  wasActive : Bool := false
  swaps : List Swap := []
  deriving DecidableEq, Repr

/-- One group of one direction of a facing pair: check failures by lane in the window, lanes failed, whether it is shut (R307). -/
structure SeamGroup where
  fails : Tbl Nat := []
  lost : List Nat := []
  shut : Bool := false
  deriving DecidableEq, Repr

/-- A seam of a compute die (R307, R310): groups by (2 * pair + direction) * 32 + group, held at one end of the seam. -/
structure Seam where
  degraded : BitVec 8 := 0
  spared : BitVec 8 := 0
  replay : W32 := 0
  groups : Tbl SeamGroup := []
  deriving DecidableEq, Repr

/-- A checkpoint: its step and the versions retained, as extent and physical extent (R366). -/
structure Ckpt where
  step : W64
  exts : List (Nat × Nat)
  deriving DecidableEq, Repr

/-- The recovery state of a domain (RSTATE, R385). -/
inductive RState where
  | off | armed | noted | staged | restoring | fallback
  deriving DecidableEq, Repr

/-- A suspect the leader has sent a PROBE to, and when the loss was detected (R375). -/
structure Suspect where
  dev : W16
  tDet : W64
  deriving DecidableEq, Repr

/-- A LOSS_NOTE that the alternate keeps: who sent it, its suspect, when the loss was detected (R375). -/
structure LossNote where
  src : W16
  suspect : W16
  tDet : W64
  deriving DecidableEq, Repr

/-- The SURVIVE group of a domain and its recovery machine (R358 to R385). -/
structure Survive where
  en : Bool := false
  chkCtx : BitVec 6 := 0
  chkRed : W16 := 0
  pgObj : W16 := 0
  ckptK : W16 := 0
  wardObj : W16 := 0
  planObj : W16 := 0
  logDepth : W16 := 0
  logObj : W16 := 0
  rl : W16 := 0
  rlAlt : W16 := 0
  seedTag : W64 := 0
  rstate : RState := .off
  exposed : Bool := false
  safe : Option Ckpt := none
  newer : Option Ckpt := none
  lost : List W16 := []
  /-- Ward objects that the domain has adopted since LOST was last cleared (R371, R378). -/
  adopted : List Nat := []
  /-- Extents of NEW whose copy has not been acknowledged, each with the number of its ward extent at the buddy, and those
  sent a second time (R367). -/
  unacked : List (Nat × Nat) := []
  resent : List Nat := []
  ckptNow : Bool := false
  /-- The leader's records: CKPT_DONE by member, the newest step named in CKPT_SAFE, suspects (R368, R375). -/
  done : List (W16 × W64) := []
  lastSafe : Option W64 := none
  /-- Epoch and step of the last CKPT_SAFE sent here. -/
  safeSent : Option (W32 × W64) := none
  suspects : List Suspect := []
  /-- Notes on suspects other than the leader, at the alternate, until it acts as leader or a change is applied (R375). -/
  notes : List LossNote := []
  /-- A CKPT_SAFE that waits for its tick: epoch, step, tick. -/
  safeAt : Option (W32 × W64 × Nat) := none
  /-- A MEMBERSHIP received, and the one staged, with their resume ticks (R377). -/
  received : Option (Nat × MemberBody) := none
  staged : Option (Nat × MemberBody) := none
  preMode : W64 := 0
  preWide : W64 := 0
  sEnd : W64 := 0
  /-- CHECK of the check reduction delivered in the step (R369). -/
  check : W64 := 0
  /-- The last MEMBERSHIP body that this device sent as leader and the earliest T_det of its recovery, until it is applied
  (R376). -/
  sent : Option MemberBody := none
  tMin : Option W64 := none
  /-- A rollback was applied at this tick: SEQUENCE slots end at rank 5 (R378). -/
  seqLost : Bool := false
  deriving DecidableEq, Repr

/-- A fresh version of a ward extent at the buddy (R367). -/
structure Ward where
  ext : Nat
  phys : Nat
  step : W64
  dom : Nat
  /-- Its digest has mismatched once. -/
  retried : Bool := false
  deriving DecidableEq, Repr

/-- The state of a parity group (the group state table, R362). -/
inductive PgState where
  | stale | encoding | whole | degraded | critical | rebuilding | broken
  deriving DecidableEq, Repr

structure PGroup where
  st : PgState := .stale
  lost : List Nat := []
  /-- The position rebuilt on REB_DEV (R363). -/
  rebuilt : Option Nat := none
  /-- The device that the table named for it then: a table that names another device makes it void. -/
  rebuiltFor : Nat := 0
  /-- The lost position that REB_DEV rebuilds, and how many of its extents are done: a rebuild resumes there (R363). -/
  target : Option Nat := none
  done : Nat := 0
  /-- Positions whose extents have failed as sources of a rebuild (R363). -/
  bad : List Nat := []
  deriving DecidableEq, Repr

/-- A piece of a position's extent that has come: position, byte offset, bytes. -/
structure PqPiece where
  pos : Nat
  off : Nat
  data : List Byte
  deriving DecidableEq, Repr

/-- What a parity job does: it encodes a group, rebuilds a poisoned extent of this device, or rebuilds a lost position on
REB_DEV (R362, R363). -/
inductive PqWhat where
  | encode | extent | position
  deriving DecidableEq, Repr

/-- An encoding or a rebuild of one extent of a group: its target position, its place in the position, the extent
written, the positions read, the pieces that have come, the positions asked for a second time (R362, R363). -/
structure PqJob where
  what : PqWhat
  dom : Nat
  group : Nat
  pos : Nat
  j : Nat
  dst : Nat
  srcs : List Nat
  got : List PqPiece := []
  again : List Nat := []
  /-- The target has been written: a rebuild waits for its end. -/
  ready : Bool := false
  /-- Q of an encoding, sent to DEV[9]; whether it was sent a second time. -/
  q : List Byte := []
  resent : Bool := false
  deriving DecidableEq, Repr

/-- The SURVIVE page (R385). Parity groups by domain * 65536 + group. -/
structure SurvivePage where
  pgSel : W32 := 0
  arg : W64 := 0
  wideSteps : W32 := 100
  doms : Tbl Survive := []
  groups : Tbl PGroup := []
  /-- MEMBERSHIPs after a path loss that were applied: the counter of SV_PATH_RECOVERED (R386, R410). -/
  pathRecovered : W32 := 0
  wards : List Ward := []
  jobs : List PqJob := []
  /-- Extents of Q whose digest has mismatched once here (R337). -/
  qRetry : List Nat := []
  deriving DecidableEq, Repr

/-- Commands of the harbourmaster (R432). -/
inductive HmOp where
  | attest | challenge | unlockVendor | unlockOwner | unlockPassword | updateImage | installCfg | installOwner
  deriving DecidableEq, Repr

/-- A command in progress with its arguments at acceptance. -/
structure HmJob where
  op : HmOp
  arg : W64
  arg2 : W32
  nonce : List Byte
  deriving DecidableEq, Repr

/-- The harbourmaster (R424 to R441). `flash` holds the bytes of the boot flash by address, 0xFF where none is listed. -/
structure Hm where
  flash : Tbl Byte := []
  stage : BitVec 4 := 0
  /-- What the steps of the boot ROM that run next find in the flash interface and the PUF (R428). -/
  rom : BootIn := {}
  owner : Bool := false
  slot : Bool := false
  busy : Option HmJob := none
  svn : W32 := 0
  version : W32 := 0
  minSvn : W32 := 0
  idTag : W64 := 0
  serial : W64 := 0
  codeHash : List Byte := []
  idPk : List Byte := []
  seed : Option (List Byte) := none
  /-- The copies in use of the configuration record and of the owner block. -/
  cfgCopy : Nat := 0
  ownCopy : Nat := 0
  arg : W64 := 0
  arg2 : W32 := 0
  result : W16 := 0
  nonce : Vector W32 8 := Vector.replicate 8 0
  chal : Option (List Byte) := none
  chalCtr : Nat := 0
  scopes : BitVec 4 := 0
  fails : BitVec 4 := 0
  wait : W16 := 0
  deriving DecidableEq, Repr

/-- The instruction of the TAP (R439). -/
inductive TapIr where
  | idcode | bypass | sample | extest
  | vendor (code : BitVec 8)
  deriving DecidableEq, Repr

/-- Start-up stages that are passed once (R488). -/
inductive Phase where
  | reset | boot | firmware | selftest | training | running | failed
  deriving DecidableEq, Repr

/-- Start-up (R488 to R493). -/
structure StartUp where
  phase : Phase := .boot
  failStage : BitVec 4 := 0
  cause : W16 := 0
  /-- Controllers that have ended their training attempt. -/
  lpxEnded : List Nat := []
  bankSwitched : Bool := false
  committed : Bool := false
  /-- SU_TIME, and the start-up state that it tells of (R493). -/
  time : W32 := 0
  seen : BitVec 4 := 1
  /-- The level that READY drives while it is a square wave. -/
  wave : Bool := false
  /-- The µs since t0, counted in samples of power control (R476, R493; log 6). -/
  us : Nat := 0
  /-- TRAINING has released every Mmm_RESET_N (R491). -/
  memRelease : Bool := false
  deriving DecidableEq, Repr

/-- The board: rails, straps, signals (R453 to R468). -/
structure Board where
  vaux : Bool := true
  /-- VIN is valid, so that the sensors read (R464). -/
  vin : Bool := true
  smbAddr : Option (BitVec 7) := some 0x60
  qslot : BitVec 3 := 0
  hostport : Bool := false
  resetCause : W16 := 0
  /-- The device stays in reset until RESET_N falls and rises again (R459). -/
  needReset : Bool := false
  thermtripLow : Bool := false
  prochotLow : Bool := false
  pwrbrkLow : Bool := false
  tap : TapIr := .idcode
  /-- The levels last preloaded into the boundary register (R439). -/
  boundary : List (Pin × Bool) := []
  deriving DecidableEq, Repr

/-- Power and thermal control (R476 to R486). Times are counted in samples of 1 µs. -/
structure Power where
  pl1 : W16 := 2600
  pl2 : W16 := 2900
  /-- The 1 ms average in W (R486), and the measurements of the last 10 ms in W, newest first (R476). -/
  inputW : W16 := 0
  inputs : List Nat := []
  /-- Power control has lowered the clock and not yet raised it again to what the other limits allow (R486). -/
  limited : Bool := false
  energy : W64 := 0
  energyVaux : Nat := 0
  railSel : BitVec 3 := 0
  rails : Tbl (W16 × W16) := []
  thrCount : W32 := 0
  overCount : W32 := 0
  throttle : Bool := false
  prochotHold : Bool := false
  prochotLows : Nat := 0
  prochotHighs : Nat := 0
  pwrbrk : Bool := false
  pwrbrkLows : Nat := 0
  pwrbrkHighs : Nat := 0
  /-- The highest clock that every limit allowed in each of the last samples, newest first; samples since the last raise
  (R476 step 3). -/
  allowed : List Nat := []
  sinceRaise : Nat := 10
  /-- Samples for which the hottest sensor has stayed below T_th − 3 °C. -/
  cool : Nat := 0
  /-- Of the two clock controls of a µs the one that has acted, thermal control for true, and the clock before it (R476). -/
  half : Option (Bool × Nat) := none
  /-- The measured input energy since the last base tick, in µJ (R286, R477). -/
  tickEnergy : Nat := 0
  deriving DecidableEq, Repr

/-- An action of a port's link layer that the far end sees (log 7). -/
inductive LinkAct where
  | nak (seq : BitVec 12)
  | ack (seq : BitVec 12)
  | credit (cls : BitVec 3) (shared : Bool) (n : Nat)
  | resend (seq : BitVec 12)
  | keepalive
  | param (payload : List Byte)
  | retrain
  | swap (rx : Bool) (lam : Nat)
  deriving DecidableEq, Repr

/-- What the device itself sends: a message of its own units, a message forwarded on a port, a flit or link
action of a port, an SMBus answer (log 7). -/
structure OutMsg where
  dst : W16
  mc : Bool := false
  kind : BitVec 8
  h : Bool := false
  nf : Bool := false
  tag : BitVec 14 := 0
  epoch : W32 := 0
  path : Option PathBlock := none
  body : List Byte := []
  deriving DecidableEq, Repr

/-- A run of a frame: domain, frame number, replays. -/
structure RunId where
  dom : Nat
  f : W64
  replays : BitVec 8
  deriving DecidableEq, Repr

/-- A message of a frame that the next hop has not acknowledged whole (R37): `left` counts the flits that wait for their
acknowledgement, none before the message has been routed. -/
structure FrameMsg where
  run : RunId
  id : Nat
  m : OutMsg
  left : Option Nat := none
  deriving DecidableEq, Repr

inductive Sent where
  | msg (m : OutMsg)
  | port (p : PortIdx) (m : RawMsg)
  | link (p : PortIdx) (a : LinkAct)
  /-- The acknowledgement of a channel message to its producer on another device, or the notice that it was dropped (R80). No
  table lays it out (log 36). -/
  | chanAck (dev : W16) (producer : BerthIdx) (chan : BitVec 8) (dropped : Bool)
  /-- The data bytes of an SMBus answer, and the packet error code that follows where the controller clocks it on (R463). -/
  | smb (answer : List Byte) (pec : Byte)
  /-- What the TAP shifts out: the identification register, and the levels of the pins of a boundary scan (R439). -/
  | tdo (word : W32)
  | scan (cells : List (Pin × Bool))
  /-- What a debug access of the TAP shifts out: bytes of memory, and a berth's pilot, queues and tile registers (R435). -/
  | debugMem (bytes : List Byte)
  | debugBerth (b : BerthIdx) (x : Berth)
  deriving DecidableEq, Repr

/-- Why the machine stops with a fault. No meaning raises one: the block records errors and goes on. -/
inductive Fault where
  /-- Raised by no meaning; safe. -/
  | none
  deriving DecidableEq, Repr

/-- Why a command has no meaning. -/
inductive Refusal where
  /-- Raised by an arm of `exec` that has no meaning yet; safe. -/
  | notModelled (mnemonic : String)
  deriving DecidableEq, Repr

/-- The state of the block. -/
structure State where
  /-- The commands that wait, first in, first out (the row's cut). -/
  pending : List Instr := []
  /-- What the device has sent, oldest first (log 7). -/
  outbox : List Sent := []
  /-- The next free value to be read (log 5). -/
  freeCtr : Nat := 0
  /-- Messages of frames that are not acknowledged, and the number of the next (R37). -/
  frameOut : List FrameMsg := []
  frameIds : Nat := 0
  pages : Tbl PageHdr := []
  /-- LAST_ERR fields by block (R410 step 5). -/
  lastErr : Tbl W16 := []
  /-- Latched high halves and held low halves of register pairs, by address (R407). -/
  hiLatch : Tbl W32 := []
  loHeld : Tbl W32 := []
  tick : TickUnit := {}
  domains : Tbl Domain := []
  timers : Tbl TimerSlot := []
  irq : Irq := {}
  ledger : Ledger := {}
  route : Route := {}
  hostbr : HostBr := {}
  mem : Mem := {}
  berths : Tbl Berth := []
  serve : Tbl Serve := []
  query : Query := {}
  acct : Acct := {}
  weights : Weights := {}
  members : MemberBlk := {}
  redctx : Tbl RedCtx := []
  reqs : List OutReq := []
  health : Health := {}
  dies : Dies := {}
  ports : Tbl Port := []
  seams : Tbl Seam := []
  survive : SurvivePage := {}
  hm : Hm := {}
  startUp : StartUp := {}
  board : Board := {}
  power : Power := {}
  deriving DecidableEq, Repr

/-- The machine right after reset. -/
def State.reset : State := {}

end Sys2Proof.Machine
end

