-- ==== Sys2Proof/Machine/Tables.lean ====
section
/-! DEFINITION. Sparse tables, bit fields and little-endian bytes: the helpers every meaning uses. -/

namespace Sys2Proof.Machine
open Sys2Proof

abbrev Outcome := Host.Outcome State Fault Refusal

/-- The value at key `k`, `d` where the table lists none. -/
def tget {α : Type} (t : Tbl α) (d : α) (k : Nat) : α :=
  match t with
  | [] => d
  | (k', v) :: r => if k' = k then v else tget r d k

/-- Inserts or replaces the value at key `k`, keeping keys in rising order. -/
def tput {α : Type} (t : Tbl α) (k : Nat) (v : α) : Tbl α :=
  match t with
  | [] => [(k, v)]
  | (k', v') :: r =>
    if k < k' then (k, v) :: (k', v') :: r
    else if k' = k then (k, v) :: r
    else (k', v') :: tput r k v

/-- Removes key `k`. -/
def tdel {α : Type} (t : Tbl α) (k : Nat) : Tbl α :=
  t.filter (fun e => e.1 ≠ k)

/-- Stores `v` at key `k` of a table whose unlisted keys hold `d`. -/
def tset {α : Type} [DecidableEq α] (t : Tbl α) (d : α) (k : Nat) (v : α) : Tbl α :=
  if v = d then tdel t k else tput t k v

/-- Replaces the keys `lo` to `lo + n - 1` of a table by the entries `es`, which lie in that range. -/
def tsplice {α : Type} (t : Tbl α) (lo n : Nat) (es : Tbl α) : Tbl α :=
  t.filter (fun e => e.1 < lo) ++ es ++ t.filter (fun e => lo + n ≤ e.1)

/-- Applies `f` to the value at key `k`. -/
def tmod {α : Type} [DecidableEq α] (t : Tbl α) (d : α) (k : Nat) (f : α → α) : Tbl α :=
  tset t d k (f (tget t d k))

def b2n (b : Bool) : Nat := if b then 1 else 0

/-- The field of `len` bits of `w` from bit `lo`. -/
def fld {n : Nat} (w : BitVec n) (lo len : Nat) : Nat := (w.toNat >>> lo) % 2 ^ len

def w32 (n : Nat) : W32 := BitVec.ofNat 32 n
def w16 (n : Nat) : W16 := BitVec.ofNat 16 n
def w64 (n : Nat) : W64 := BitVec.ofNat 64 n

/-- `n` bytes of `v`, least significant first (R4). -/
def leBytes (n v : Nat) : List Byte :=
  match n with
  | 0 => []
  | n + 1 => BitVec.ofNat 8 v :: leBytes n (v / 256)

/-- The value of bytes, least significant first (R4). -/
def leVal (bs : List Byte) : Nat :=
  match bs with
  | [] => 0
  | b :: r => b.toNat + 256 * leVal r

/-- `n` bytes from offset `o`, zero beyond the end. -/
def bytesAt (bs : List Byte) (o n : Nat) : List Byte :=
  let x := (bs.drop o).take n
  x ++ List.replicate (n - x.length) 0

/-- The little-endian number of `n` bytes from offset `o`. -/
def leAt (bs : List Byte) (o n : Nat) : Nat := leVal ((bs.drop o).take n)

/-- Saturating increment of a counter. -/
def satInc {n : Nat} (w : BitVec n) : BitVec n := if w = BitVec.allOnes n then w else w + 1

/-- Saturating addition to a counter. -/
def satAdd {n : Nat} (w : BitVec n) (k : Nat) : BitVec n :=
  if w.toNat + k < 2 ^ n then BitVec.ofNat n (w.toNat + k) else BitVec.allOnes n

/-- A counter that a write of 0 clears (R498). -/
def clearBy {n : Nat} (w : BitVec n) (v : W32) : BitVec n := if v = 0 then 0 else w

/-- The two's complement value of a word. -/
def sval {n : Nat} (w : BitVec n) : Int := w.toInt

/-- Ceiling of `a / b`. -/
def cdiv (a b : Nat) : Nat := (a + b - 1) / b

end Sys2Proof.Machine
end

