-- ==== Sys2Proof/Machine/Isa.lean ====
section
/-! DEFINITION. Words of a berth program: decoding (R137 to R156), the checks the pilot makes before it reads the
predicate (R140), and the scalars a word reads and writes (R128, R157). -/

namespace Sys2Proof.Machine
open Sys2Proof

/-- A format code with an MX block axis (the descriptor encoding table). -/
def isMx (f : Nat) : Bool := 5 ≤ f && f ≤ 9

/-- The elementwise instructions whose B is always NONE (R149): they use neither FB nor XB. -/
def unaryOp (op : VOp) : Bool :=
  match op with
  | .vabs | .vneg | .vcvt | .vrcp | .vsqrt | .vrsqrt | .vtanh | .vsigmoid | .verf => true
  | _ => false

/-- The second check of R140 on the fields of a word: bits that R139 or an instruction rule requires to be 0. -/
def wordReserved (w : PWord) : Bool :=
  match w with
  | .si op _ _ imm => (op = .shli ∨ op = .shri ∨ op = .sari) && imm.toNat ≥ 64
  | .vec op v =>
    (unaryOp op && (v.fb != 0 || v.xb)) || (v.rm != 2 && (v.sk != 0 || v.sn != 0)) || (v.xd && !isMx v.fd.toNat) || (v.xa && !isMx v.fa.toNat) ||
      (v.xb && !isMx v.fb.toNat)
  | .vred v =>
    (v.xa && !isMx v.fa.toNat) || (v.xb && !isMx v.fb.toNat) || (v.axis == 2 && v.drow != 0)
  | .vget _ _ _ fa xa => xa && !isMx fa.toNat
  | .vsetvl src rs rows cols => if src then rows != 0 || cols != 0 else rs != 0
  | .optApply _ _ t4 _ _ sc => sc == 0 && t4 != 0
  | _ => false

/-- Whether VL accepts a value: rows and columns from 1 to 128 (R116, R153). -/
def vlOk (rows cols : Nat) : Bool := 1 ≤ rows && rows ≤ 128 && 1 ≤ cols && cols ≤ 128

/-- The third check of R140: values an instruction rule marks as refused by the pilot. -/
def wordBadValue (w : PWord) : Option W16 :=
  match w with
  | .sync mask => if mask = 0 then some Code.isField else none
  | .rdctx _ sel => if 8 ≤ sel.toNat then some Code.isField else none
  | .optApply _ _ _ _ _ sc => if sc.getLsbD 0 then some Code.isField else none
  | .vsetvl src _ rows cols => if !src && !vlOk rows.toNat cols.toNat then some Code.vxShape else none
  | _ => none

/-- The checks on a decoded word (R140 steps 2 and 3). -/
def wordCheck (w : PWord) : Option W16 :=
  if wordReserved w then some Code.isReservedBits else wordBadValue w

/-- A scalar named by an operand field in mode S, if the field is in that mode (R148). -/
def sField (m : BitVec 2) (r : BitVec 5) : List (BitVec 5) := if m = 3 then [r] else []

/-- The scalars a word reads (R131, R157). -/
def wordReads (w : PWord) : List (BitVec 5) :=
  match w with
  | .sr _ _ a b => [a, b]
  | .si _ _ a _ => [a]
  | .cmp _ _ a b => [a, b]
  | .btst _ a _ => [a]
  | .ld _ _ rb _ _ => [rb]
  | .st rs rb _ _ => [rs, rb]
  | .jr a => [a]
  | .jrl _ a => [a]
  | .vsetvl src rs _ _ => if src then [rs] else []
  | .ltIssue _ sc ss sd sg => [sc, ss, sd, sg]
  | .ltWait _ _ sn _ => [sn]
  | .accOpen _ _ _ sk sn => [sk, sn]
  | .vec _ v => sField v.ma v.a ++ sField v.mb v.b ++ [v.sk, v.sn]
  | .vred v => sField v.ma v.a ++ sField v.mb v.b
  | .vget _ _ sx _ _ => [sx]
  | .vput _ sv sx _ => [sv, sx]
  | .optMom _ _ _ sa => [sa]
  | .optStep _ _ _ sa sb => [sa, sb]
  | .optApply _ _ _ _ sa sc => if sc = 0 then [sa] else [sa, sc, sc + 1]
  | _ => []

/-- The scalar that the VXE writes for a word (R128). -/
def vxDest (w : PWord) : Option (BitVec 5) :=
  match w with
  | .vred v => if v.axis = 2 then some v.d else none
  | .vget sd _ _ _ _ => some sd
  | .flagsRd sd => some sd
  | _ => none

/-- The scalars a word writes. -/
def wordWrites (w : PWord) : List (BitVec 5) :=
  match w with
  | .sr _ rd _ _ => [rd]
  | .si _ rd _ _ => [rd]
  | .ld _ rd _ _ _ => [rd]
  | .brl rd _ => [rd]
  | .jrl rd _ => [rd]
  | .rdctx rd _ => [rd]
  | w => (vxDest w).toList

/-! ### Decoding -/

/-- Bits `[hi:lo]` of a word as a bit vector (R4). -/
def fb (w : W64) (hi lo : Nat) : BitVec (hi - lo + 1) := w.extractLsb hi lo

def srOps : List SrOp := [.add, .sub, .and, .or, .xor, .shl, .shr, .sar, .mul, .mulhu, .minu, .maxu]
def siOps : List SiOp := [.addi, .andi, .ori, .xori, .shli, .shri, .sari, .lih]
def cmpOps : List CmpOp := [.eq, .ne, .lt, .le, .gt, .ge, .ltu, .leu, .gtu, .geu]
def plOps : List PlOp := [.pand, .por, .pandn]
def vOps9 : List VOp := [.vadd, .vsub, .vmul, .vfma, .vmax, .vmin, .vdiv]
def vOpsA : List VOp :=
  [.vabs, .vneg, .vcvt, .vrcp, .vsqrt, .vrsqrt, .vexp, .vexp2, .vlog, .vlog2, .vtanh, .vsigmoid, .verf]

/-- Format V (R139). -/
def decV (w : W64) : VFields where
  d := fb w 52 48
  a := fb w 47 43
  b := fb w 42 38
  ma := fb w 37 36
  mb := fb w 35 34
  r := fb w 33 27
  fd := fb w 26 23
  fa := fb w 22 19
  fb := fb w 18 15
  rm := fb w 14 13
  xd := w.getLsbD 12
  xa := w.getLsbD 11
  xb := w.getLsbD 10
  sk := fb w 9 5
  sn := fb w 4 0

/-- Format RD (R139). -/
def decRd (w : W64) : RdFields where
  d := fb w 52 48
  a := fb w 47 43
  b := fb w 42 38
  ma := fb w 37 36
  mb := fb w 35 34
  r := fb w 33 27
  drow := fb w 26 20
  fa := fb w 19 16
  fb := fb w 15 12
  xa := w.getLsbD 11
  xb := w.getLsbD 10
  op := fb w 9 7
  axis := fb w 6 5

/-- Operand pairs 1 and 2 of format MM (R139). -/
def decP1 (w : W64) : MmPair where
  ta := fb w 49 46
  tb := fb w 45 42
  fa := fb w 41 38
  fb := fb w 37 34
  kblk := fb w 33 31

def decP2 (w : W64) : MmPair where
  ta := fb w 30 27
  tb := fb w 26 23
  fa := fb w 22 19
  fb := fb w 18 15
  kblk := fb w 14 12

/-- A decoded word with the mask of the operand bits it uses; none for a reserved GROUP or MINOR. -/
def decFields (w : W64) : Option (PWord × Nat) :=
  let g := fld w 60 4
  let m := fld w 56 4
  let u (hi lo : Nat) : Nat := (2 ^ (hi - lo + 1) - 1) * 2 ^ lo
  match g with
  | 0x1 => (srOps[m]?).map fun o => (.sr o (fb w 52 48) (fb w 47 43) (fb w 42 38), u 52 38)
  | 0x2 => (siOps[m]?).map fun o => (.si o (fb w 52 48) (fb w 47 43) (fb w 31 0), u 52 43 + u 31 0)
  | 0x3 =>
    if m < 10 then (cmpOps[m]?).map fun o => (.cmp o (fb w 50 48) (fb w 47 43) (fb w 42 38), u 50 38)
    else if m = 10 then some (.btst (fb w 50 48) (fb w 47 43) (fb w 5 0), u 50 43 + u 5 0)
    else (plOps[m - 11]?).map fun o =>
      (.plog o (fb w 50 48) (fb w 45 43) (fb w 40 38), u 50 48 + u 45 43 + u 40 38)
  | 0x4 =>
    if m < 2 then some (.ld (m = 1) (fb w 52 48) (fb w 47 43) (fb w 42 41) (fb w 31 0), u 52 41 + u 31 0)
    else if m = 2 then some (.st (fb w 52 48) (fb w 47 43) (fb w 42 41) (fb w 31 0), u 52 41 + u 31 0)
    else none
  | 0x5 =>
    (match m with
    | 0 => some (.br (fb w 15 0), u 15 0)
    | 1 => some (.brl (fb w 52 48) (fb w 15 0), u 52 48 + u 15 0)
    | 2 => some (.jr (fb w 47 43), u 47 43)
    | 3 => some (.jrl (fb w 52 48) (fb w 47 43), u 52 43)
    | _ => none)
  | 0x6 =>
    (match m with
    | 0 => some (.nop, 0)
    | 1 => some (.frameEnd, 0)
    | 2 => some (.sync (fb w 52 47), u 52 47)
    | 3 => some (.rdctx (fb w 52 48) (fb w 3 0), u 52 48 + u 3 0)
    | _ => none)
  | 0x7 =>
    (match m with
    | 0 => some (.ltIssue (fb w 52 51) (fb w 47 43) (fb w 42 38) (fb w 37 33) (fb w 32 28),
        u 52 51 + u 47 28)
    | 1 => some (.ltWait (fb w 52 51) (fb w 50 48) (fb w 47 43) (w.getLsbD 42), u 52 42)
    | 2 => some (.chSend (fb w 52 51) (fb w 49 46) (fb w 39 32) (fb w 31 28), u 52 51 + u 49 46 + u 39 28)
    | 3 => some (.chRecv (fb w 52 51) (fb w 49 46) (fb w 39 32), u 52 51 + u 49 46 + u 39 32)
    | _ => none)
  | 0x8 =>
    (match m with
    | 0 => some (.accOpen (fb w 52 50) (w.getLsbD 49) (w.getLsbD 48) (fb w 47 43) (fb w 42 38), u 52 38)
    | 1 => some (.accClose (fb w 52 50), u 52 50)
    | 2 => some (.mma (fb w 52 50) (decP1 w) (fb w 11 4), u 52 31 + u 11 4)
    | 3 => some (.mmaG (fb w 52 50) (decP1 w) (fb w 30 27) (fb w 11 4), u 52 27 + u 11 4)
    | 4 => some (.mmaF (fb w 52 50) (decP1 w) (decP2 w) (fb w 11 4), u 52 4)
    | 5 => some (.mxFclr, 0)
    | _ => none)
  | 0x9 => (vOps9[m]?).map fun o => (.vec o (decV w), u 52 0)
  | 0xA => (vOpsA[m]?).map fun o => (.vec o (decV w), u 52 0)
  | 0xB =>
    (match m with
    | 0 => some (.vred (decRd w), u 52 5)
    | 1 => some (.vget (fb w 52 48) (fb w 47 43) (fb w 42 38) (fb w 22 19) (w.getLsbD 11),
        u 52 38 + u 22 19 + u 11 11)
    | 2 => some (.vput (fb w 52 48) (fb w 47 43) (fb w 42 38) (fb w 26 23), u 52 38 + u 26 23)
    | 3 => some (.vsetvl (w.getLsbD 47) (fb w 52 48) (fb w 15 8) (fb w 7 0), u 52 47 + u 15 0)
    | 4 => some (.flagsRd (fb w 52 48), u 52 48)
    | 5 => some (.vxFclr, 0)
    | _ => none)
  | 0xC =>
    (match m with
    | 0 => some (.optMom (fb w 52 49) (fb w 48 45) (fb w 44 40) (fb w 35 31), u 52 40 + u 35 31)
    | 1 => some (.optStep (fb w 52 49) (fb w 48 45) (fb w 39 36) (fb w 35 31) (fb w 30 26),
        u 52 45 + u 39 26)
    | 2 => some (.optApply (fb w 52 49) (fb w 48 45) (fb w 39 36) (fb w 44 40) (fb w 35 31) (fb w 25 21),
        u 52 31 + u 25 21)
    | _ => none)
  | _ => none

/-- The predicate field of a word (R137). -/
def predOf (w : W64) : BitVec 3 := fb w 55 53

/-- Decodes a word with the checks of R140 in order: the word, or the code the pilot refuses it with. -/
def decodeWord (w : W64) : Except W16 PWord :=
  match decFields w with
  | none => .error Code.isReservedOp
  | some (p, used) =>
    if (w.toNat % 2 ^ 53) &&& (2 ^ 53 - 1 - used) ≠ 0 then .error Code.isReservedBits
    else
      match wordCheck p with
      | some c => .error c
      | none => .ok p

end Sys2Proof.Machine
end

