-- ==== Sys2Proof/Machine/Ops.lean ====
section
/-! DEFINITION. The operations every block shares: register pages and their error record (R408 to R413), access to
the parts of the state, free values, messages sent. -/

namespace Sys2Proof.Machine
open Sys2Proof

/-! ### Reset (R456, R457) -/

/-- The device is in reset: every clock but those of the VAUX domain stands still (R457). -/
def inReset (s : State) : Bool := s.startUp.phase == .reset

/-- What a command does outside the VAUX domain: nothing while the device is in reset (R453, R457). -/
def awake (s : State) (o : Outcome) : Outcome := if inReset s then .next s else o

theorem awake_run {s : State} (o : Outcome) (h : inReset s = false) : awake s o = o := by simp [awake, h]
theorem awake_reset {s : State} (o : Outcome) (h : inReset s = true) : awake s o = .next s := by simp [awake, h]

/-! ### Pages (R408) -/

def Pg.berth (b : BerthIdx) : Nat := b.toNat
def Pg.lighter (b : BerthIdx) : Nat := 0x100 + b.toNat
def Pg.cdie (c : Nat) : Nat := 0x200 + c
def Pg.pdie (p : Nat) : Nat := 0x204 + p
def Pg.lpx (m : Nat) : Nat := 0x210 + m
def Pg.port (p : Nat) : Nat := 0x230 + p
def Pg.route : Nat := 0x250
def Pg.member : Nat := 0x251
def Pg.tick : Nat := 0x252
def Pg.frame : Nat := 0x253
def Pg.reduce : Nat := 0x254
def Pg.caravan : Nat := 0x255
def Pg.object : Nat := 0x256
def Pg.survive : Nat := 0x257
def Pg.health : Nat := 0x258
def Pg.irq0 : Nat := 0x259
def Pg.irq1 : Nat := 0x25A
def Pg.account : Nat := 0x25B
def Pg.client : Nat := 0x25C
def Pg.hmaster : Nat := 0x25D
def Pg.power : Nat := 0x25E
def Pg.ledger : Nat := 0x25F
def Pg.hostbr : Nat := 0x260

/-- TYPE, INSTANCE and COUNT of a page that exists (the page map table). -/
def pageInfo (p : Nat) : Option (Nat × Nat × Nat) :=
  if p < 0x100 then some (0x0001, p, 0)
  else if p < 0x200 then some (0x0002, p - 0x100, 4)
  else if p < 0x204 then some (0x0003, p - 0x200, 3)
  else if p < 0x206 then some (0x0004, p - 0x204, 0)
  else if 0x210 ≤ p ∧ p < 0x228 then some (0x0005, p - 0x210, 8)
  else if 0x230 ≤ p ∧ p < 0x248 then some (0x0006, p - 0x230, 9)
  else if p = Pg.route then some (0x0010, 0, 0)
  else if p = Pg.member then some (0x0011, 0, 16)
  else if p = Pg.tick then some (0x0012, 0, 0)
  else if p = Pg.frame then some (0x0013, 0, 16)
  else if p = Pg.reduce then some (0x0014, 0, 64)
  else if p = Pg.caravan then some (0x0015, 0, 64)
  else if p = Pg.object then some (0x0016, 0, 0)
  else if p = Pg.survive then some (0x0017, 0, 16)
  else if p = Pg.health then some (0x0018, 0, 0)
  else if p = Pg.irq0 then some (0x0019, 0, 768)
  else if p = Pg.irq1 then some (0x0019, 1, 3)
  else if p = Pg.account then some (0x001A, 0, 256)
  else if p = Pg.client then some (0x001B, 0, 16)
  else if p = Pg.hmaster then some (0x001C, 0, 0)
  else if p = Pg.power then some (0x001D, 0, 0)
  else if p = Pg.ledger then some (0x001E, 0, 128)
  else if p = Pg.hostbr then some (0x001F, 0, 0)
  else none

def pageExists (p : Nat) : Bool := (pageInfo p).isSome

/-- The header of page `p`. -/
def hdr (p : Nat) (s : State) : PageHdr := tget s.pages {} p

def setHdr (p : Nat) (h : PageHdr) (s : State) : State := { s with pages := tset s.pages {} p h }

/-! ### Blocks and their LAST_ERR fields (R410 step 5)

A block is a page and a number within it: 0 where the page has one block. -/

structure Blk where
  page : Nat
  sub : Nat := 0
  deriving DecidableEq, Repr

def Blk.key (k : Blk) : Nat := k.page * 128 + k.sub

def Blk.mx (b : BerthIdx) : Blk := ⟨Pg.berth b, 1⟩
def Blk.vx (b : BerthIdx) : Blk := ⟨Pg.berth b, 2⟩
def Blk.pl (b : BerthIdx) : Blk := ⟨Pg.berth b, 3⟩
def Blk.lt (b : BerthIdx) (n : Nat) : Blk := ⟨Pg.lighter b, 1 + n⟩
def Blk.fd (d : Nat) : Blk := ⟨Pg.frame, 1 + d⟩
def Blk.seam (c : Nat) (k : Nat) : Blk := ⟨Pg.cdie c, 1 + k⟩
def Blk.mb (d : Nat) : Blk := ⟨Pg.member, 1 + d⟩
def Blk.rc (c : Nat) : Blk := ⟨Pg.reduce, 1 + c⟩
def Blk.cv (d : Nat) : Blk := ⟨Pg.caravan, 65 + d⟩
def Blk.sr (d : Nat) : Blk := ⟨Pg.survive, 1 + d⟩

/-- LAST_ERR of a block. -/
def lastErr (k : Blk) (s : State) : W16 := tget s.lastErr 0 k.key

def setLastErr (k : Blk) (c : W16) (s : State) : State := { s with lastErr := tset s.lastErr 0 k.key c }

/-- The class of an error code (R9). -/
def codeClass (c : W16) : Nat := fld c 12 4

/-- The codes a block's LAST_ERR field takes: of class 0x1 in FD_STATUS, 0x2 in LT_STATUS, 0x3 in MX_STATUS, 0x5 in
LPX_STATUS, 0x9 in PT_STATUS, 0xB in HL_STATE, 0xB1 in SR_STATE, 0xC in HM_STATUS, 0xD in PW_STATUS; every code
elsewhere. -/
def Blk.takes (k : Blk) (c : W16) : Bool :=
  if k.page = Pg.frame then codeClass c == 1
  else if 0x100 ≤ k.page ∧ k.page < 0x200 then codeClass c == 2
  else if k.page < 0x100 ∧ k.sub = 1 then codeClass c == 3
  else if 0x210 ≤ k.page ∧ k.page < 0x228 then codeClass c == 5
  else if 0x230 ≤ k.page ∧ k.page < 0x248 then codeClass c == 9
  else if k.page = Pg.health then codeClass c == 0xB
  else if k.page = Pg.survive ∧ k.sub ≠ 0 then fld c 8 8 == 0xB1
  else if k.page = Pg.hmaster then codeClass c == 0xC
  else if k.page = Pg.power then codeClass c == 0xD
  else true

/-- Step 5 of R410; SV_STATUS takes every code of its page, and HL_STATE.LAST_ERR takes every class 0xB code of the device (R356). -/
def takeLastErr (k : Blk) (c : W16) (s : State) : State :=
  let s := if k.takes c then setLastErr k c s else s
  let s := if k.page = Pg.survive then setLastErr ⟨Pg.survive, 0⟩ c s else s
  if codeClass c = 0xB then setLastErr ⟨Pg.health, 0⟩ c s else s

/-- Steps 1 to 4 of R410 on a page header; `bit` is REPORTED (1) or REFUSED (2). -/
def PageHdr.record (h : PageHdr) (c : W16) (refused health : Bool) : PageHdr :=
  let masked := if refused then h.errMask.getLsbD 1 else h.errMask.getLsbD 0
  { h with
    errCount := satInc h.errCount
    errFirst := if h.errStatus.getLsbD 0 then h.errFirst else c
    errLow := if h.errStatus.getLsbD 0 && h.errLow.ult c then h.errLow else c
    errStatus := h.errStatus ||| 1 ||| (if refused then 4 else 2)
    eventStatus := if masked || health then h.eventStatus else h.eventStatus ||| 0x80000000 }

/-- Records a code on a page (R410). -/
def recordOn (p : Nat) (c : W16) (refused : Bool) (s : State) : State :=
  setHdr p ((hdr p s).record c refused (p == Pg.health)) s

/-- A block reports an error code (R410). -/
def report (k : Blk) (c : W16) (s : State) : State := takeLastErr k c (recordOn k.page c false s)

/-- A block refuses a register write with a code (R410). -/
def refuse (k : Blk) (c : W16) (s : State) : State := takeLastErr k c (recordOn k.page c true s)

/-- Errors that reach a page in one cycle: where the first of them found FIRST_VALID at 0, ERR_FIRST takes the lowest code
(R410). `s0` is the state before the cycle. -/
def firstOfCycle (s0 s : State) : State :=
  { s with pages := s.pages.map (fun e =>
      if e.2.errStatus.getLsbD 0 && !(hdr e.1 s0).errStatus.getLsbD 0 then (e.1, { e.2 with errFirst := e.2.errLow })
      else e) }

/-- Sets a bit of a page's EVENT_STATUS (R389). -/
def raise (p bit : Nat) (s : State) : State :=
  let h := hdr p s
  setHdr p { h with eventStatus := h.eventStatus ||| BitVec.ofNat 32 (2 ^ bit) } s

/-! ### Parts of the state -/

def dom (d : Nat) (s : State) : Domain := tget s.domains {} d
def setDom (d : Nat) (x : Domain) (s : State) : State := { s with domains := tset s.domains {} d x }
def modDom (d : Nat) (f : Domain → Domain) (s : State) : State := setDom d (f (dom d s)) s

def berth (b : BerthIdx) (s : State) : Berth := tget s.berths {} b.toNat
def setBerth (b : BerthIdx) (x : Berth) (s : State) : State := { s with berths := tset s.berths {} b.toNat x }
def modBerth (b : BerthIdx) (f : Berth → Berth) (s : State) : State := setBerth b (f (berth b s)) s

def lighter (b : BerthIdx) (n : BitVec 2) (s : State) : Lighter := (berth b s).lt[n.toNat]
def setLighter (b : BerthIdx) (n : BitVec 2) (x : Lighter) (s : State) : State :=
  let be := berth b s
  setBerth b { be with lt := be.lt.set n.toNat x } s

def timer (i : Nat) (s : State) : TimerSlot := tget s.timers {} i
def setTimer (i : Nat) (x : TimerSlot) (s : State) : State := { s with timers := tset s.timers {} i x }

def ledgerEntry (r : Nat) (s : State) : LedgerEntry := tget s.ledger.entries {} r
def gpio (n : Nat) (s : State) : Gpio := tget s.ledger.gpio {} n
def setGpio (n : Nat) (g : Gpio) (s : State) : State :=
  { s with ledger := { s.ledger with gpio := tset s.ledger.gpio {} n g } }

/-- The tick number as a number (R25). -/
def now (s : State) : Nat := s.tick.num.toNat

/-- Reads a free value: the counter it is read at, and the state with the counter advanced (log 5). -/
def nextFree (s : State) : Nat × State := (s.freeCtr, { s with freeCtr := s.freeCtr + 1 })

/-! ### Messages the device sends (log 7) -/

def post (x : Sent) (s : State) : State := { s with outbox := s.outbox ++ [x] }
def send (m : OutMsg) (s : State) : State := post (.msg m) s

/-- Sends a message of the frame that a tag names; the frame waits for the next hop's acknowledgement of it (R37). -/
def sendFrame (t : FrameTag) (m : OutMsg) (s : State) : State :=
  send m { s with
    frameIds := s.frameIds + 1
    frameOut := s.frameOut ++ [{ run := ⟨t.dom.toNat, t.f, t.replays⟩, id := s.frameIds, m := m }] }

/-- The device's own address (R312). -/
def ownDev (s : State) : W16 := s.route.addr

/-- A kind header ends at its last listed byte, rounded up to a multiple of 8 (log 7). -/
def pad8 (bs : List Byte) : List Byte := bs ++ List.replicate ((8 - bs.length % 8) % 8) 0

/-- The frame tag's ten bytes (the text before R326). -/
def tagBytes (t : FrameTag) : List Byte :=
  leBytes 8 t.f.toNat ++ [t.replays, BitVec.ofNat 8 ((if t.noFrame then 0x80 else 0) + t.dom.toNat)]

/-- The active bank of the routing tables (R314). -/
def activeBank (s : State) : RouteBank := if s.route.active then s.route.bank1 else s.route.bank0

/-- Groups and devices of the domain table (R314): recall group, control group, event device. -/
def recGroup (d : Nat) (s : State) : W16 := w16 (fld (tget (activeBank s).dom0 0 d) 0 12)
def ctlGroup (d : Nat) (s : State) : W16 := w16 (fld (tget (activeBank s).dom1 0 d) 0 12)
def evtDev (d : Nat) (s : State) : W16 := w16 (fld (tget (activeBank s).dom0 0 d) 16 16)

/-- The path block of an answer that goes back along the ports `ps` (R321). -/
def pathBack (ps : List (BitVec 5)) : PathBlock := { ports := ps, rets := [], nhops := ps.length, hop := 0 }

/-- The answer to a register request (R405, R326 kind 0x03). -/
def regAnswer (r : Req) (status : W16) (data : W32) (s : State) : State :=
  send { dst := r.src, kind := 0x03, h := true, tag := r.tag, path := r.back.map pathBack,
         body := leBytes 2 status.toNat ++ [0, 0] ++ leBytes 4 data.toNat } s

/-- What a register write of a block gives: the code it is refused with, or the state after it (R405, R406). -/
abbrev WRes := Except W16 State

/-! ### Lists -/

/-- All elements of `l` that satisfy `p` removed. -/
def without {α : Type} (l : List α) (p : α → Bool) : List α := l.filter (fun x => !p x)

/-- `x` placed before the first element with a greater key. -/
def insBy {α : Type} (f : α → Nat) (x : α) (l : List α) : List α :=
  match l with
  | [] => [x]
  | y :: r => if f x < f y then x :: y :: r else y :: insBy f x r

/-- A list in the order of a key, elements of one key in the order they stand in. -/
def sortBy {α : Type} (f : α → Nat) (l : List α) : List α := l.foldl (fun a x => insBy f x a) []

/-- Folds a state operation over a list. -/
def foldS {α : Type} (l : List α) (f : α → State → State) (s : State) : State :=
  l.foldl (fun s x => f x s) s

end Sys2Proof.Machine
end

