-- ==== Sys2Proof/Machine/HealthOps.lean ====
section
/-! DEFINITION. Fault records, counters and the health score (R337 to R340, R347 to R349): what every block that meets a
fault uses. -/

namespace Sys2Proof.Machine
open Sys2Proof

def setHealth (h : Health) (s : State) : State := { s with health := h }

/-- The die a page belongs to: CD0 to CD3 as 0 to 3, PD0 and PD1 as 4 and 5 (R13, R16, R18, R408). -/
def dieOf (p : Nat) : Nat :=
  if p < 0x200 then p % 256 / 64
  else if p < 0x204 then p - 0x200
  else if p < 0x206 then 4 + (p - 0x204)
  else if 0x210 ≤ p ∧ p < 0x228 then (if p - 0x210 < 12 then 4 else 5)
  else if 0x230 ≤ p ∧ p < 0x248 then (if (p - 0x230) % 2 = 1 then 4 else 5)
  else 4

/-- The temperature of a die in whole degrees, rounded down (R339, R345). -/
def tempC (die : Nat) (s : State) : Int := (s.dies.temp.toList.getD die 0).toInt / 16

def byteOfInt (i : Int) : Byte := BitVec.ofInt 8 i

/-- The counter of index `i` (R340). -/
def healthCnt (i : Nat) (s : State) : W32 := tget s.health.cnt 0 i
def countHealth (i : Nat) (s : State) : State :=
  setHealth { s.health with cnt := tset s.health.cnt 0 i (satInc (healthCnt i s)) } s

/-- Writes a fault record; a full ring drops it and counts it (R339). -/
def pushRecord (r : List Byte) (s : State) : State :=
  if s.health.ring.length < 256 then
    let s := raise Pg.health 0 (setHealth { s.health with ring := s.health.ring ++ [r] } s)
    if s.health.ring.length = 256 then raise Pg.health 3 s else s
  else countHealth 0x0A4 s

/-- Where a fault arose: the page, the source device, the address, the domain and the port (R339). -/
structure FaultAt where
  page : Nat
  src : W16
  addr : Nat := 0
  dom : Option Nat := none
  port : Byte := 0xFF

def domByte (d : Option Nat) : Byte :=
  match d with
  | some d => BitVec.ofNat 8 d
  | none => 0xFF

/-- An error record (TYPE 0x1) with its outcome (R339). -/
def errorRecord (outcome : Byte) (code : W16) (f : FaultAt) (s : State) : List Byte :=
  leBytes 8 (now s) ++ [0x1, outcome] ++ leBytes 2 code.toNat ++ leBytes 2 f.page ++ leBytes 2 f.src.toNat ++
    leBytes 8 f.addr ++ [domByte f.dom, f.port, byteOfInt (tempC (dieOf f.page) s)] ++ List.replicate 5 0

/-- Sets CANDIDATE and reports it (R349). -/
def setCandidate (s : State) : State :=
  if s.health.candidate then s
  else report ⟨Pg.health, 0⟩ Code.retireCandidate
    (raise Pg.health 2 (setHealth { s.health with candidate := true } s))

/-- Adds points to the health score; 32 points make the device a candidate (R347, R349). -/
def addPoints (n : Nat) (s : State) : State :=
  let s := setHealth { s.health with score := satAdd s.health.score (256 * n) } s
  if 8192 ≤ s.health.score.toNat then setCandidate s else s

/-- A fault whose retry succeeded (R337). -/
def transientFault (code : W16) (f : FaultAt) (s : State) : State :=
  pushRecord (errorRecord 1 code f s) (countHealth (codeClass code) s)

/-- A fault whose retry failed, with its points (R337, R347). -/
def lastingFault (code : W16) (points : Nat) (f : FaultAt) (s : State) : State :=
  addPoints points (pushRecord (errorRecord 2 code f s) (countHealth (0x10 + codeClass code) s))

/-- Data from device `src` has arrived on a port (R338). -/
def noteArrival (src : W16) (port : Nat) (s : State) : State :=
  setHealth { s.health with arrived := tset s.health.arrived 0xFF src.toNat (BitVec.ofNat 8 port) } s

/-- The port on which data from device `src` last arrived, 0xFF for none (R338, R339). -/
def lastPort (src : W16) (s : State) : Byte := tget s.health.arrived 0xFF src.toNat

/-- The time in µs at the current base tick (R338). -/
def nowUs (s : State) : Nat := now s * s.tick.periodUs.toNat

/-- A recall for missing or corrupt data from `src` over `port` is taken: a second one of the same cause within 1 s is a
lasting path fault, counted in the class of the cause (R337, R338, R340). -/
def notePathFault (d : Nat) (cause src : W16) (port : Byte) (s : State) : State :=
  let t := nowUs s
  let keep := s.health.recalls.filter (fun r => t ≤ r.us + 1000000)
  let same := keep.any (fun r => r.cause == cause && r.dom == d && r.src == src)
  let s := setHealth { s.health with recalls := keep ++ [{ us := t, cause := cause, dom := d, src := src }] } s
  if same then
    report ⟨Pg.health, 0⟩ Code.pathFault
      (pushRecord (errorRecord 3 cause { page := Pg.frame, src := src, dom := some d, port := port } s)
        (countHealth (0x10 + codeClass cause) s))
  else s

/-- A state record (TYPE 0x3) for a change of device state (R339). `why` is its byte 12. -/
def stateRecord (old new why : Byte) (s : State) : List Byte :=
  leBytes 8 (now s) ++ [0x3, 0, old, new, why, s.health.lastBand, s.health.lastLoad, s.health.tjCeil] ++
    List.replicate 16 0

def HState.code (h : HState) : Nat :=
  match h with
  | .healthy => 0
  | .supervised => 1
  | .restricted => 2
  | .retired => 3

/-- Changes the device state and records it (R339, R352). -/
def toHState (h : HState) (why : Byte) (s : State) : State :=
  let r := stateRecord (BitVec.ofNat 8 s.health.st.code) (BitVec.ofNat 8 h.code) why s
  pushRecord r (setHealth { s.health with st := h } s)

end Sys2Proof.Machine
end

