-- ==== Sys2Proof/Machine/Memory.lean ====
section
/-! DEFINITION. Physical bytes, extents, pools, versions and objects (R187 to R198, R39 to R43): the operations below
the frame rules. -/

namespace Sys2Proof.Machine
open Sys2Proof

/-! ### Bytes of physical extents -/

/-- The open range that holds byte `a`. -/
def unkAt (us : List Unk) (a : Nat) : Option Unk := us.find? (fun u => u.lo ≤ a && a < u.lo + u.len)

/-- The byte at physical address `a`: a free value in an open range, else the listed byte, else 0 (log 2). -/
def Mem.byteAt (m : Mem) (a : Nat) : Byte :=
  match unkAt m.unk a with
  | some u => Config.freeByte u.fill (u.org + (a - u.lo))
  | none => tget m.bytes 0 a

/-- Open ranges without byte `a`. -/
def cutUnk (us : List Unk) (a : Nat) : List Unk :=
  us.flatMap (fun u =>
    if u.lo ≤ a ∧ a < u.lo + u.len then
      [{ u with len := a - u.lo },
       { u with lo := a + 1, len := u.lo + u.len - (a + 1), org := u.org + (a + 1 - u.lo) }].filter
        (fun v => v.len ≠ 0)
    else [u])

/-- Writes one byte; the written byte is no longer open. -/
def Mem.setByte (m : Mem) (a : Nat) (b : Byte) : Mem :=
  { m with bytes := tset m.bytes 0 a b, unk := cutUnk m.unk a }

/-- Writes bytes at rising physical addresses. -/
def Mem.setBytes (m : Mem) (a : Nat) (bs : List Byte) : Mem :=
  match bs with
  | [] => m
  | b :: r => (m.setByte a b).setBytes (a + 1) r

/-- Reads `n` bytes from physical address `a`. -/
def Mem.bytesFrom (m : Mem) (a n : Nat) : List Byte := (List.range n).map (fun i => m.byteAt (a + i))

/-- Open ranges without the bytes of `[lo, lo + n)`. -/
def cutRange (us : List Unk) (lo n : Nat) : List Unk :=
  us.flatMap (fun u =>
    if u.lo < lo + n ∧ lo < u.lo + u.len then
      [{ u with len := lo - u.lo },
       { u with lo := lo + n, len := u.lo + u.len - (lo + n), org := u.org + (lo + n - u.lo) }].filter
        (fun v => v.len ≠ 0)
    else [u])

/-- The parts of open ranges within `[lo, lo + n)`. -/
def keepRange (us : List Unk) (lo n : Nat) : List Unk :=
  us.filterMap (fun u =>
    let a := max u.lo lo
    let b := min (u.lo + u.len) (lo + n)
    if a < b then some { u with lo := a, len := b - a, org := u.org + (a - u.lo) } else none)

/-- Puts the open ranges `new`, which lie in `[lo, lo + n)`, in the place of what was open there. -/
def spliceUnk (us : List Unk) (lo n : Nat) (new : List Unk) : List Unk :=
  let rest := cutRange us lo n
  rest.filter (fun u => u.lo < lo) ++ new ++ rest.filter (fun u => lo ≤ u.lo)

/-- Makes the bytes of `[lo, lo + n)` open under a fill. -/
def Mem.openRange (m : Mem) (lo n fill : Nat) : Mem :=
  { m with bytes := tsplice m.bytes lo n []
           unk := spliceUnk m.unk lo n (if n = 0 then [] else [{ lo := lo, len := n, fill := fill, org := lo }]) }

/-- Copies `n` bytes between physical addresses. -/
def Mem.copy (m : Mem) (src dst n : Nat) : Mem := m.setBytes dst (m.bytesFrom src n)

/-- The one canonical form of a memory: addresses strictly rising, no listed byte that is 0 as an unlisted one reads,
open ranges in rising order and not empty, no listed byte in one. -/
abbrev Memory.wf (m : Mem) : Prop :=
  m.bytes.Pairwise (fun a b => a.1 < b.1) ∧ (∀ e ∈ m.bytes, e.2 ≠ 0) ∧
  m.unk.Pairwise (fun u v => u.lo + u.len ≤ v.lo) ∧ (∀ u ∈ m.unk, u.len ≠ 0) ∧
  (∀ e ∈ m.bytes, ∀ u ∈ m.unk, e.1 < u.lo ∨ u.lo + u.len ≤ e.1)

/-- One extent, 1 MiB (R188). -/
def extBytes : Nat := 0x100000

/-- Copies the whole of one physical extent: listed bytes and open ranges (R192, R201). An open byte is copied as
the same free value. -/
def Mem.copyExtent (m : Mem) (src dst : Nat) : Mem :=
  let s0 := src * extBytes
  let d0 := dst * extBytes
  let inSrc := m.bytes.filter (fun e => s0 ≤ e.1 && e.1 < s0 + extBytes)
  let moved := inSrc.map (fun e => (e.1 - s0 + d0, e.2))
  let opens := (keepRange m.unk s0 extBytes).map (fun u => { u with lo := u.lo - s0 + d0 })
  { m with bytes := tsplice m.bytes d0 extBytes moved, unk := spliceUnk m.unk d0 extBytes opens }

/-! ### Extents (R188 to R190) -/

/-- The extent entry after reset (R190). -/
def extDefault (x : Nat) : Ext := if x < 65536 then { phys := BitVec.ofNat 21 x } else { kind := .pool }

def ext (x : Nat) (s : State) : Ext := tget s.mem.exts (extDefault x) x

def setMem (m : Mem) (s : State) : State := { s with mem := m }
def setExt (x : Nat) (e : Ext) (s : State) : State :=
  setMem { s.mem with exts := tset s.mem.exts (extDefault x) x e } s

def lastExt : Nat := 1908735

/-- Whether the LPDDR5X window answers: every controller trained, no channel failed, no training in progress
(R207, R211). -/
def lpxDev (m : Nat) (s : State) : LpxDev := tget s.mem.lpx {} m
def setLpx (m : Nat) (x : LpxDev) (s : State) : State := setMem { s.mem with lpx := tset s.mem.lpx {} m x } s
def lpxOpen (s : State) : Bool :=
  !s.mem.training && (List.range 24).all (fun m => (lpxDev m s).trained && (lpxDev m s).chFail == 0)

/-- The tiers an address of this device can lie in (R187). -/
inductive Tier where
  | sram | lpx | unmapped
  deriving DecidableEq, Repr

def lpxBase : Nat := 0x020000000000
def tierOf (a : Nat) (s : State) : Tier :=
  if a < 0x1000000000 then .sram
  else if lpxBase ≤ a ∧ a < 0x03C200000000 then (if lpxOpen s then .lpx else .unmapped)
  else .unmapped

/-- The extent number and the offset of a local address (R188). -/
def extOf (a : Nat) : Nat × Nat :=
  if a < 0x1000000000 then (a / extBytes, a % extBytes)
  else (65536 + (a - lpxBase) / extBytes, (a - lpxBase) % extBytes)

/-- The local address at which an extent begins. -/
def extAddr (x : Nat) : Nat := if x < 65536 then x * extBytes else lpxBase + (x - 65536) * extBytes

def sliceBase (b : BerthIdx) : Nat := b.toNat * 0x10000000

/-! ### Pools (R190) -/

def insNat (l : List Nat) (x : Nat) : List Nat :=
  match l with
  | [] => [x]
  | y :: r => if x < y then x :: y :: r else if x = y then y :: r else y :: insNat r x

/-- The free physical extents of the slice of berth `b`. -/
def sliceFree (b : Nat) (s : State) : List Nat := s.mem.sramFree.filter (fun p => p / 256 == b)

def lpxFreeCount (s : State) : Nat := 1843200 - s.mem.lpxTaken.length

/-- The `k`-th number from `base` that is not in the rising list. -/
def nthFree (taken : List Nat) (base k : Nat) : Nat :=
  match taken with
  | [] => base + k
  | t :: r => if base + k < t then base + k else nthFree r base (k + 1)

/-- Free physical extents of the region of extent number `x`. -/
def regionFree (x : Nat) (s : State) : Nat :=
  if x < 65536 then (sliceFree (x / 256) s).length else lpxFreeCount s

/-- Takes a free physical extent of the region of extent number `x`. Which one is a free value (log 5). -/
def takePhys (x : Nat) (s : State) : Option (Nat × State) :=
  if x < 65536 then
    match sliceFree (x / 256) s with
    | [] => none
    | [p] => some (p, setMem { s.mem with sramFree := s.mem.sramFree.filter (· ≠ p) } s)
    | p :: q :: r =>
      let (k, s) := nextFree s
      let c := (p :: q :: r).getD (Config.freeNat k % (r.length + 2)) p
      some (c, setMem { s.mem with sramFree := s.mem.sramFree.filter (· ≠ c) } s)
  else if lpxFreeCount s = 0 then none
  else
    let (k, s) := nextFree s
    let c := nthFree s.mem.lpxTaken 65536 (Config.freeNat k % lpxFreeCount s)
    some (c, setMem { s.mem with lpxTaken := insNat s.mem.lpxTaken c } s)

/-- Whether a checkpoint retains a physical extent (R366). -/
def Ckpt.has (c : Option Ckpt) (p : Nat) : Bool :=
  match c with
  | some c => c.exts.any (fun e => e.2 == p)
  | none => false

def retained (p : Nat) (s : State) : Bool :=
  s.survive.doms.any (fun e => Ckpt.has e.2.safe p || Ckpt.has e.2.newer p)

/-- Returns a physical extent to its pool; a retired one never returns, one that a checkpoint retains not yet (R190,
R366). -/
def freePhys (p : Nat) (s : State) : State :=
  if s.mem.retired.contains p || retained p s then s
  else if p < 65536 then setMem { s.mem with sramFree := insNat s.mem.sramFree p } s
  else setMem { s.mem with lpxTaken := s.mem.lpxTaken.filter (· ≠ p) } s

/-- Retires a physical extent (R213). -/
def retirePhys (p : Nat) (s : State) : State :=
  setMem { s.mem with
    retired := insNat s.mem.retired p
    sramFree := s.mem.sramFree.filter (· ≠ p)
    lpxTaken := if p < 65536 then s.mem.lpxTaken else insNat s.mem.lpxTaken p } s

/-! ### Versions (R40, R43, R192) -/

/-- Domains whose frame is open (R36). -/
def isOpen (d : Nat) (s : State) : Bool := (dom d s).st == .opened || (dom d s).st == .done

def openDoms (s : State) : List Nat := (List.range 16).filter (fun d => isOpen d s)

/-- The physical extent a frame of domain `d` reads for extent `x`: the version committed at its opening tick. -/
def readPhys (x : Nat) (d : Option Nat) (s : State) : Nat :=
  match d with
  | none => (ext x s).phys.toNat
  | some d =>
    match s.mem.old.find? (fun o => o.ext == x && !o.moved && o.readers.contains d) with
    | some o => o.phys
    | none => (ext x s).phys.toNat

/-- Keeps a replaced version for the frames that still read it, or frees it (R40, R43). -/
def keepOld (x p : Nat) (readers : List Nat) (s : State) : State :=
  let rs := readers.filter (fun d => !(s.mem.old.any (fun o => o.ext == x && !o.moved && o.readers.contains d)))
  if rs = [] then freePhys p s
  else setMem { s.mem with old := s.mem.old ++ [{ ext := x, phys := p, readers := rs, moved := false }] } s

/-- The extents held FRESH by domain `d`. -/
def freshOf (d : Nat) (s : State) : List Nat :=
  (s.mem.exts.filter (fun e => e.2.st == .fresh && e.2.freshFd.toNat == d)).map (·.1)

/-- A copy for version-on-write completes: the committed contents, then the writes that waited (R192, R193). -/
def endCow (x : Nat) (s : State) : State :=
  match s.mem.cow.find? (fun c => c.ext == x) with
  | none => s
  | some c =>
    let e := ext x s
    let m := s.mem.copyExtent e.phys.toNat e.freshPhys.toNat
    let m := c.writes.foldl (fun m w => m.setBytes (e.freshPhys.toNat * extBytes + w.off) w.data) m
    setMem { m with cow := m.cow.filter (fun c => c.ext != x) } s

/-- Commits one fresh extent: PHYS becomes FRESH_PHYS (R43, R192). A copy still in progress for a write of another device
completes first (log 42). -/
def flipExt (d x : Nat) (s : State) : State :=
  let s := endCow x s
  let e := ext x s
  let s := setExt x { e with st := .idle, phys := e.freshPhys, freshPhys := 0, freshFd := 0 } s
  keepOld x e.phys.toNat ((openDoms s).filter (· ≠ d)) s

/-- Discards one fresh extent, a copy for it and the writes that wait for the copy (R192, R47). -/
def dropFresh (x : Nat) (s : State) : State :=
  let e := ext x s
  let s := setExt x { e with st := .idle, freshPhys := 0, freshFd := 0 } s
  freePhys e.freshPhys.toNat (setMem { s.mem with
    cow := s.mem.cow.filter (fun c => c.ext != x)
    putWaits := s.mem.putWaits.filter (fun w => !w.exts.contains x) } s)

/-- An entry that has become POOL: the fields the driver writes stay (R198). -/
def Ext.toPool (e : Ext) : Ext := { kind := .pool, obj := e.obj, ord := e.ord }

/-- The frame of domain `d` reads no old version any more: versions and moved sources without readers go (R40,
R202). -/
def endReader (d : Nat) (s : State) : State :=
  let old := s.mem.old.map (fun o => { o with readers := o.readers.filter (· ≠ d) })
  let gone := old.filter (fun o => o.readers == [])
  let s := setMem { s.mem with old := old.filter (fun o => o.readers != []) } s
  foldS gone (fun o s =>
    freePhys o.phys (if o.moved then setExt o.ext (ext o.ext s).toPool s else s)) s

/-- Discards every fresh extent of domain `d` (R47.1, R192). -/
def discardFresh (d : Nat) (s : State) : State :=
  let s := foldS (freshOf d s) dropFresh s
  modDom d (fun x => { x with freshUsed := 0 }) s

/-- Commits every fresh extent of domain `d` (R43). -/
def commitFresh (d : Nat) (s : State) : State :=
  let s := foldS (freshOf d s) (flipExt d) s
  modDom d (fun x => { x with freshUsed := 0 }) s

/-! ### Objects (R194, R195) -/

def obj (o : Nat) (s : State) : ObjEntry := tget s.mem.objs {} o
def setObj (o : Nat) (e : ObjEntry) (s : State) : State := setMem { s.mem with objs := tset s.mem.objs {} o e } s

/-- Whether domain `d` may write object `o` now: it is its WRITER, or was when its open frame opened (R41, R197). -/
def mayWrite (d o : Nat) (s : State) : Bool :=
  ((obj o s).writer.toNat == d && !s.mem.notYetWrite.contains (o, d)) || s.mem.keepsWrite.contains (o, d)

/-- The frame of domain `d` that was open at a change of WRITER has ended (R197). -/
def endWriter (d : Nat) (s : State) : State :=
  setMem { s.mem with
    keepsWrite := s.mem.keepsWrite.filter (fun p => p.2 != d)
    notYetWrite := s.mem.notYetWrite.filter (fun p => p.2 != d) } s

/-- The extent number of ordinal `k` of object `o`. -/
def objExt (o k : Nat) (s : State) : Option Nat :=
  (s.mem.exts.find? (fun e =>
    e.2.kind == .object && e.2.st != .moved && e.2.obj.toNat == o && e.2.ord.toNat == k)).map (·.1)

/-- The extents of an object, its moved sources among them. -/
def extsOf (o : Nat) (s : State) : List Nat :=
  (s.mem.exts.filter (fun e => e.2.kind == .object && e.2.obj.toNat == o)).map (·.1)

/-- A byte of an object as a frame of domain `d` reads it; 0 beyond the object. -/
def objByte (o off : Nat) (d : Option Nat) (s : State) : Byte :=
  match objExt o (off / extBytes) s with
  | some x => s.mem.byteAt (readPhys x d s * extBytes + off % extBytes)
  | none => 0

def objBytes (o off n : Nat) (d : Option Nat) (s : State) : List Byte :=
  (List.range n).map (fun i => objByte o (off + i) d s)

/-- The little-endian number in `n` bytes of an object at offset `off`. -/
def objNum (o off n : Nat) (d : Option Nat) (s : State) : Nat := leVal (objBytes o off n d s)

/-- Whether the frame of domain `d` reads the committed version of extent `x`, no older one (R40). -/
def readsNow (x d : Nat) (s : State) : Bool :=
  !s.mem.old.any (fun o => o.ext == x && !o.moved && o.readers.contains d)

/-- The committed version of extent `x` is about to be written in place: where a checkpoint retains it, or one of the frames
`rs` reads it, the write goes to a copy of it, so that the version stays as it is (R40, R366). Without a free physical extent,
against the sizing that R366 asks of the driver, the write goes in place (log 26). -/
def ownVersion (x : Nat) (rs : List Nat) (s : State) : State :=
  let e := ext x s
  if e.kind = .object ∧ (retained e.phys.toNat s ∨ rs.any (fun d => readsNow x d s)) then
    match takePhys x s with
    | some (p, s) =>
      keepOld x e.phys.toNat rs
        (setExt x { e with phys := BitVec.ofNat 21 p } (setMem (s.mem.copyExtent e.phys.toNat p) s))
    | none => s
  else s

/-- The device itself writes bytes of an object's committed version (R261, R279, R369). Frames that are open go on reading
the version they opened with (R40). -/
def objPut (o off : Nat) (bs : List Byte) (s : State) : State :=
  match bs with
  | [] => s
  | b :: r =>
    let s := match objExt o (off / extBytes) s with
      | some x =>
        let s := ownVersion x (openDoms s) s
        setMem (s.mem.setByte ((ext x s).phys.toNat * extBytes + off % extBytes) b) s
      | none => s
    objPut o (off + 1) r s

/-- The size of an object in bytes. -/
def objSize (o : Nat) (s : State) : Nat := (obj o s).extCount.toNat * extBytes

end Sys2Proof.Machine
end

