-- ==== Sys2Proof/Machine/Frames.lean ====
section
/-! DEFINITION. Frames: the berths of a domain, opening and ending ticks, aborts and recalls (R36 to R50, R499). -/

namespace Sys2Proof.Machine
open Sys2Proof

/-! ### Berth sets and clients (R271, R272) -/

def serveOf (d : Nat) (s : State) : Serve := tget s.serve {} d
def setServe (d : Nat) (x : Serve) (s : State) : State := { s with serve := tset s.serve {} d x }
def modServe (d : Nat) (f : Serve → Serve) (s : State) : State := setServe d (f (serveOf d s)) s

/-- Whether the berth set of domain `d` holds berth `b` (R272). -/
def holdsBerth (d : Nat) (b : BerthIdx) (s : State) : Bool := (serveOf d s).mask.getLsbD b.toNat

def domBerths (d : Nat) (s : State) : List BerthIdx :=
  ((List.range 256).map (BitVec.ofNat 8)).filter (fun b => holdsBerth d b s)

/-- The enabled domain whose berth set holds `b`. -/
def berthDom (b : BerthIdx) (s : State) : Option Nat :=
  (List.range 16).find? (fun d => (dom d s).en && holdsBerth d b s)

/-- The client charged for berth `b`, 0xFF for the house (R271, R411). -/
def berthClient (b : BerthIdx) (s : State) : BitVec 8 :=
  match berthDom b s with
  | some d => (serveOf d s).client
  | none => 0xFF

/-- Whether an enabled domain that is not HELD includes the berth (R59, R135). -/
def berthLive (b : BerthIdx) (s : State) : Bool :=
  (List.range 16).any (fun d => (dom d s).en && (dom d s).st != .held && holdsBerth d b s)

/-! ### Accounting of an open frame (R284, R285) -/

def acctr (c i : Nat) (s : State) : W64 := tget s.acct.ctr 0 (c * 16 + i)
def addCtr (c i n : Nat) (s : State) : State :=
  { s with acct := { s.acct with ctr := tset s.acct.ctr 0 (c * 16 + i) (satAdd (acctr c i s) n) } }

def accrual (d : Nat) (s : State) : Accrual := tget s.acct.open_ {} d
def setAccrual (d : Nat) (a : Accrual) (s : State) : State :=
  { s with acct := { s.acct with open_ := tset s.acct.open_ {} d a } }
def accrue (d : Nat) (f : Accrual → Accrual) (s : State) : State := setAccrual d (f (accrual d s)) s

/-- Work of client `c` outside frames: it is added at the next base tick (R285). -/
def accrueLate (c : Nat) (f : Accrual → Accrual) (s : State) : State :=
  { s with acct := { s.acct with late := tset s.acct.late {} c (f (tget s.acct.late {} c)) } }

/-- Adds the counters 1 to 6 and 9 of an accrual to client `c` (R284, R285). -/
def addAccrual (c : Nat) (a : Accrual) (s : State) : State :=
  addCtr c 1 a.mxe (addCtr c 2 a.vxe (addCtr c 3 a.lt (addCtr c 4 a.lpx (addCtr c 5 a.tx (addCtr c 6 a.rx
    (addCtr c 9 a.energy s))))))

/-- The base tick adds the work outside frames (R285). -/
def flushLate (s : State) : State :=
  let l := s.acct.late
  foldS l (fun e s => addAccrual e.1 e.2 s) { s with acct := { s.acct with late := [] } }

/-- Weighted activity of a client in this tick (R286). -/
def addAct (c n : Nat) (s : State) : State :=
  { s with acct := { s.acct with act := tset s.acct.act 0 c (tget s.acct.act 0 c + n) } }

/-- Bytes written by lighters, LPDDR5X data bytes, fabric payload sent and received, added to an accrual. -/
def Accrual.bytes (written lpx tx rx : Nat) (a : Accrual) : Accrual :=
  { a with lt := a.lt + written, lpx := a.lpx + lpx, tx := a.tx + tx, rx := a.rx + rx }

/-- The activity of bytes written, of LPDDR5X bytes and of payload sent (R286). -/
def addByteAct (c : Nat) (written lpx tx : Nat) (s : State) : State :=
  addAct c (cdiv written 64 * (s.acct.w.toList.getD 7 0).toNat + cdiv lpx 64 * (s.acct.w.toList.getD 8 0).toNat +
    cdiv tx 64 * s.acct.wVoxle.toNat) s

/-- Bytes of work of client `c`: what its lighters wrote, LPDDR5X data bytes, fabric payload sent and received. They accrue
to the open frame of domain `d`, and outside frames they wait for the base tick; the activity counts either way (R284 to
R286). -/
def charge (d : Option Nat) (c : BitVec 8) (written lpx tx rx : Nat) (s : State) : State :=
  addByteAct c.toNat written lpx tx (match d.filter (fun d => isOpen d s) with
    | some d => accrue d (·.bytes written lpx tx rx) s
    | none => accrueLate c.toNat (·.bytes written lpx tx rx) s)

/-- The house: work that no client asked for (R271). -/
def house : BitVec 8 := 0xFF

/-- Sends a message of the house's own work and charges its `n` payload bytes (R271, R286; log 23). -/
def sendHouse (n : Nat) (m : OutMsg) (s : State) : State := charge none house 0 0 n 0 (send m s)

/-- The accruals of a committing frame go to the client's counters (R285). -/
def commitAccrual (d : Nat) (s : State) : State :=
  setAccrual d {} (addAccrual (serveOf d s).client.toNat (accrual d s) s)

/-- The cycles and the energy of a recalled frame (R285). -/
def recallAccrual (d : Nat) (s : State) : State :=
  let a := accrual d s
  let c := (serveOf d s).client.toNat
  setAccrual d {} (addCtr c 11 (a.mxe + a.vxe) (addCtr c 12 a.energy s))

/-! ### What an abort does (R47.1, R134) -/

/-- A lighter whose frame is aborted keeps only what the driver submitted (R59). -/
def Lighter.abort (l : Lighter) : Lighter :=
  { l with queue := l.queue.filter (·.driver), run := l.run.filter (·.ent.driver) }

/-- A berth whose frame is aborted: the pilot stops unless HALTED, queued and running work is dropped. -/
def Berth.abort (be : Berth) : Berth :=
  { be with
    pl := if be.pl = .run ∨ be.pl = .stalled ∨ be.pl = .held then .idle else be.pl
    stall := none, dead := false, mxq := [], vxq := [], closing := [], stuck := [], postings := [], checked := []
    lt := be.lt.map Lighter.abort }

/-- The landing word of frame `f` in the slice of `b` (R232), and the post and result words (R256). -/
def landWord (b : BerthIdx) (f : W64) : Nat := sliceBase b + 0x0FFFF7F0 + 8 * (f.toNat % 2)
def resultWord (b : BerthIdx) : Nat := sliceBase b + 0x0FFFF7E0
def postWord (b : BerthIdx) : Nat := sliceBase b + 0x0FFFF7E8

/-- Writes bytes of the last extent of a slice, whose PHYS is its own number (R191). -/
def putLast (a : Nat) (bs : List Byte) (s : State) : State := setMem (s.mem.setBytes a bs) s

/-- Requests of the berths of a domain that are outstanding are dropped (R47.1). -/
def dropReqs (bs : List BerthIdx) (s : State) : State :=
  { s with reqs := s.reqs.filter (fun r => match r.what with
      | .ltGet b _ _ => !bs.contains b
      | .ltPut b _ => !bs.contains b
      | _ => true) }

/-- The run of domain `d` that is open or was opened last. -/
def runId (d : Nat) (s : State) : RunId := ⟨d, (dom d s).num, (dom d s).replays⟩

/-- The frame's messages that wait for an acknowledgement are forgotten (R47.1). -/
def dropFrameOut (d : Nat) (s : State) : State :=
  { s with frameOut := s.frameOut.filter (fun m => m.run != runId d s) }

/-- The reductions of a domain's frame are discarded (R258). -/
def dropReductions (d : Nat) (s : State) : State :=
  { s with redctx := s.redctx.map (fun e =>
      if e.2.dom.toNat = d ∧ e.2.en then
        (e.1, { e.2 with runs := [], counts := [], marks := [], delivered := 0, sent := 0 })
      else e) }

/-- The landings of frame `f` of domain `d` are discarded and its landing words set to 0 (R232, R234). -/
def dropLandings (d : Nat) (f : W64) (s : State) : State :=
  let s := foldS (domBerths d s) (fun b => putLast (landWord b f) (leBytes 8 0)) s
  { s with weights := { s.weights with
    legs := s.weights.legs.filter (fun l => !(l.key == d && l.f == f.toNat)) } }

/-- Aborts the open run of domain `d` (R47.1): programs stop, transfers in flight are dropped, fresh extents and
frame-scoped data are discarded. The frame reads no moved source any more, so its replay, which opens after the switch tick, is
refused with EXTENT_MOVED: the spec does not say whether a replay counts as the frame that opened before (DESIGN CHOICE, log
42). -/
def abortRun (d : Nat) (s : State) : State :=
  let bs := domBerths d s
  let s := foldS bs (fun b => modBerth b Berth.abort) s
  let s := dropLandings d (dom d s).num s
  let s := dropReductions d (dropFrameOut d (dropReqs bs s))
  let s := discardFresh d s
  let s := endReader d s
  let s := modServe d (fun v => { v with undo := v.admitted != [] || v.undo, doneWrites := [] }) s
  recallAccrual d s

/-! ### Recalls -/

/-- The page of the block that reports a code for domain `d`, by the class of the code (log 10). -/
def blkFor (d : Nat) (c : W16) : Blk :=
  match codeClass c with
  | 1 => Blk.fd d
  | 5 => ⟨Pg.object, 0⟩
  | 6 => Blk.cv d
  | 7 => Blk.mb d
  | 8 => ⟨Pg.client, 0⟩
  | 0xB => ⟨Pg.health, 0⟩
  | _ => Blk.fd d

/-- Causes whose recall is followed by a replay at a tick the sender names (R45, R499); AUD_MISMATCH is the cause of an
overrun under R353. -/
def overCause (c : W16) : Bool :=
  [Code.frameOverrun, Code.writeForeign, Code.freshExhausted, Code.freshPoolEmpty, Code.stepCtlWrite,
   Code.slotCtlWrite, Code.digestMismatch, Code.eventLate, Code.wsNotReady, Code.audMismatch].contains c

/-- Causes whose recall holds the domain (R27, R49). -/
def holdCause (c : W16) : Bool := c == Code.tickLost || c == Code.frameHeld

/-- Takes the recall of the open run of domain `d` (R47.1): `tick` is the replay tick, 0 for none. A recall with
cause TICK_LOST or FRAME_HELD holds the domain after the abort (R27, R49). FRAME_HELD is no cause of an overrun, so the run that
a RESUME opens after it is replayed once more where it overruns (DESIGN CHOICE, log 30). -/
def takeOpenRecall (d : Nat) (cause : W16) (tick : Nat) (s : State) : State :=
  let s := abortRun d s
  let s := setLastErr (Blk.fd d) cause s
  modDom d (fun x => { x with
    st := .recalling, abortDone := false, nextRun := .replay
    taken := x.taken ++ [(x.num, x.replays)]
    resumeAt := if tick = 0 then none else some tick
    replayOfOver := overCause cause
    holdAfterAbort := if holdCause cause then some cause else none }) s

/-- The RECALL message of a run (KIND 0x51, R326) to the domain's recall group. -/
def sendRecall (d : Nat) (f : W64) (replays : BitVec 8) (cause : W16) (tick : Nat) (s : State) : State :=
  send { dst := recGroup d s, mc := true, kind := 0x51,
         body := leBytes 8 f.toNat ++ [replays, BitVec.ofNat 8 d] ++ leBytes 2 cause.toNat ++ leBytes 4 0 ++
           leBytes 8 tick } s

/-- Recalls the open run of `d` with a cause and a replay tick, on every member, this device included (R45, R50). -/
def recallOwn (d : Nat) (cause : W16) (tick : Nat) (s : State) : State :=
  let x := dom d s
  takeOpenRecall d cause tick (sendRecall d x.num x.replays cause tick s)

/-- The first base tick at least GUARD + 9 µs after a moment `phase` (in 100 ns) into the tick `t` (R48, R499). -/
def replayTick (s : State) (guard : Nat) (t phase : Nat) : Nat :=
  let p := s.tick.periodUs.toNat * 10
  if p = 0 then t + 1 else cdiv (t * p + phase + guard + 90) p

/-- The device itself recalls the open run of `d` for a cause of R499 that a block has reported, or for an overrun (R45).
`tick` is the replay tick. A replay that is recalled again this way is held with FRAME_HELD (R49). -/
def recallReported (d : Nat) (cause : W16) (tick : Nat) (s : State) : State :=
  if isOpen d s then
    if (dom d s).replayOfOver then
      recallOwn d Code.frameHeld 0 (report (Blk.fd d) Code.frameHeld s)
    else recallOwn d cause tick s
  else s

/-- The replay tick of a recall sent now: the phase of the sending within the current tick is a free value (log 6). -/
def replayTickNow (d : Nat) (s : State) : Nat × State :=
  let (k, s) := nextFree s
  let p := s.tick.periodUs.toNat * 10
  let phase := if p = 0 then 0 else Config.freeNat k % p
  (replayTick s (dom d s).guard.toNat (now s) phase, s)

/-- A recall under R499 for a cause that a block has reported. -/
def recallNamed (d : Nat) (cause : W16) (s : State) : State :=
  if isOpen d s then
    let (t, s) := replayTickNow d s
    recallReported d cause t s
  else s

/-- A recall under R499 of the open run of `d`, the cause reported: with FRAME_HELD it is one cycle's errors (R410). -/
def deviceRecall (d : Nat) (cause : W16) (s : State) : State :=
  if isOpen d s then firstOfCycle s (recallNamed d cause (report (blkFor d cause) cause s)) else s

/-- A recall of frame `f` of domain `d` for missing or corrupt data from `src` is noted: for its path (R338), and for the
outcome of the frame's replay (R337). -/
def noteLostData (d : Nat) (f : W64) (cause src : W16) (port : Byte) (s : State) : State :=
  notePathFault d cause src port (modDom d (fun x => { x with
    dataLoss := x.dataLoss.filter (fun l => l.f != f) ++ [⟨f, cause, src, port⟩] }) s)

/-- A frame's replay has committed after a recall for missing or corrupt data: the fault was transient (R337). -/
def noteReplay (d : Nat) (s : State) : State :=
  let x := dom d s
  match x.dataLoss.find? (fun l => l.f == x.num) with
  | some l =>
    if x.replays ≠ 0 then
      transientFault l.cause { page := Pg.frame, src := l.src, dom := some d, port := l.port } s
    else s
  | none => s

/-- Corrupt data from `src` recalls the open run of `d` without a replay tick (R50, R214). -/
def faultRecall (d : Nat) (cause src : W16) (s : State) : State :=
  if isOpen d s then
    noteLostData d (dom d s).num cause src (if src = ownDev s then 0xFF else lastPort src s) (recallOwn d cause 0 (report (blkFor d cause) cause s))
  else s

/-- The frame of domain `d` accessed a POISONED or REBUILDING extent (R214). -/
def poisonRecall (d x : Nat) (s : State) : State :=
  if isOpen d s then
    modDom d (fun y => { y with waitExt := y.waitExt ++ [x] }) (faultRecall d Code.extentPoisoned (ownDev s) s)
  else s

/-- The frame of domain `d` read a lost position of a parity group: the read is one of a REBUILDING extent (R364). -/
def positionRecall (d : Nat) (p : Nat × Nat) (src : W16) (s : State) : State :=
  if isOpen d s then
    modDom d (fun y => { y with waitPos := y.waitPos ++ [p] }) (faultRecall d Code.extentPoisoned src s)
  else s

/-- The REPLAYS count of the run that a domain opens next. -/
def nextReplays (x : Domain) : BitVec 8 := if x.nextRun = .replay then satInc x.replays else x.replays

/-- The run that the domain opens next is recalled with a cause that holds it (R27, R49): HELD at once, or when an abort
in progress completes. -/
def holdUnopened (d : Nat) (cause : W16) (s : State) : State :=
  modDom d (fun x =>
    let x := { x with replays := nextReplays x, nextRun := .replay, resumeAt := none, replayOfOver := false, waitExt := [], waitPos := [] }
    if x.st = .recalling ∧ !x.abortDone then { x with holdAfterAbort := some cause }
    else { x with st := .held, heldRecalled := true }) s

/-- A run that has not opened here is marked recalled (R47.2); what has landed for its frame goes (R234). -/
def markRun (d : Nat) (f : W64) (replays : BitVec 8) (cause : W16) (tick : Nat) (s : State) : State :=
  let x := dom d s
  let s := if isOpen d s && f == x.num then s else dropLandings d f s
  let s := setLastErr (Blk.fd d) cause
    (modDom d (fun y => { y with
      marks := y.marks ++ [⟨f, replays, cause, tick⟩], taken := y.taken ++ [(f, replays)] }) s)
  if holdCause cause && !isOpen d s && f == x.num && replays == nextReplays x then holdUnopened d cause s else s

/-- A recall of a frame that has committed here: the domain is held (R47.3). The frame that is open by then is aborted at once,
and opens after RESUME as a new run with REPLAYS 0: the spec says only that the domain is held (DESIGN CHOICE, log 30). -/
def recallTooLate (d : Nat) (f : W64) (replays : BitVec 8) (s : State) : State :=
  let x := dom d s
  let s := report (Blk.fd d) Code.recallLate (modDom d (fun y => { y with taken := y.taken ++ [(f, replays)] }) s)
  if isOpen d s then
    modDom d (fun y => { y with holdAfterAbort := some Code.recallLate }) (takeOpenRecall d Code.recallLate 0 s)
  else if x.st = .recalling ∧ !x.abortDone then
    modDom d (fun y => { y with holdAfterAbort := some Code.recallLate, resumeAt := none }) s
  else modDom d (fun y => { y with st := .held, heldRecalled := false, resumeAt := none }) s

/-- Takes a RECALL of run `replays` of frame `f` (R47). -/
def takeRecall (d : Nat) (f : W64) (replays : BitVec 8) (cause : W16) (tick : Nat) (s : State) : State :=
  let x := dom d s
  if !x.en || x.taken.contains (f, replays) then s
  else if f.toNat < x.num.toNat then recallTooLate d f replays s
  else if isOpen d s && f == x.num && replays == x.replays then takeOpenRecall d cause tick s
  else if f == x.num && replays.toNat < x.replays.toNat then s
  else if x.marks.any (fun m => m.f == f && replays.toNat ≤ m.replays.toNat) then s
  else markRun d f replays cause tick s

end Sys2Proof.Machine
end

