-- ==== Sys2Proof/Machine/Groups.lean ====
section
/-! DEFINITION. Access to the SURVIVE groups and the parity groups (R360 to R364, R385): what other blocks ask of them. -/

namespace Sys2Proof.Machine
open Sys2Proof

/-! ### SURVIVE groups -/

def surv (d : Nat) (s : State) : Survive := tget s.survive.doms {} d
def setSurvive (p : SurvivePage) (s : State) : State := { s with survive := p }
def setSurv (d : Nat) (x : Survive) (s : State) : State :=
  setSurvive { s.survive with doms := tset s.survive.doms {} d x } s
def modSurv (d : Nat) (f : Survive → Survive) (s : State) : State := setSurv d (f (surv d s)) s

/-! ### Parity groups (R360) -/

structure PgEntry where
  dev : List Nat
  rebDev : Nat
  next : Nat
  ext : List Nat
  rebExt : Nat

def pgCount (d : Nat) (s : State) : Nat := objNum (surv d s).pgObj.toNat 0 2 none s

/-- Group `n` of domain `d`. -/
def pgEntry (d n : Nat) (s : State) : PgEntry :=
  let o := 8 + 80 * n
  let p := (surv d s).pgObj.toNat
  { dev := (List.range 10).map (fun k => objNum p (o + 2 * k) 2 none s)
    rebDev := objNum p (o + 20) 2 none s
    next := objNum p (o + 22) 2 none s
    ext := (List.range 10).map (fun k => objNum p (o + 24 + 4 * k) 4 none s % 2 ^ 21)
    rebExt := objNum p (o + 64) 4 none s % 2 ^ 21 }

def pgKey (d n : Nat) : Nat := d * 65536 + n
def pgroup (d n : Nat) (s : State) : PGroup := tget s.survive.groups {} (pgKey d n)
def setPgroup (d n : Nat) (g : PGroup) (s : State) : State :=
  setSurvive { s.survive with groups := tset s.survive.groups {} (pgKey d n) g } s

/-- Whether position `k` has been rebuilt on REB_DEV in place of the device the table still names (R363). -/
def isRebuilt (e : PgEntry) (g : PGroup) (k : Nat) : Bool :=
  g.rebuilt == some k && e.dev.getD k 0 == g.rebuiltFor && e.rebDev != 0xFFFF

/-- Where position `k` lies: a rebuilt one on REB_DEV (R363). -/
def posDev (e : PgEntry) (g : PGroup) (k : Nat) : Nat := if isRebuilt e g k then e.rebDev else e.dev.getD k 0
def posExt (e : PgEntry) (g : PGroup) (k : Nat) : Nat := if isRebuilt e g k then e.rebExt else e.ext.getD k 0

/-- The positions of a group that this device holds, rebuilt ones among them. -/
def ownPositions (d n : Nat) (s : State) : List Nat :=
  let e := pgEntry d n s
  let g := pgroup d n s
  (List.range 10).filter (fun k => posDev e g k == (ownDev s).toNat)

/-- Whether an extent number lies in the `n` extents from `lo`. -/
def inRun (lo n x : Nat) : Bool := lo ≤ x && x < lo + n

/-- Where an extent of this device lies in its parity groups: domain, group, position, place within it. -/
def pgPlaces (x : Nat) (s : State) : List (Nat × Nat × Nat × Nat) :=
  (List.range 16).flatMap (fun d =>
    if (surv d s).en || s.survive.groups.any (fun e => e.1 / 65536 == d) then
      (List.range (pgCount d s)).flatMap (fun n =>
        let e := pgEntry d n s
        let g := pgroup d n s
        ((ownPositions d n s).filter (fun k => inRun (posExt e g k) e.next x)).map
          (fun k => (d, n, k, x - posExt e g k)))
    else [])

/-- The positions of a group that are lost: those of lost devices, and those of this device with an extent POISONED and no
rebuild of it in progress (R362). -/
def lostNow (d n : Nat) (s : State) : List Nat :=
  let e := pgEntry d n s
  let g := pgroup d n s
  g.lost ++ (List.range 10).filter (fun k => !g.lost.contains k && posDev e g k == (ownDev s).toNat &&
    (List.range e.next).any (fun j => (ext (posExt e g k + j) s).st == .poisoned))

/-- The lost position of a parity group of domain `d` that the extents `xs` of device `dev` belong to, if one does: where the
table puts it, or where it was rebuilt (R364). -/
def lostPosAt (d : Nat) (dev : W16) (xs : List Nat) (s : State) : Option (Nat × Nat) :=
  if !(surv d s).en then none
  else
    (List.range (pgCount d s)).findSome? (fun n =>
      let e := pgEntry d n s
      let g := pgroup d n s
      ((lostNow d n s).find? (fun k =>
        (e.dev.getD k 0 == dev.toNat && xs.any (inRun (e.ext.getD k 0) e.next)) ||
          (posDev e g k == dev.toNat && xs.any (inRun (posExt e g k) e.next)))).map (fun k => (n, k)))

/-- The kind header of PQ_STALE, PROBE and the like: a domain and a group (R380). -/
def pqHeader (d n : Nat) : List Byte := [BitVec.ofNat 8 d, 0] ++ leBytes 2 n ++ List.replicate 4 0

/-- A group is STALE: a rebuild from it is over (R362, R363). -/
def staleGroup (d n : Nat) (s : State) : State :=
  setPgroup d n { pgroup d n s with st := .stale, target := none, done := 0, bad := [] } s

/-- A position was written otherwise than by ENCODE or a rebuild: its groups become STALE here, and the devices of the
other positions hear of it (R362). -/
def markStale (x : Nat) (s : State) : State :=
  foldS (pgPlaces x s) (fun q s =>
    let (d, n, k, _) := q
    let e := pgEntry d n s
    let g := pgroup d n s
    let s := staleGroup d n s
    foldS ((List.range 10).filter (· ≠ k)) (fun i s =>
      send { dst := w16 (posDev e g i), kind := 0x9A, body := pqHeader d n } s) s) s

end Sys2Proof.Machine
end

