-- ==== Sys2Proof/Machine/Access.lean ====
section
/-! DEFINITION. Reads and writes by frames (R40 to R42, R189, R192, R202, R214) and by requests from outside (R500):
which extents they touch, what stops them, version-on-write and its copies. -/

namespace Sys2Proof.Machine
open Sys2Proof

/-- What stops an access: a refusal code, a recall of the accessing frame that has been made, or a copy that the write
waits for. -/
inductive Acc where
  | ok
  | refused (c : W16)
  | recalled
  | wait
  deriving DecidableEq, Repr

/-- The extents a byte range touches: extent number, offset within it, length. The range lies in one region. -/
def pieces (x off n fuel : Nat) : List (Nat × Nat × Nat) :=
  match fuel with
  | 0 => []
  | fuel + 1 =>
    if n = 0 then []
    else if off + n ≤ extBytes then [(x, off, n)]
    else (x, off, extBytes - off) :: pieces (x + 1) 0 (n - (extBytes - off)) fuel

def piecesOf (a n : Nat) : List (Nat × Nat × Nat) :=
  pieces (extOf a).1 (extOf a).2 n (n / extBytes + 2)

/-! ### Device and driver fields that no frame may write (R260, R279) -/

def member (d : Nat) (s : State) : Member := tget s.members.groups {} d
def setMember (d : Nat) (x : Member) (s : State) : State :=
  { s with members := { s.members with groups := tset s.members.groups {} d x } }
def modMember (d : Nat) (f : Member → Member) (s : State) : State := setMember d (f (member d s)) s

/-- Whether the ranges `[a, a + n)` and `[b, b + m)` meet. -/
def meets (a n b m : Nat) : Bool := a < b + m && b < a + n

/-- The code of a frame write to bytes `[o, o + n)` of object `ob` by domain `d` that belong to the device or the driver:
step-control bytes 0 to 35 and 40 to 47, slot entry bytes 0 to 63, the KV chain. -/
def ctlCode (d ob o n : Nat) (s : State) : Option W16 :=
  let sv := serveOf d s
  if (member d s).stepObj ≠ 0xFFFF ∧ (member d s).stepObj.toNat = ob ∧ (meets o n 0 36 || meets o n 40 8) then
    some Code.stepCtlWrite
  else if sv.serve && sv.slotObj.toNat == ob &&
      (meets o n 32768 (2 * (obj sv.kvObj.toNat s).extCount.toNat) ||
        (List.range sv.nslots.toNat).any (fun k => meets o n (128 * k) 64)) then
    some Code.slotCtlWrite
  else none

/-! ### Version-on-write (R42, R192, R193) -/

def cowOn (x : Nat) (s : State) : Bool := s.mem.cow.any (fun c => c.ext == x)

/-- Takes a fresh extent for the first write of a frame of `d` to extent `x`. A write of the whole extent needs no copy
(R39). -/
def takeFresh (d x : Nat) (whole : Bool) (s : State) : Acc × State :=
  let fd := dom d s
  if fd.freshLimit.toNat ≤ fd.freshUsed.toNat then (.recalled, deviceRecall d Code.freshExhausted s)
  else
    match takePhys x s with
    | none => (.recalled, deviceRecall d Code.freshPoolEmpty s)
    | some (p, s) =>
      let e := ext x s
      let s := setExt x { e with st := .fresh, freshFd := BitVec.ofNat 4 d, freshPhys := BitVec.ofNat 21 p } s
      let s := modDom d (fun y => { y with freshUsed := y.freshUsed + 1 }) s
      if whole then (.ok, s)
      else (.wait, setMem { s.mem with cow := s.mem.cow ++ [{ ext := x, writes := [] }] } s)

/-- The slots of domain `d` whose byte with DONE[63] lies in bytes `[o, o + n)` of object `ob` are noted (R280). -/
def noteDone (d ob o n : Nat) (s : State) : State :=
  let v := serveOf d s
  if v.serve && v.slotObj.toNat == ob then
    let ks := (List.range v.nslots.toNat).filter (fun k => meets (128 * k + 71) 1 o n)
    setServe d { v with doneWrites := v.doneWrites ++ ks.filter (fun k => !v.doneWrites.contains k) } s
  else s

/-- A frame write of domain `d` to `n` bytes of extent `x` at offset `o` is checked and its fresh version taken. A frame of a
former WRITER (R197) can meet an extent that is PROMOTING or EVICTING: the table of R204 does not name it; the extent becomes
FRESH and the move ends with MOVE_BAD_STATE (DESIGN CHOICE, log 42). -/
def prepWrite (d x o n : Nat) (s : State) : Acc × State :=
  let e := ext x s
  match e.kind with
  | .scratch => (.ok, s)
  | .pool => (.refused Code.extentPool, s)
  | .object =>
    let ob := e.obj.toNat
    if !mayWrite d ob s || (e.st == .fresh && e.freshFd.toNat != d) then (.recalled, deviceRecall d Code.writeForeign s)
    else
      match ctlCode d ob (e.ord.toNat * extBytes + o) n s with
      | some c => (.recalled, deviceRecall d c s)
      | none =>
        match e.st with
        | .poisoned => (.recalled, poisonRecall d x s)
        | .rebuilding => (.recalled, poisonRecall d x s)
        | .moved => (.refused Code.extentMoved, s)
        | .fresh => (if cowOn x s then .wait else .ok, noteDone d ob (e.ord.toNat * extBytes + o) n s)
        | _ => takeFresh d x (o == 0 && n == extBytes) (noteDone d ob (e.ord.toNat * extBytes + o) n s)

/-- Prepares the extents of a write one after another, in increasing extent number (R193). -/
def prepWrites (d : Nat) (ps : List (Nat × Nat × Nat)) (s : State) : Acc × State :=
  match ps with
  | [] => (.ok, s)
  | (x, o, n) :: r =>
    match prepWrite d x o n s with
    | (.ok, s) => prepWrites d r s
    | (.wait, s) =>
      match prepWrites d r s with
      | (.ok, s) => (.wait, s)
      | q => q
    | q => q

/-- Where a write of extent `x` lands: the fresh version while there is one, the backing extent otherwise. -/
def writePhys (x : Nat) (s : State) : Nat :=
  let e := ext x s
  if e.kind = .object ∧ e.st = .fresh then e.freshPhys.toNat else e.phys.toNat

/-- Stores bytes at a local address, extent by extent. A POOL extent has no bytes to store in (R189). -/
def landBytes (ps : List (Nat × Nat × Nat)) (bs : List Byte) (s : State) : State :=
  match ps with
  | [] => s
  | (x, o, n) :: r =>
    landBytes r (bs.drop n)
      (if (ext x s).kind = .pool then s else setMem (s.mem.setBytes (writePhys x s * extBytes + o) (bs.take n)) s)

/-- Keeps the bytes of a write whose version-on-write copy has not completed, extent by extent (R193). -/
def delayWrites (ps : List (Nat × Nat × Nat)) (bs : List Byte) (s : State) : State :=
  match ps with
  | [] => s
  | (x, o, n) :: r =>
    let s := if cowOn x s then
        setMem { s.mem with cow := s.mem.cow.map (fun c =>
          if c.ext = x then { c with writes := c.writes ++ [{ off := o, data := bs.take n }] } else c) } s
      else landBytes [(x, o, n)] (bs.take n) s
    delayWrites r (bs.drop n) s

/-! ### Reads (R40, R189, R202, R214) -/

/-- Whether a frame of domain `d` may still read the extent `x` that a move has left (R202). -/
def movedReader (d x : Nat) (s : State) : Bool :=
  s.mem.old.any (fun o => o.ext == x && o.moved && o.readers.contains d)

/-- Whether an old version of `x` is kept for domain `d` (R40, R196). -/
def hasOld (d x : Nat) (s : State) : Bool :=
  s.mem.old.any (fun o => o.ext == x && !o.moved && o.readers.contains d)

/-- A read of extent `x` by a frame of domain `d` (none: outside any frame). An extent of a lost position reads as one that is
REBUILDING (R364). -/
def prepRead (d : Option Nat) (x : Nat) (s : State) : Acc × State :=
  let e := ext x s
  match d with
  | none =>
    (match e.kind with
    | .pool => (.refused Code.extentPool, s)
    | _ => if e.st = .poisoned ∨ e.st = .rebuilding then (.refused Code.extentPoisoned, s) else (.ok, s))
  | some d =>
    if e.kind = .pool then (if hasOld d x s then (.ok, s) else (.refused Code.extentPool, s))
    else if e.st = .poisoned ∨ e.st = .rebuilding then (.recalled, poisonRecall d x s)
    else
      match lostPosAt d (ownDev s) [x] s with
      | some p => (.recalled, positionRecall d p (ownDev s) s)
      | none => if e.st = .moved ∧ ¬ movedReader d x s then (.refused Code.extentMoved, s) else (.ok, s)

def prepReads (d : Option Nat) (ps : List (Nat × Nat × Nat)) (s : State) : Acc × State :=
  match ps with
  | [] => (.ok, s)
  | (x, _, _) :: r =>
    match prepRead d x s with
    | (.ok, s) => prepReads d r s
    | q => q

/-- The bytes of a range as a frame of domain `d` reads them (R40). -/
def readPieces (d : Option Nat) (ps : List (Nat × Nat × Nat)) (s : State) : List Byte :=
  ps.flatMap (fun p => s.mem.bytesFrom (readPhys p.1 d s * extBytes + p.2.1) p.2.2)

/-! ### Poisoned and retired extents (R213, R214, R240) -/

/-- Extent `x` becomes POISONED: a fresh version is dropped and its frame recalled (log 42); a move on it ends. -/
def poisonExt (x : Nat) (s : State) : State :=
  let e := ext x s
  let s := if e.st = .fresh then dropFresh x s else s
  let s := setExt x { ext x s with st := .poisoned } s
  if e.st = .fresh then poisonRecall e.freshFd.toNat x s else s

/-- Physical extent `p` is retired while a fresh version or the destination of a move lies in it: it is never to back an
address, so the frame is recalled with EXTENT_POISONED and no replay tick, and the move ends (R50, R213, R214; log 42). -/
def loseFresh (p : Nat) (s : State) : State :=
  let s := setMem { s.mem with moves := s.mem.moves.map (fun m =>
    if !m.waiting && m.dstPhys == p then { m with dead := true } else m) } s
  match s.mem.exts.find? (fun e => e.2.st == .fresh && e.2.freshPhys.toNat == p) with
  | some e => poisonRecall e.2.freshFd.toNat e.1 s
  | none => s

/-- The extent number that physical extent `p` backs. -/
def backs (p : Nat) (s : State) : Option Nat :=
  if p < 65536 ∧ (ext p s).phys.toNat = p ∧ (ext p s).kind ≠ .pool then some p
  else (s.mem.exts.find? (fun e => e.2.kind != .pool && e.2.phys.toNat == p)).map (·.1)

/-- A lasting LPDDR5X error in physical extent `p`: it is retired, and the extent it backs is POISONED (R213). `d` is the
domain whose frame reads (R339). -/
def lpxLasting (m : Nat) (p : Nat) (d : Option Nat) (s : State) : State :=
  let x := backs p s
  let s := loseFresh p (retirePhys p s)
  let s := match x with
    | some x => if (ext x s).kind = .object then poisonExt x s else s
    | none => s
  lastingFault Code.memUncorrectable 1 { page := Pg.lpx m, src := ownDev s, addr := extAddr (x.getD p), dom := d } s

/-- The decoding of a usable window address: memory device, channel, raw sector (R209). -/
def lpxDecode (a : Nat) : Nat × Nat × Nat :=
  let n := (a - lpxBase) / 4096
  let q := n / 24
  (n % 24, a / 512 % 8, 16 * (q / 15) + q % 15)

/-- The window address of the physical extent behind a local address as domain `d` reads it (R189, R209). -/
def physAddr (d : Option Nat) (a : Nat) (s : State) : Nat :=
  extAddr (readPhys (extOf a).1 d s) + (extOf a).2

/-- The outcome of an access whose reads met an event (R213): whether its data is delivered. `a` is the local address
of the access, `d` the domain whose frame's version is read, `f` that of the frame the read belongs to (R339). -/
def lpxEvent (d : Option Nat) (a : Nat) (x : ReadEvent) (s : State) (f : Option Nat := d) : Bool × State :=
  match x with
  | .linkCorrected o =>
    let m := (lpxDecode (physAddr d (a + o) s)).1
    (true, setLpx m { lpxDev m s with link := satInc (lpxDev m s).link } s)
  | .linkRepeated o => (true, report ⟨Pg.lpx (lpxDecode (physAddr d (a + o) s)).1, 0⟩ Code.lpxLinkEcc s)
  | .lpxCorrected o =>
    let m := (lpxDecode (physAddr d (a + o) s)).1
    (true, setLpx m { lpxDev m s with ce := satInc (lpxDev m s).ce } s)
  | .lpxRetryOk o link =>
    let m := (lpxDecode (physAddr d (a + o) s)).1
    let k : Blk := ⟨Pg.lpx m, 0⟩
    let s := if link then report k Code.lpxLinkEcc s else s
    let s := report k Code.memUncorrectable s
    let s := setLpx m { lpxDev m s with transient := satInc (lpxDev m s).transient } s
    let s := report k Code.memRetryOk s
    (true, transientFault Code.memUncorrectable { page := Pg.lpx m, src := ownDev s, addr := a + o, dom := f } s)
  | .lpxRetryFail o link =>
    let (m, c, sec) := lpxDecode (physAddr d (a + o) s)
    let k : Blk := ⟨Pg.lpx m, 0⟩
    let s := if link then report k Code.lpxLinkEcc s else s
    let s := report k Code.memUncorrectable s
    let s := setLpx m { lpxDev m s with
      lasting := satInc (lpxDev m s).lasting, ueValid := true
      ueChan := BitVec.ofNat 3 c, ueSector := BitVec.ofNat 25 sec } s
    (false, lpxLasting m (readPhys (extOf (a + o)).1 d s) f s)
  | _ => (true, s)

/-- A read event of an access to the slice of berth `b` (R66): whether data is delivered. -/
def sliceEvent (b : BerthIdx) (k : Blk) (a : Nat) (x : ReadEvent) (s : State) : Bool × State :=
  match x with
  | .sramCorrected => (true, modBerth b (fun be => { be with ce := satInc be.ce }) s)
  | .sramUncorrectable o =>
    let s := report k Code.sramUncorrectable s
    let off := BitVec.ofNat 28 ((a + o) % 0x10000000)
    (false, setHealth { s.health with sramRetry := s.health.sramRetry ++ [(b, off)] } s)
  | _ => (true, s)

/-! ### Writes from outside a frame (R274, R324, R500) -/

/-- Stores bytes of a request in the committed version of one extent; a write that meets a version-on-write copy waits
for it only where the copy is its own, so the committed version takes it at once. -/
def putCommitted (ps : List (Nat × Nat × Nat)) (bs : List Byte) (s : State) : State :=
  match ps with
  | [] => s
  | (x, o, n) :: r =>
    let s := ownVersion x [] s
    putCommitted r (bs.drop n)
      (setMem (s.mem.setBytes ((ext x s).phys.toNat * extBytes + o) (bs.take n)) s)

/-- Whether the tier mover's read of the committed version of extent `x` delivers its data (R66, R213). `d` is the domain of
the frame that the read belongs to, none for a move. -/
def moverRead (x : Nat) (e : ReadEvent) (d : Option Nat) (s : State) : Bool × State :=
  if 65536 ≤ x then lpxEvent none (extAddr x) e s d
  else sliceEvent (BitVec.ofNat 8 (x / 256)) ⟨Pg.object, 0⟩ (extAddr x) e s

/-- A version-on-write copy of an LPDDR5X extent has read and written it (R284, R286). -/
def chargeCow (d x : Nat) (s : State) : State :=
  charge (some d) (serveOf d s).client 0 (if 65536 ≤ x then 2 * extBytes else 0) 0 0 s

/-- A copy for version-on-write ends: it completes, or its read meets an error, and a POISONED extent recalls the frame
(R193, R213, R214). -/
def cowCopied (x : Nat) (e : ReadEvent) (s : State) : State :=
  if cowOn x s then
    let d := (ext x s).freshFd.toNat
    match moverRead x e (some d) s with
    | (true, s) => endCow x (chargeCow d x s)
    | (false, t) => firstOfCycle s (if (ext x t).st = .poisoned then poisonRecall d x t else t)
  else s

end Sys2Proof.Machine
end

