-- ==== Sys2Proof/Machine/ReduceOps.lean ====
section
/-! DEFINITION. Reduction tables, posts and the finish of a frame (R254 to R258, R37). -/

namespace Sys2Proof.Machine
open Sys2Proof

def redCtx (c : Nat) (s : State) : RedCtx := tget s.redctx {} c
def setRedCtx (c : Nat) (x : RedCtx) (s : State) : State := { s with redctx := tset s.redctx {} c x }
def modRedCtx (c : Nat) (f : RedCtx → RedCtx) (s : State) : State := setRedCtx c (f (redCtx c s)) s

/-- The run of reduction `r` in a context. -/
def redRun (c r : Nat) (s : State) : RedRun :=
  ((redCtx c s).runs.find? (fun x => x.red == r)).getD { red := r }

def setRedRun (c : Nat) (x : RedRun) (s : State) : State :=
  modRedCtx c (fun y => { y with runs := y.runs.filter (fun z => z.red != x.red) ++ [x] }) s

/-! ### Epochs and frame tags (R233, R263) -/

/-- Whether a message of domain `d` carries the domain's epoch; one that does not is counted and reported (R263). -/
def epochOk (d : Nat) (e : W32) (s : State) : Bool × State :=
  let own := (member d s).epoch
  let m := s.members
  if e.toNat < own.toNat then
    (false, report (Blk.mb d) Code.epochStale { s with members := { m with stale := satInc m.stale } })
  else if own.toNat < e.toNat then
    (false, report (Blk.mb d) Code.epochAhead { s with members := { m with ahead := satInc m.ahead } })
  else (true, s)

/-- Whether a frame tag names the run that is open here, or no frame (R233). -/
def tagLive (t : FrameTag) (s : State) : Bool :=
  let x := dom t.dom.toNat s
  t.noFrame || (isOpen t.dom.toNat s && x.num == t.f && x.replays == t.replays)

/-- The frame tag of the open run of domain `d`. -/
def runTag (d : Nat) (s : State) : FrameTag := ⟨(dom d s).num, (dom d s).replays, false, BitVec.ofNat 4 d⟩

/-! ### Reduction tables (R254) -/

structure RedHead where
  ntiles : Nat
  final : Bool
  ncon : Nat
  first : Nat
  ok : Bool

structure RedEntry where
  berth : Nat
  leaf : Nat
  src : Nat
  rberth : Nat
  dst : Nat
  ok : Bool

/-- The number of reductions of a table. -/
def nred (t : Nat) (s : State) : Nat := objNum t 0 2 none s

def redHead (t r : Nat) (s : State) : RedHead :=
  let w := objNum t (8 + 8 * r) 8 none s
  let nt := w / 2 ^ 56 % 256
  { ntiles := nt, final := w / 2 ^ 55 % 2 = 1, ncon := w / 2 ^ 32 % 65536, first := w % 2 ^ 32,
    ok := 1 ≤ nt && nt ≤ 64 && w / 2 ^ 48 % 128 == 0 }

def redEntry (t e : Nat) (s : State) : RedEntry :=
  let o := 8 + 8 * nred t s + 16 * e
  let w := objNum t o 8 none s
  let v := objNum t (o + 8) 8 none s
  { berth := w / 2 ^ 56 % 256, leaf := w / 2 ^ 32 % 2 ^ 20, src := w % 2 ^ 28, rberth := v / 2 ^ 56 % 256,
    dst := v % 2 ^ 28,
    ok := w / 2 ^ 52 % 16 == 0 && w / 2 ^ 28 % 16 == 0 && v / 2 ^ 28 % 2 ^ 28 == 0 && w % 512 == 0 && v % 512 == 0 }

def redEntries (t : Nat) (h : RedHead) (s : State) : List RedEntry :=
  (List.range h.ncon).map (fun i => redEntry t (h.first + i) s)

/-! ### The ownership map (R244, R248) -/

structure MapCounts where
  gd : Nat
  gt : Nat
  gp : Nat
  gs : Nat
  ge : Nat
  deriving DecidableEq, Repr

def mapCounts (m : Nat) (s : State) : MapCounts :=
  { ge := objNum m 6 2 none s, gs := objNum m 4 2 none s, gp := objNum m 2 2 none s, gt := objNum m 0 2 none s,
    gd := objNum m 8 2 none s }

def mapDev (m g : Nat) (s : State) : Nat := objNum m (16 + 2 * g) 2 none s

/-- Whether device `dev` holds leaf `l` of some tensor piece under map `m` (R244). -/
def holdsLeaf (m l dev : Nat) (s : State) : Bool :=
  let c := mapCounts m s
  c.gs != 0 &&
  (List.range c.gt).any (fun t => (List.range c.gp).any (fun p => (List.range c.ge).any (fun e =>
    mapDev m ((((l / c.gs * c.gt + t) * c.gp + p) * c.gs + l % c.gs) * c.ge + e) s == dev)))

/-- Whether `n` bytes at a slice offset stay clear of OBJECT extents and of the last extent (R231, R255). -/
def clearRange (b o n : Nat) (s : State) : Bool :=
  o + n ≤ 0x0FF00000 &&
    (piecesOf (b * 0x10000000 + o) n).all (fun p => (ext p.1 s).kind != .object)

/-- The checks of a reduction at the first post that reaches it (R255). -/
def redOk (c r : Nat) (s : State) : Bool :=
  let x := redCtx c s
  let t := x.tableObj.toNat
  let h := redHead t r s
  let es := redEntries t h s
  let m := (member x.dom.toNat s).map.toNat
  h.ok && es.all (fun e => e.ok && e.leaf < x.g.toNat && holdsLeaf m e.leaf (ownDev s).toNat s &&
      clearRange e.berth e.src (65536 * h.ntiles) s && clearRange e.rberth e.dst (65536 * h.ntiles) s) &&
    (es.map (·.leaf)).Nodup

/-- Checks the reductions `lo` to `hi - 1` of context `c` that no post of this frame has reached (R255). -/
def checkReds (c lo : Nat) (n : Nat) (s : State) : State :=
  foldS ((List.range n).map (lo + ·)) (fun r s =>
    let x := redRun c r s
    if x.checked then s
    else if redOk c r s then setRedRun c { x with checked := true } s
    else report (Blk.rc c) Code.redBadEntry (setRedRun c { x with checked := true, bad := true } s)) s

/-- A post by berth `b` (R256). -/
def redPost (b : BerthIdx) (v : W64) (s : State) : State :=
  let c := fld v 56 6
  let count := fld v 0 32
  let x := redCtx c s
  let bad := fld v 62 2 ≠ 0 ∨ fld v 32 23 ≠ 0 ∨ x.en = false ∨ berthDom b s ≠ some x.dom.toNat ∨
    nred x.tableObj.toNat s < count
  if bad then report (Blk.rc c) Code.redPostBad s
  else
    let cur := tget x.counts 0 b.toNat
    if count ≤ cur then s
    else
      let newMarks := if fld v 55 1 = 1 then (List.range (count - cur)).map (fun i => (b.toNat, cur + i)) else []
      let s := setRedCtx c { x with counts := tset x.counts 0 b.toNat count, marks := x.marks ++ newMarks } s
      checkReds c cur (count - cur) s

/-! ### The finish of a frame (R37, R258, R353) -/

/-- Whether a lighter has work. -/
def ltBusy (l : Lighter) : Bool := l.queue != [] || l.run.isSome

/-- Whether a reduction that a berth of this device has posted has not delivered here (R258). One without an entry here
delivers nothing that a frame waits for. -/
def redInFlight (d : Nat) (s : State) : Bool :=
  s.redctx.any (fun e => e.2.en && e.2.dom.toNat == d &&
    (e.2.counts.any (fun p => (List.range p.2).any (fun r =>
      let x := (e.2.runs.find? (fun x => x.red == r)).getD { red := r }
      !x.delivered && (x.bad || (redHead e.2.tableObj.toNat r s).ncon != 0)))))

/-- Whether a sampled audit of the open frame awaits its outcome while the device is SUPERVISED, or has failed (R353). -/
def auditInFlight (d : Nat) (s : State) : Bool :=
  s.health.st == .supervised && ((dom d s).audBad ||
    s.health.captures.any (fun c => c.q.frame.dom.toNat == d && c.q.frame.f == (dom d s).num))

/-- Whether a berth has done its part of the frame: its pilot has executed the frame-end instruction, no lighter works,
no unit has stopped (R37, R72, R109, R134). -/
def berthFinished (be : Berth) : Bool :=
  be.ended && !be.lt.toList.any ltBusy && !be.lt.toList.any (·.stopped) && !be.mxStopped && !be.vxStopped

/-- Whether the frame of domain `d` is finished on this device, its audits apart (R37). -/
def workDone (d : Nat) (s : State) : Bool :=
  (domBerths d s).all (fun b => berthFinished (berth b s)) &&
  (freshOf d s).all (fun x => !cowOn x s) && !redInFlight d s && !s.frameOut.any (fun m => m.run == runId d s)

/-- Whether the frame of domain `d` is finished on this device (R37, R353). -/
def finished (d : Nat) (s : State) : Bool := workDone d s && !auditInFlight d s

/-- The domain is DONE while its open frame is finished here, else OPEN (R37): a message of the frame that the device relays,
or a copy for a write of another device, makes a finished frame unfinished again (log 30). -/
def checkDone (d : Nat) (s : State) : State :=
  if (dom d s).st = .opened ∧ finished d s then modDom d (fun x => { x with st := .done }) s
  else if (dom d s).st = .done ∧ ¬ finished d s then modDom d (fun x => { x with st := .opened }) s
  else s

/-- `n` flits of message `id` of a frame are acknowledged; with the last of them its frame may have finished (R37). -/
def ackFrame (id n : Nat) (s : State) : State :=
  match s.frameOut.find? (fun m => m.id == id) with
  | none => s
  | some m =>
    let left := m.left.getD 0 - n
    let out := s.frameOut.map (fun x => if x.id = id then { x with left := some left } else x)
    checkDone m.run.dom { s with frameOut := out.filter (fun x => x.id != id || left != 0) }

/-- The same for the domain that holds a berth. -/
def checkDoneB (b : BerthIdx) (s : State) : State :=
  match berthDom b s with
  | some d => checkDone d s
  | none => s

end Sys2Proof.Machine
end

