-- ==== Sys2Proof/Machine/Num.lean ====
section
/-! DEFINITION. Formats, exact values, rounding and conversions (R160 to R169), and the draw (R170, R171). -/

namespace Sys2Proof.Machine
open Sys2Proof

/-! ### Formats (R160) -/

/-- What a format has besides finite values. -/
inductive Special where
  /-- Infinities and NaN at the exponent of all ones. -/
  | ieee
  /-- FP8 E4M3: no infinity, NaN at all ones. -/
  | nanOnly
  /-- The MX element formats: neither. -/
  | none
  deriving DecidableEq, Repr

/-- A format of the format table: exponent bits, fraction bits, bias, largest fraction at the largest exponent. -/
structure NumFmt where
  eb : Nat
  mb : Nat
  bias : Nat
  special : Special
  deriving DecidableEq, Repr

def fp64 : NumFmt := ⟨11, 52, 1023, .ieee⟩
def fp32 : NumFmt := ⟨8, 23, 127, .ieee⟩
def bf16 : NumFmt := ⟨8, 7, 127, .ieee⟩
def fp16 : NumFmt := ⟨5, 10, 15, .ieee⟩
def e5m2 : NumFmt := ⟨5, 2, 15, .ieee⟩
def e4m3 : NumFmt := ⟨4, 3, 7, .nanOnly⟩
def e3m2 : NumFmt := ⟨3, 2, 3, .none⟩
def e2m3 : NumFmt := ⟨2, 3, 1, .none⟩
def e2m1 : NumFmt := ⟨2, 1, 1, .none⟩

/-- The element format of a FORMAT code; 0xA is FP64 in vector words (R118). -/
def numFmt (f : Nat) : NumFmt :=
  match f with
  | 0 => fp32
  | 1 => bf16
  | 2 => fp16
  | 3 => e4m3
  | 4 => e5m2
  | 5 => e4m3
  | 6 => e5m2
  | 7 => e3m2
  | 8 => e2m3
  | 9 => e2m1
  | _ => fp64

/-- The exponent of the smallest normal value. -/
def NumFmt.emin (f : NumFmt) : Int := 1 - f.bias

/-- The bits of the largest finite value (R160): the all-ones fraction of the last exponent that holds numbers, but for
E4M3, whose last code is NaN. -/
def NumFmt.maxBits (f : NumFmt) : Nat :=
  match f.special with
  | .ieee => (2 ^ f.eb - 1) * 2 ^ f.mb - 1
  | .nanOnly => 2 ^ (f.eb + f.mb) - 2
  | .none => 2 ^ (f.eb + f.mb) - 1

/-- The canonical NaN (R161). -/
def NumFmt.nan (f : NumFmt) : Nat :=
  match f.special with
  | .ieee => (2 ^ f.eb - 1) * 2 ^ f.mb + 2 ^ (f.mb - 1)
  | _ => 2 ^ (f.eb + f.mb) - 1

def NumFmt.signBit (f : NumFmt) (neg : Bool) : Nat := if neg then 2 ^ (f.eb + f.mb) else 0

/-- The infinity of a sign, where the format has one; E4M3 gives its NaN (the conversion special-value table). -/
def NumFmt.inf (f : NumFmt) (neg : Bool) : Nat :=
  match f.special with
  | .ieee => f.signBit neg + (2 ^ f.eb - 1) * 2 ^ f.mb
  | _ => f.nan

/-! ### Exact values -/

/-- A value: NaN, an infinity, or (−1)^neg times a magnitude. The magnitude is `m * 2 ^ e` exactly, or, with `st`, a
number strictly between `m * 2 ^ e` and `(m + 1) * 2 ^ e` (a quotient or a root that no dyadic number equals). -/
inductive Val where
  | nan
  | inf (neg : Bool)
  | fin (neg : Bool) (m : Nat) (e : Int) (st : Bool)
  deriving DecidableEq, Repr

def Val.isNan (v : Val) : Bool := v == .nan
def Val.isInf (v : Val) : Bool := match v with
  | .inf _ => true
  | _ => false
def Val.isZero (v : Val) : Bool := match v with
  | .fin _ m _ st => m == 0 && !st
  | _ => false
def Val.neg (v : Val) : Bool := match v with
  | .nan => false
  | .inf n => n
  | .fin n _ _ _ => n

def zero : Val := .fin false 0 0 false
def one : Val := .fin false 1 0 false

/-- The value of raw bits (R160, R161). -/
def decodeNum (f : NumFmt) (raw : Nat) : Val :=
  let s := raw / 2 ^ (f.eb + f.mb) % 2 == 1
  let mag := raw % 2 ^ (f.eb + f.mb)
  let e := mag / 2 ^ f.mb
  let m := mag % 2 ^ f.mb
  if f.maxBits < mag then
    if f.special = .ieee ∧ m = 0 then .inf s else .nan
  else if e = 0 then .fin s m (f.emin - f.mb) false
  else .fin s (2 ^ f.mb + m) ((e : Int) - f.bias - f.mb) false

/-- A value times a power of two. -/
def Val.scale (v : Val) (k : Int) : Val := match v with
  | .fin n m e st => .fin n m (e + k) st
  | v => v

/-- The value of an MX element whose block has the E8M0 field `sc` (R163). -/
def mxElem (f : NumFmt) (raw sc : Nat) : Val :=
  if sc = 0xFF then .nan else (decodeNum f raw).scale ((sc : Int) - 127)

def Val.negate (v : Val) : Val := match v with
  | .nan => .nan
  | .inf n => .inf (!n)
  | .fin n m e st => .fin (!n) m e st

def Val.absolute (v : Val) : Val := match v with
  | .nan => .nan
  | .inf _ => .inf false
  | .fin _ m e st => .fin false m e st

/-- `m * 2 ^ e` at the lower exponent `d ≤ e`. -/
def shiftTo (m : Nat) (e d : Int) : Nat := m * 2 ^ (e - d).toNat

/-- The exact sum (R162); NaN for infinities of opposite sign. -/
def vAdd (a b : Val) : Val :=
  match a, b with
  | .nan, _ => .nan
  | _, .nan => .nan
  | .inf x, .inf y => if x = y then .inf x else .nan
  | .inf x, _ => .inf x
  | _, .inf y => .inf y
  | .fin s m e _, .fin t n g _ =>
    let d := min e g
    let x : Int := shiftTo m e d
    let y : Int := shiftTo n g d
    let z := (if s then -x else x) + (if t then -y else y)
    if z = 0 then .fin (s && t && m == 0 && n == 0) 0 0 false
    else .fin (z < 0) z.natAbs d false

/-- The exact product; NaN for an infinity times zero. -/
def vMul (a b : Val) : Val :=
  match a, b with
  | .nan, _ => .nan
  | _, .nan => .nan
  | .inf x, b => if b.isZero then .nan else .inf (x != b.neg)
  | a, .inf y => if a.isZero then .nan else .inf (a.neg != y)
  | .fin s m e _, .fin t n g _ => .fin (s != t) (m * n) (e + g) false

def vSub (a b : Val) : Val := vAdd a b.negate

/-- The exponent down to which quotients and roots are formed: below every format's grid by more than the 32 bits that
stochastic rounding uses (R166). -/
def lowExp : Int := -1400

/-- The exact quotient (R121). A quotient of zero by zero or of infinities is NaN, of a non-zero value by zero an
infinity. -/
def vDiv (a b : Val) : Val :=
  match a, b with
  | .nan, _ => .nan
  | _, .nan => .nan
  | .inf x, .inf _ => let _ := x; .nan
  | .inf x, b => .inf (x != b.neg)
  | a, .inf y => .fin (a.neg != y) 0 0 false
  | .fin s m e _, .fin t n g _ =>
    if n = 0 then (if m = 0 then .nan else .inf (s != t))
    else
      let k := e - g - lowExp
      let (num, den) := if 0 ≤ k then (m * 2 ^ k.toNat, n) else (m, n * 2 ^ (-k).toNat)
      .fin (s != t) (num / den) lowExp (num % den != 0)

/-- The integer square root, bit by bit. -/
def isqrtGo (n : Nat) (k : Nat) (r : Nat) : Nat :=
  match k with
  | 0 => r
  | k + 1 => isqrtGo n k (if (r + 2 ^ k) * (r + 2 ^ k) ≤ n then r + 2 ^ k else r)

def isqrt (n : Nat) : Nat := isqrtGo n (n.log2 / 2 + 1) 0

/-- The exact square root; NaN of a negative value, −0 of −0 (R121, R162). -/
def vSqrt (a : Val) : Val :=
  match a with
  | .nan => .nan
  | .inf n => if n then .nan else .inf false
  | .fin s m e _ =>
    if m = 0 then .fin s 0 0 false
    else if s then .nan
    else
      let k := e - 2 * lowExp
      let x := m * 2 ^ k.toNat
      let r := isqrt x
      .fin false r lowExp (r * r != x)

/-! ### Rounding (R165, R166) -/

inductive Mode where
  | rne | rz
  /-- Stochastic rounding with word 0 of the draw. -/
  | sr (y : Nat)
  deriving DecidableEq, Repr

/-- A rounded magnitude: `n * 2 ^ q` on the grid with an unbounded exponent range, whether it is inexact, and whether the
exact value lies below the smallest normal value. -/
structure RMag where
  n : Nat
  q : Int
  inexact : Bool
  small : Bool

/-- The exponent of the leading bit of `m * 2 ^ e`, `m` not 0. -/
def leadExp (m : Nat) (e : Int) : Int := (m.log2 : Int) + e

/-- Rounds a non-zero magnitude to the grid of `f` extended without an upper bound. -/
def roundMag (f : NumFmt) (mode : Mode) (m : Nat) (e : Int) (st : Bool) : RMag :=
  let small := m == 0 || leadExp m e < f.emin
  let q : Int := (if small then f.emin else leadExp m e) - f.mb
  if q ≤ e then ⟨m * 2 ^ (e - q).toNat, q, st, small⟩
  else
    let sh := (q - e).toNat
    let n := m / 2 ^ sh
    let r := m % 2 ^ sh
    let inexact := r != 0 || st
    let up := inexact && (match mode with
      | .rne => 2 ^ (sh - 1) < r || (r == 2 ^ (sh - 1) && (st || n % 2 == 1))
      | .rz => false
      | .sr y => y < r * 2 ^ 32 / 2 ^ sh)
    ⟨if up then n + 1 else n, q, inexact, small⟩

/-- The bits of `n * 2 ^ q` on the grid of `f`, sign apart. A carry out of the fraction moves to the next exponent. -/
def gridBits (f : NumFmt) (n : Nat) (q : Int) : Nat :=
  ((q + f.mb + f.bias).toNat - 1) * 2 ^ f.mb + n

/-- Flags of an operation: NF, NI, NV, DZ, OF, UF in bits 5 to 0 (R125). -/
abbrev VFlags := BitVec 6

def flag (nf ni nv dz of uf : Bool) : VFlags :=
  BitVec.ofNat 6 (32 * b2n nf + 16 * b2n ni + 8 * b2n nv + 4 * b2n dz + 2 * b2n of + b2n uf)

/-- Rounds a value once to a format that is not MX (R165, R167): the bits and the flags NF, NV, OF, UF. A
value below the smallest normal that rounds up to it sets no UF: the spec leaves that corner open (DESIGN CHOICE, log 41). -/
def roundVal (f : NumFmt) (mode : Mode) (v : Val) : Nat × VFlags :=
  match v with
  | .nan => (f.nan, flag true false false false false false)
  | .inf n => (f.inf n, flag true false (f.special != .ieee) false false false)
  | .fin s m e st =>
    if m = 0 ∧ !st then (f.signBit s, 0)
    else
      let r := roundMag f mode m e st
      let bits := gridBits f r.n r.q
      let tooBig := f.maxBits < bits
      let uf := r.small && r.inexact && decide (r.n < 2 ^ f.mb)
      if tooBig then
        if f.special = .ieee ∧ mode ≠ .rz then (f.inf s, flag true false false false true uf)
        else (f.signBit s + f.maxBits, flag false false false false true uf)
      else (f.signBit s + bits, flag false false false false false uf)

def roundTo (f : NumFmt) (mode : Mode) (v : Val) : Val := decodeNum f (roundVal f mode v).1

/-- rne(x) of R180: the FP32 value nearest to x. -/
def rne32 (v : Val) : Val := roundTo fp32 .rne v

/-! ### MX blocks (R168, R169) -/

/-- Largest exponent of an MX element format. -/
def mxEmax (f : NumFmt) : Int := if f = e4m3 then 8 else if f = e5m2 then 15 else if f = e3m2 then 4 else 2

/-- ⌊log2⌋ of a block's largest magnitude, none where every value is zero. -/
def blockTop (vs : List Val) : Option Int :=
  vs.foldl (fun t v => match v with
    | .fin _ m e st =>
      if m = 0 ∧ !st then t
      else
        let l := if m = 0 then e - 1 else leadExp m e
        (match t with
        | none => some l
        | some x => some (max x l))
    | _ => t) none

/-- One element of an encoded block: its bits, whether it saturated, and whether a non-zero value became zero. -/
def mxElemRound (f : NumFmt) (mode : Mode) (v : Val) : Nat × Bool × Bool :=
  match v with
  | .fin s m e st =>
    if m = 0 ∧ !st then (f.signBit s, false, false)
    else
      let r := roundMag f mode m e st
      let bits := gridBits f r.n r.q
      if f.maxBits < bits then (f.signBit s + f.maxBits, true, false)
      else (f.signBit s + bits, false, bits == 0)
  | _ => (0, false, false)

/-- The exponent of a block before it is held in the range of the scale field (R168). -/
def mxExp (f : NumFmt) (vs : List Val) : Int :=
  match blockTop vs with
  | none => 0
  | some t => t - mxEmax f

/-- mx_encode (R168): the scale field, the element bits and the flags; each element has its own mode, since each draws
for itself under stochastic rounding (R120). -/
def mxEncode (f : NumFmt) (vs : List (Val × Mode)) : Nat × List Nat × VFlags :=
  if vs.any (fun p => p.1.isNan || p.1.isInf) then
    (0xFF, vs.map (fun _ => 0), flag true false (vs.any (fun p => p.1.isInf)) false false false)
  else
    let x0 := mxExp f (vs.map (·.1))
    let x := min (max x0 (-127)) 127
    let els := vs.map (fun p => mxElemRound f p.2 (p.1.scale (-x)))
    ((x + 127).toNat, els.map (·.1),
      flag false false false false (decide (127 < x0) && els.any (fun e => e.2.1)) (els.any (fun e => e.2.2)))

/-! ### Draws (R170, R171) -/

structure Words4 where
  w0 : W32
  w1 : W32
  w2 : W32
  w3 : W32
  deriving DecidableEq, Repr

def Words4.get (k : Words4) (i : Nat) : W32 :=
  match i % 4 with
  | 0 => k.w0
  | 1 => k.w1
  | 2 => k.w2
  | _ => k.w3

def drawRot (r : Nat) : Nat :=
  match r % 4 with
  | 0 => 9
  | 1 => 13
  | 2 => 22
  | _ => 27

/-- Round `r` of the draw. -/
def drawRound (k : Words4) (r : Nat) (x : Words4) : Words4 :=
  let rk := k.get r + BitVec.ofNat 32 (r * 0x5A17C3E5)
  let x0 := x.w0 + (x.w1 ^^^ rk)
  let x2 := x.w2 ^^^ x0.rotateLeft (drawRot r)
  ⟨x.w1, x2, x.w3, x0⟩

/-- The draw function (R170). -/
def draw (k c : Words4) : Words4 :=
  let x := (List.range 12).foldl (fun x r => drawRound k r x) c
  ⟨x.w0 + k.w0, x.w1 + k.w1, x.w2 + k.w2, x.w3 + k.w3⟩

/-- Word 0 of a draw inside a berth for key `sk`, use `use`, element (i, j) and ordinal `n` (R171). -/
def berthDraw (sk : W64) (use : W32) (i j : Nat) (n : W32) : Nat :=
  (draw ⟨sk.extractLsb' 0 32, sk.extractLsb' 32 32, use, 0⟩ ⟨w32 (128 * i + j), n, 0, 0⟩).w0.toNat

end Sys2Proof.Machine
end

