-- ==== Sys2Proof/Machine/Tiles.lean ====
section
/-! DEFINITION. Tile registers, accumulation groups and the layout of tiles (R60 to R62, R88). -/

namespace Sys2Proof.Machine
open Sys2Proof

/-- Bits of an element (the tile layout table); 64 for FP64, format code 0xA of the vector words (R118). -/
def elemBits (f : Nat) : Nat :=
  match f with
  | 0 => 32
  | 1 => 16
  | 2 => 16
  | 3 => 8
  | 4 => 8
  | 5 => 8
  | 6 => 8
  | 7 => 6
  | 8 => 6
  | 9 => 4
  | 10 => 64
  | _ => 8

/-- The row size R of the tile layout table; 512 bytes of 64 elements for FP64 (R118). -/
def rowSize (f : Nat) : Nat := if f = 10 then 512 else 128 * elemBits f / 8

/-- Data bytes and scale bytes of a tile (the tile layout table). -/
def dataBytes (f : Nat) : Nat := 128 * rowSize f
def scaleBytes (f : Nat) : Nat := if isMxFmt f then 512 else 0
where isMxFmt (f : Nat) : Bool := 5 ≤ f && f ≤ 9
def tileBytes (f : Nat) : Nat := dataBytes f + scaleBytes f

/-- Tiles in an extent (the tiles-per-extent table of R226). -/
def tilesPerExtent (f : Nat) : Nat := extBytes / tileBytes f

/-- The bit offset of element (i, j) of a tile of format `f` from its base (R60, R61): MXFP6 and MXFP4 elements are
packed within their row, least significant first. -/
def elemBitOff (f i j : Nat) : Nat := 8 * rowSize f * i + elemBits f * j

/-- The byte offset, within a tile, of the E8M0 scale of element (i, j): axis COL when `col` (R62). -/
def scaleOff (f : Nat) (col : Bool) (i j : Nat) : Nat :=
  dataBytes f + (if col then 128 * (i / 32) + j else 4 * i + j / 32)

/-! ### Banks -/

/-- Byte `o` of a bank; `base` is the address its free bytes are read at (log 5). No byte lies beyond the register's 64 KiB:
what a read there gives is open. -/
def bankByte (k : Bank) (base o : Nat) : Byte :=
  if 65536 ≤ o then Config.freeByte 0 (base + o)
  else
    match k.fill with
    | none => tget k.cells 0 o
    | some n => tget k.cells (Config.freeByte n (base + o)) o

/-- `n` bytes of a bank from offset `o`. -/
def bankBytes (k : Bank) (base o n : Nat) : List Byte := (List.range n).map (fun i => bankByte k base (o + i))

/-- Writes bytes from offset `o` of a bank of 64 KiB. -/
def putBank (k : Bank) (o : Nat) (bs : List Byte) : Bank :=
  let bs := bs.take (65536 - o)
  let es := (bs.zipIdx).map (fun p => (o + p.2, p.1))
  let es := if k.fill = none then es.filter (fun e => e.2 ≠ 0) else es
  { k with cells := tsplice k.cells o bs.length es }

/-- The address of a bank for free bytes: tile registers are banks 0 to 15 of a berth, groups 16 to 23 (log 5). -/
def bankBase (b : BerthIdx) (i : Nat) : Nat := b.toNat * 0x1000000 + i * 0x10000

def tile (be : Berth) (t : Nat) : Bank := tget be.tiles {} t
def setTile (t : Nat) (k : Bank) (be : Berth) : Berth := { be with tiles := tset be.tiles {} t k }
def group (be : Berth) (g : Nat) : Group := tget be.groups {} g
def setGroup (g : Nat) (k : Group) (be : Berth) : Berth := { be with groups := tset be.groups {} g k }

/-- Bytes of tile register `t` of berth `b`. -/
def tileData (b : BerthIdx) (t o n : Nat) (s : State) : List Byte :=
  bankBytes (tile (berth b s) t) (bankBase b t) o n

/-- Stores bytes in tile register `t` of berth `b`. -/
def putTile (b : BerthIdx) (t o : Nat) (bs : List Byte) (s : State) : State :=
  modBerth b (fun be => setTile t (putBank (tile be t) o bs) be) s

/-- Bytes of group `g` read as an FP32 tile (R88). -/
def groupData (b : BerthIdx) (g o n : Nat) (s : State) : List Byte :=
  bankBytes (group (berth b s) g).bank (bankBase b (16 + g)) o n

def putGroup (b : BerthIdx) (g o : Nat) (bs : List Byte) (s : State) : State :=
  modBerth b (fun be => let x := group be g; setGroup g { x with bank := putBank x.bank o bs } be) s

/-- The first `n` elements of a row as raw bits (R60, R61). -/
def rowRaw (f n : Nat) (row : List Byte) : List Nat :=
  let x := leVal row
  (List.range n).map (fun j => x / 2 ^ (elemBits f * j) % 2 ^ elemBits f)

/-- The bytes of a row of 128 elements given as raw bits (R60, R61). -/
def packRow (f : Nat) (els : List Nat) : List Byte :=
  leBytes (rowSize f) (els.foldr (fun e a => e % 2 ^ elemBits f + 2 ^ elemBits f * a) 0)

/-- Transposes a tile of format `f` whose block axis is COL when `col` (R64): element (i, j) moves to (j, i), and each
scale to the place that the opposite axis gives. -/
def transposeTile (f : Nat) (col : Bool) (data : List Byte) : List Byte :=
  let src := (List.range 128).map (fun i => rowRaw f 128 ((data.drop (rowSize f * i)).take (rowSize f)))
  let rows := (List.range 128).flatMap (fun i => packRow f (src.map (fun r => r.getD i 0)))
  if scaleBytes f = 0 then rows
  else
    -- scale byte k of the destination, whose axis is the opposite one
    rows ++ (List.range 512).map (fun k =>
      let (i, j) := if col then (k / 4, 32 * (k % 4)) else (32 * (k / 128), k % 128)
      data.getD (scaleOff f col j i) 0)

/-! ### Digests (R73) -/

/-- One byte into a CRC-64/ECMA-182 register, most significant bit first. -/
def crcByte (c : W64) (b : Byte) : W64 :=
  let c := c ^^^ (b.zeroExtend 64 <<< 56)
  (List.range 8).foldl (fun c _ => if c.msb then (c <<< 1) ^^^ 0x42F0E1EBA9EA3693 else c <<< 1) c

/-- CRC-64/ECMA-182 of bytes. -/
def crc64 (bs : List Byte) : W64 := bs.foldl crcByte 0

end Sys2Proof.Machine
end

