-- ==== Sys2Proof/Machine/Rymouc.lean ====
section
/-! DEFINITION. The Rymouc order (R174 to R177): the value of a block, the running sum, the reduction tree. -/

namespace Sys2Proof.Machine
open Sys2Proof

/-- Flags of a group: NF, NI, NV, OF in bits 3 to 0 (R102). -/
abbrev GFlags := BitVec 4

def gflag (nf ni nv of : Bool) : GFlags := BitVec.ofNat 4 (8 * b2n nf + 4 * b2n ni + 2 * b2n nv + b2n of)

/-- OF of a rounding, as a group flag. -/
def gOver (fl : VFlags) : GFlags := gflag false false false (fl.getLsbD 1)

/-- The leading exponent of the non-zero finite products. -/
def topExp (ps : List Val) : Option Int :=
  ps.foldl (fun t p => match p with
    | .fin _ m e _ => if m = 0 then t else
        (match t with
        | none => some (leadExp m e)
        | some x => some (max x (leadExp m e)))
    | _ => t) none

/-- A product on the grid of weight 2^q, lower bits dropped. -/
def alignTo (q : Int) (p : Val) : Int :=
  match p with
  | .fin s m e _ =>
    let t : Int := if q ≤ e then m * 2 ^ (e - q).toNat else m / 2 ^ (q - e).toNat
    if s then -t else t
  | _ => 0

/-- block_sum (R175) with the flags of R102: 32 element pairs and the two scale fields. -/
def blockSum (ps : List (Val × Val)) (sa sb : Nat) : Val × GFlags :=
  if sa = 0xFF ∨ sb = 0xFF then (.nan, gflag false true false false)
  else
    let ni := ps.any (fun p => p.1.isNan || p.2.isNan)
    let qs := ps.map (fun p => (p, vMul p.1 p.2))
    let infs := (qs.map (·.2)).filter Val.isInf
    let nv := qs.any (fun q => q.2.isNan && !q.1.1.isNan && !q.1.2.isNan) ||
      (infs.any Val.neg && infs.any (fun v => !v.neg))
    if ni || nv then (.nan, gflag false ni nv false)
    else
      match infs with
      | v :: _ => (v, 0)
      | [] =>
        let prods := qs.map (·.2)
        match topExp prods with
        | none => (.fin (prods.all Val.neg) 0 0 false, 0)
        | some top =>
          let q := top - 40
          let acc := (prods.map (alignTo q)).foldl (· + ·) 0
          if acc = 0 then (zero, 0)
          else
            let (bits, fl) := roundVal fp32 .rne (.fin (acc < 0) acc.natAbs (q + sa + sb - 254) false)
            (decodeNum fp32 bits, gOver fl)

/-- add_block (R176): a cell's new bits. -/
def addBlock (cell : Nat) (v : Val) (wide16 : Bool) (sk : W64) (i j : Nat) (n : W32) : Nat × GFlags :=
  let c := decodeNum fp32 cell
  let x := vAdd c v
  let nv := gflag false false (x.isNan && !c.isNan && !v.isNan) false
  if wide16 then
    let (b, fl) := roundVal bf16 (.sr (berthDraw sk 1 i j n)) x
    (b * 65536, nv ||| gOver fl)
  else
    let (b, fl) := roundVal fp32 .rne x
    (b, nv ||| gOver fl)

/-- A 32-element block of an operand with its scale field, 0x7F where the format has no scales (R86). -/
structure OpBlk where
  els : List Val
  sc : Nat

/-- Adds the blocks of an A row and a B column to a cell, block k with ordinal `n + k` (R92, R93). -/
def addBlocks (wide16 : Bool) (sk : W64) (i j : Nat) (n : W32) (ab : List (OpBlk × OpBlk)) (cell : Nat) :
    Nat × GFlags :=
  match ab with
  | [] => (cell, 0)
  | (a, b) :: r =>
    let (v, f1) := blockSum (a.els.zip b.els) a.sc b.sc
    let (c, f2) := addBlock cell v wide16 sk i j n
    let (c, f3) := addBlocks wide16 sk i j (n + 1) r c
    (c, f1 ||| f2 ||| f3)

/-- Splits a list into pieces of 32. -/
def chunks32 {α : Type} (k : Nat) (l : List α) : List (List α) :=
  match k with
  | 0 => []
  | k + 1 => l.take 32 :: chunks32 k (l.drop 32)

/-- The blocks of an A row: raw elements and one scale byte per block. -/
def rowBlocks (f k : Nat) (raw : List Nat) (scs : List Nat) : List OpBlk :=
  ((chunks32 k raw).zip scs).map (fun p => ⟨p.1.map (decodeNum (numFmt f)), p.2⟩)

/-- rymouc_reduce (R177) over a list of leaves of length 2^d; absent leaves are skipped. `add` is the node. -/
def treeGo {α : Type} (add : α → α → α) (d : Nat) (l : List (Option α)) : Option α :=
  match d with
  | 0 => (l.head?).getD none
  | d + 1 =>
    let h := 2 ^ d
    match treeGo add d (l.take h), treeGo add d (l.drop h) with
    | none, r => r
    | l, none => l
    | some x, some y => some (add x y)

/-- The depth of the tree over `g` leaves: the least d with 2^d ≥ g. -/
def treeDepth (g : Nat) : Nat := if g ≤ 1 then 0 else (g - 1).log2 + 1

/-- A node of a reduction: the rounded sum, with the flags gathered below it (R125, R177). -/
def nodeAdd (f : NumFmt) (x y : Val × VFlags) : Val × VFlags :=
  let s := vAdd x.1 y.1
  let nv := flag false false (s.isNan && !x.1.isNan && !y.1.isNan) false false false
  let (b, fl) := roundVal f .rne s
  (decodeNum f b, x.2 ||| y.2 ||| nv ||| (fl &&& 0x1F))

end Sys2Proof.Machine
end

