-- ==== Sys2Proof/Machine/Audit.lean ====
section
/-! DEFINITION. Audit sampling, capture, recompute and outcomes (R341 to R353). -/

namespace Sys2Proof.Machine
open Sys2Proof

/-! ### Sampling (R341, R342) -/

/-- The least of two codes, 0 standing for none. -/
def minCode (a b : Nat) : Nat := if a = 0 then b else if b = 0 then a else min a b

/-- The effective code of domain `d` at an opening tick (R341). -/
def auditCode (d : Nat) (s : State) : Nat :=
  let dev := if s.health.st = .supervised then 1 else if s.health.st = .retired then 0 else s.health.rate.toNat
  let objs := s.mem.objs.foldl (fun c e =>
    if e.2.valid && e.2.writer.toNat == d then minCode c e.2.audit.toNat else c) 0
  if fld s.health.auditor 0 16 = 0xFFFF then 0
  else minCode dev (minCode (fld s.health.audFd (4 * d) 4) objs)

/-- The sampling register at an opening tick (R342). -/
def auditSeed (b : BerthIdx) (f : W64) (s : State) : W32 :=
  let z := s.health.seed ^^^ w32 (b.toNat * 0x9E3779B9) ^^^ f.extractLsb' 0 32
  if z = 0 then 1 else z

/-- One step of the sampling register. -/
def auditStep (z : W32) : W32 := (z >>> 1) ^^^ (if z.getLsbD 0 then 0x80200003 else 0)

/-- The five modes of R345: pair class and group width. -/
def rowsPerBand (mode : Nat) : Nat :=
  match mode with
  | 0 => 2
  | 1 => 4
  | 2 => 4
  | 3 => 8
  | _ => 8

/-- The band of a temperature (R345). -/
def bandOf (t : Int) : Nat :=
  if t < 45 then 0 else if t < 55 then 1 else if t < 65 then 2 else if t < 75 then 3
  else if t < 85 then 4 else if t < 95 then 5 else if t < 100 then 6 else 7

/-! ### Recompute (R344) -/

/-- Pieces of `n` bytes. -/
def pieceBytes (bs : List Byte) (n i : Nat) : List Byte := (bs.drop (n * i)).take n

/-- The new cells of a slice: its rows of 32 cells. -/
def sliceCells (q : AudReq) : List (List Nat) :=
  let fa := q.fa.toNat
  let fb := q.fb.toNat
  let k := q.kblk.toNat
  let aRow (r : Nat) : List OpBlk :=
    rowBlocks fa k (rowRaw fa (32 * k) (pieceBytes q.aRows (4 * k * elemBits fa) r))
      ((pieceBytes q.aScales 4 r).map BitVec.toNat)
  let bRows := (List.range (32 * k)).map (fun r => rowRaw fb 32 (pieceBytes q.bRows (4 * elemBits fb) r))
  let bCol (c : Nat) : List OpBlk :=
    rowBlocks fb k (bRows.map (fun r => r.getD c 0))
      ((List.range k).map (fun x => (q.bScales.getD (32 * x + c) 0).toNat))
  (List.range q.height.toNat).map (fun r => (List.range 32).map (fun c =>
    (addBlocks q.wide16 q.sk (q.row0.toNat + r) (32 * q.block.toNat + c) q.counter ((aRow r).zip (bCol c))
      (q.cells.getD (32 * r + c) 0).toNat).1))

/-- The digest over a slice's cells after the operation (R343). -/
def cellDigest (cells : List (List Nat)) : W64 := crc64 (cells.flatMap (fun r => r.flatMap (leBytes 4)))

/-- A berth that may serve a recompute: pilot, engines and lighters idle, not quiesced (R344, R413). -/
def berthIdle (b : BerthIdx) (s : State) : Bool :=
  let be := berth b s
  be.pl == .idle && be.mxq == [] && be.closing == [] && be.vxq == [] && !be.lt.toList.any ltBusy &&
    !(hdr (Pg.berth b) s).quiesce && (hdr (Pg.berth b) s).enable

/-- Recomputes a slice on berth `b`: its tiles t14 and t15 and its group a7, opened with KEEP, hold the slice at its
original rows and columns (R344). The group stays OPEN, and a further recompute on the berth opens it anew: R344 does not say
whether it is closed (DESIGN CHOICE, log 43). The house is charged the KBLK cycles of one band (R271, R286). -/
def recompute (q : AudReq) (b : BerthIdx) (s : State) : W64 × State :=
  let fa := q.fa.toNat
  let fb := q.fb.toNat
  let k := q.kblk.toNat
  let cells := sliceCells q
  let rows := List.range q.height.toNat
  let s := foldS rows (fun r s => putTile b 14 (rowSize fa * (q.row0.toNat + r)) (pieceBytes q.aRows (4 * k * elemBits fa) r) s) s
  let s := if isMx fa then
      foldS rows (fun r s => putTile b 14 (dataBytes fa + 4 * (q.row0.toNat + r)) (pieceBytes q.aScales 4 r) s) s else s
  let s := foldS (List.range (32 * k)) (fun r s =>
    putTile b 15 (rowSize fb * r + 4 * elemBits fb * q.block.toNat) (pieceBytes q.bRows (4 * elemBits fb) r) s) s
  let s := if isMx fb then
      foldS (List.range k) (fun x s => putTile b 15 (dataBytes fb + 128 * x + 32 * q.block.toNat) (pieceBytes q.bScales 32 x) s) s
    else s
  let s := foldS rows (fun r s =>
    putGroup b 7 (512 * (q.row0.toNat + r) + 128 * q.block.toNat) ((cells.getD r []).flatMap (leBytes 4)) s) s
  let s := addCtr house.toNat 1 k s
  let s := addAct house.toNat (k * (s.acct.w.toList.getD (1 + q.load.toNat / 4) 0).toNat) s
  let s := modBerth b (fun be => setGroup 7 { group be 7 with
    opened := true, w16 := q.wide16, key := q.sk, ctr := q.counter + w32 k, flags := 0 } be) s
  (cellDigest cells, s)

/-! ### Messages (R343) -/

def audReqBody (q : AudReq) : List Byte :=
  tagBytes q.frame ++ [q.berth, BitVec.ofNat 8 (q.group.toNat + 8 * b2n q.wide16),
    BitVec.ofNat 8 (q.fa.toNat + 16 * q.fb.toNat), BitVec.ofNat 8 (q.kblk.toNat + 16 * q.block.toNat), q.row0, q.height] ++
  leBytes 8 q.sk.toNat ++ leBytes 4 q.counter.toNat ++ [q.load, q.temp, 0, 0] ++ leBytes 8 q.digest.toNat ++
  q.aRows ++ q.aScales ++ q.bRows ++ q.bScales ++ q.cells.flatMap (fun c => leBytes 4 c.toNat)

def audRespBody (q : AudReq) (status : W16) (a1 : W64) (a2 : Option W64) : List Byte :=
  pad8 (tagBytes q.frame ++ [q.berth, 0] ++ leBytes 2 status.toNat ++ [0, 0] ++ leBytes 8 a1.toNat ++
    leBytes 8 (a2.getD 0).toNat ++ [BitVec.ofNat 8 (b2n a2.isSome)])

/-- The bytes of the body of an AUD_REQ, behind its kind header (R343). -/
def audBodyLen (q : AudReq) : Nat := (q.aRows ++ q.aScales ++ q.bRows ++ q.bScales).length + 4 * q.cells.length

def sendAudReq (q : AudReq) (dev : W16) (s : State) : State :=
  sendHouse (audBodyLen q) { dst := dev, kind := 0xA0, tag := q.tag, body := audReqBody q } s

def sendAudResp (q : AudReq) (status : W16) (a1 : W64) (a2 : Option W64) (s : State) : State :=
  sendHouse 0 { dst := q.src, kind := 0xA1, tag := q.tag, body := audRespBody q status a1 a2 } s

/-- The lowest tag from 1,024 on that no request of this device uses; those below are the bridge's (R325, R332; log 8). -/
def newTag (s : State) : BitVec 14 :=
  let used := s.reqs.map (·.tag) ++ s.health.captures.map (·.tag)
  BitVec.ofNat 14 (1024 + ((List.range 15360).find? (fun t => !used.contains (BitVec.ofNat 14 (1024 + t)))).getD 0)

/-! ### Outcomes (R340, R346 to R350, R353) -/

inductive AudOutcome where
  | pass | auditorTransient | transient | lasting | inconclusive | skipped
  deriving DecidableEq, Repr

/-- An audit record (TYPE 0x2) with its outcome code (R339). -/
def auditRecord (out : Byte) (q : AudReq) (auditor : W16) (s : State) : List Byte :=
  leBytes 8 (now s) ++ [0x2, out, q.berth, q.load, q.temp, BitVec.ofNat 8 (bandOf q.temp.toInt)] ++
    leBytes 2 auditor.toNat ++ leBytes 8 q.frame.f.toNat ++
    [BitVec.ofNat 8 q.frame.dom.toNat, q.row0, BitVec.ofNat 8 q.block.toNat] ++ List.replicate 5 0

def addDecayed (i : Nat) (s : State) : State :=
  setHealth { s.health with cnt := tset s.health.cnt 0 i (satAdd (healthCnt i s) 256) } s

/-- A cluster among `n` decayed values from index `base`: the value that holds three quarters of at least 640 (R350). -/
def cluster (base n : Nat) (s : State) : Option Nat :=
  let v (i : Nat) : Nat := (healthCnt (base + i) s).toNat
  let total := ((List.range n).map v).foldl (· + ·) 0
  if 640 ≤ total then (List.range n).find? (fun i => 3 * total ≤ 4 * v i) else none

/-- TJ_CEIL of a band (R345). -/
def tjCeil (band : Nat) : Option (BitVec 8) :=
  match band with
  | 4 => some 70
  | 5 => some 80
  | 6 => some 90
  | 7 => some 95
  | _ => none

/-- The restrictions that the clusters present now ask for (R350). -/
def restriction (s : State) : Option Restriction :=
  let b := cluster 0xC0 8 s
  let l := cluster 0xD0 20 s
  if b = none ∧ l = none then none
  else some { band := b.isSome, load := l.isSome, ceil := b.bind tjCeil
              noDouble := (match l with
                | some l => l / 4 == 3 || l / 4 == 4
                | none => false) }

/-- Restrictions take effect (R350, R351): TJ_CEIL at once, the lower of two (DEDUCED, log 25); the cap and NO_DOUBLE are
pending where they are not in force. -/
def restrict (r : Restriction) (s : State) : State :=
  let h := s.health
  setHealth { h with
    tjCeil := match r.ceil with
      | some c => if c.ult h.tjCeil then c else h.tjCeil
      | none => h.tjCeil
    capPending := h.capPending || !h.cap || (r.noDouble && !h.noDouble)
    pendNoDouble := h.pendNoDouble || (r.noDouble && !h.noDouble) } s

/-- Restrictions of two outcomes before one base tick. -/
def Restriction.join (x y : Restriction) : Restriction :=
  { band := x.band || y.band, load := x.load || y.load, noDouble := x.noDouble || y.noDouble
    ceil := match x.ceil, y.ceil with
      | some a, some b => some (if a.ult b then a else b)
      | some a, none => some a
      | none, c => c }

/-- The clusters found at a LASTING outcome: a HEALTHY device enters RESTRICTED at the next base tick, with the
restrictions; a device in another state keeps its state and takes them now (R350, R351). -/
def takeClusters (s : State) : State :=
  match restriction s with
  | none => s
  | some r =>
    let h := s.health
    if h.st = .healthy then
      setHealth { h with restrictNext := some (match h.restrictNext with
        | some x => x.join r
        | none => r) } s
    else restrict r s

/-- What an audit outcome LASTING does on the sampling device (R346 to R350). -/
def auditLasting (q : AudReq) (s : State) : State :=
  let band := bandOf q.temp.toInt
  let h := s.health
  let s := setHealth { h with lastBand := BitVec.ofNat 8 band, lastLoad := q.load } s
  let s := addDecayed (0xC0 + band) (addDecayed (0xD0 + q.load.toNat) s)
  let s := report ⟨Pg.health, 0⟩ Code.audLasting (addPoints 8 s)
  let s := if s.health.st = .supervised ∨ s.health.st = .restricted then setCandidate s else s
  takeClusters s

/-- Counts and records the outcome of an audit of this device (R340, R346). -/
def auditCount (o : AudOutcome) (q : AudReq) (auditor : W16) (s : State) : State :=
  let band := bandOf q.temp.toInt
  let rep := fun c s => report ⟨Pg.health, 0⟩ c s
  match o with
  | .pass => countHealth (0x20 + band) (countHealth (0x40 + q.load.toNat) s)
  | .auditorTransient => pushRecord (auditRecord 1 q auditor s) (countHealth 0xA2 s)
  | .transient =>
    pushRecord (auditRecord 2 q auditor s)
      (countHealth (0x28 + band) (countHealth (0x60 + q.load.toNat) (countHealth 0x0B s)))
  | .lasting =>
    auditLasting q (pushRecord (auditRecord 3 q auditor s)
      (countHealth (0x30 + band) (countHealth (0x80 + q.load.toNat) (countHealth 0x1B s))))
  | .inconclusive => rep Code.audInconclusive (pushRecord (auditRecord 4 q auditor s) (countHealth 0xA0 s))
  | .skipped =>
    let s := countHealth 0xA1 s
    if s.health.st = .supervised then rep Code.audSkipped (pushRecord (auditRecord 5 q auditor s) s) else s

/-- The frame that an audit sampled (R353): a failing outcome keeps it from finishing while the device is SUPERVISED. -/
def auditFrame (o : AudOutcome) (q : AudReq) (s : State) : State :=
  let d := q.frame.dom.toNat
  let good := o = .pass ∨ o = .auditorTransient
  if ¬ good ∧ s.health.st = .supervised ∧ isOpen d s ∧ (dom d s).num = q.frame.f ∧
      (dom d s).replays = q.frame.replays then
    modDom d (fun x => { x with audBad := true }) s
  else checkDone d s

/-- An audit of this device ends; the errors it leaves on the HEALTH page are of one cycle (R410). -/
def auditEnd (c : Capture) (o : AudOutcome) (s : State) : State :=
  let t := setHealth { s.health with captures := s.health.captures.filter (fun x => x.tag != c.tag) } s
  firstOfCycle s (auditFrame o c.q (auditCount o c.q c.auditor t))

/-- A request that got no answer or AUD_SKIPPED goes to ALT once; else the audit is SKIPPED (R344). -/
def auditResend (c : Capture) (s : State) : State :=
  let alt := w16 (fld s.health.auditor 16 16)
  if c.alt ∨ alt = 0xFFFF ∨ alt = w16 (fld s.health.auditor 0 16) then auditEnd c .skipped s
  else
    let s := setHealth { s.health with captures := s.health.captures.map (fun x =>
      if x.tag = c.tag then { x with alt := true, auditor := alt } else x) } s
    sendAudReq c.q alt s

def findCapture (tag : BitVec 14) (s : State) : Option Capture :=
  s.health.captures.find? (fun c => c.tag == tag)

/-! ### Capture (R343, R345) -/

/-- The pier die that serves a berth: 0 for PD0 (R13). -/
def pierOf (b : BerthIdx) : Nat := b.toNat / 128

/-- What an operation gives the capture: the pair, the group, the rows used, the group before the operation and the bytes
of the operands and of the cells before and after. -/
structure AudOp where
  p : MmPair
  g : BitVec 3
  mrows : Nat
  mode : Nat
  grp : Group
  a : Nat → Nat → List Byte
  b : Nat → Nat → List Byte
  before : Nat → Nat → List Byte
  after : Nat → Nat → List Byte

/-- The slice of a selected operation (R343): the rows of the band, the columns of the block. A row of the band at or
beyond MROWS takes no part in the operation and its cells are not written; the slice gives it an A row of zeros, and the
digest O takes the cells that such a row makes, so that a recompute, which is told no MROWS, agrees (DESIGN CHOICE, log
25). -/
def sliceOf (b : BerthIdx) (frame : FrameTag) (z : W32) (o : AudOp) (activity : Nat) (tag : BitVec 14) (s : State) :
    AudReq :=
  let rpb := rowsPerBand o.mode
  let band := z.toNat / 65536 % cdiv o.mrows rpb
  let block := z.toNat / 2 ^ 24 % 4
  let row0 := band * rpb
  let h := rpb
  let used (r : Nat) : Bool := row0 + r < o.mrows
  let fa := o.p.fa.toNat
  let fb := o.p.fb.toNat
  let k := o.p.kblk.toNat
  let cellsOf (f : Nat → Nat → List Byte) : List (List Nat) := (List.range h).map (fun r =>
    let bs := f (512 * (row0 + r) + 128 * block) 128
    (List.range 32).map (fun c => leAt bs (4 * c) 4))
  let q : AudReq := {
    src := ownDev s, tag := tag, frame := frame, berth := b, group := o.g
    wide16 := o.grp.w16, fa := o.p.fa, fb := o.p.fb, kblk := o.p.kblk, block := BitVec.ofNat 2 block
    row0 := BitVec.ofNat 8 row0, height := BitVec.ofNat 8 h, sk := o.grp.key, counter := o.grp.ctr
    load := BitVec.ofNat 8 (4 * o.mode + activity), temp := byteOfInt (tempC (b.toNat / 64) s)
    digest := 0
    aRows := (List.range h).flatMap (fun r =>
      if used r then o.a (rowSize fa * (row0 + r)) (4 * k * elemBits fa) else List.replicate (4 * k * elemBits fa) 0)
    aScales := (List.range h).flatMap (fun r =>
      if isMx fa && used r then o.a (dataBytes fa + 4 * (row0 + r)) 4 else List.replicate 4 0x7F)
    bRows := (List.range (32 * k)).flatMap (fun r => o.b (rowSize fb * r + 4 * elemBits fb * block) (4 * elemBits fb))
    bScales := (List.range k).flatMap (fun x =>
      if isMx fb then o.b (dataBytes fb + 128 * x + 32 * block) 32 else List.replicate 32 0x7F)
    cells := ((cellsOf o.before).flatten).map w32 }
  let idle := sliceCells q
  { q with digest := cellDigest ((cellsOf o.after).zipIdx.map (fun p => if used p.2 then p.1 else idle.getD p.2 [])) }

/-- One tile operation of berth `b` passes the sampling register (R342); a selected one is captured and sent, or SKIPPED
where its pier die already stages 64 slices (R343). The activity of R345 is a free value (log 6). -/
def sampleOp (b : BerthIdx) (o : AudOp) (s : State) : State :=
  match berthDom b s with
  | none => s
  | some d =>
    let c := (dom d s).audCode.toNat
    if c = 0 then s
    else
      let z := auditStep (berth b s).audZ
      let s := modBerth b (fun be => { be with audZ := z }) s
      if z.toNat % 2 ^ (c + 5) ≠ 0 then s
      else
        let (k, s) := nextFree s
        let tag := newTag s
        let frame : FrameTag := ⟨(dom d s).num, (dom d s).replays, false, BitVec.ofNat 4 d⟩
        let q := sliceOf b frame z o (Config.freeNat k % 4) tag s
        let dev := w16 (fld s.health.auditor 0 16)
        if 64 ≤ (s.health.captures.filter (fun c => pierOf c.q.berth == pierOf b)).length then
          auditFrame .skipped q (auditCount .skipped q dev s)
        else
          sendAudReq q dev (setHealth { s.health with
            captures := s.health.captures ++ [{ tag := tag, q := q, auditor := dev }] } s)

end Sys2Proof.Machine
end

