-- ==== Sys2Proof/Machine/Descriptor.lean ====
section
/-! DEFINITION. Lighter descriptors (R71, R72), the ranges and registers that queued work uses, the scoreboard (R56) and
the slice interlock (R58). -/

namespace Sys2Proof.Machine
open Sys2Proof

/-! ### Descriptor fields (R71) -/

def QEnt.op (q : QEnt) : Nat := fld q.a 0 4
def QEnt.srcKind (q : QEnt) : Nat := fld q.a 4 4
def QEnt.dstKind (q : QEnt) : Nat := fld q.a 8 4
def QEnt.fmt (q : QEnt) : Nat := fld q.a 12 4
def QEnt.axis (q : QEnt) : Bool := q.a.getLsbD 17
def QEnt.transpose (q : QEnt) : Bool := q.a.getLsbD 18
def QEnt.check (q : QEnt) : Bool := q.a.getLsbD 19
def QEnt.len64 (q : QEnt) : Nat := fld q.a 20 19
def QEnt.chan (q : QEnt) : BitVec 8 := BitVec.ofNat 8 (fld q.a 40 8)
def QEnt.dev (q : QEnt) : W16 := w16 (fld q.a 48 16)

/-- The bytes a descriptor moves: LEN64 × 64 for LINEAR, IMEM_LOAD and a SEND of bytes, else a tile. -/
def QEnt.size (q : QEnt) : Nat :=
  if q.op = 2 ∨ q.op = 5 ∨ (q.op = 3 ∧ q.len64 ≠ 0) then 64 * q.len64 else tileBytes q.fmt

/-- Whether a kind is memory of this device or of a peer. -/
def memKind (k : Nat) : Bool := 2 ≤ k && k ≤ 5

/-- The kinds that an operation allows at its source and its destination (R71). R71 lists no source kinds for IMEM_LOAD: it takes
the memory kinds 0x2 to 0x5, as its description loads instructions from memory, and no tile register (DESIGN CHOICE, log 36). -/
def kindsOk (op src dst : Nat) : Bool :=
  match op with
  | 1 => src ≤ 5 && (dst = 0 || memKind dst)
  | 2 => src ≤ 5 && (dst = 0 || memKind dst)
  | 3 => src = 0 && dst = 7
  | 4 => src = 7 && dst = 0
  | 5 => memKind src && dst = 6
  | _ => false

/-- The layout of a source or destination word of a kind (R71). -/
def wordOk (k : Nat) (w : W64) : Bool :=
  match k with
  | 0 => w.toNat < 16
  | 1 => w.toNat < 8
  | 6 => true
  | 7 => w = 0
  | _ => w.toNat < 2 ^ 48

/-- A transposed move runs between a tile register and SRAM, or between tile registers (R64, R72, R78). -/
def transposeOk (q : QEnt) : Bool :=
  !q.transpose || (q.op == 1 && ((q.srcKind == 0 && (q.dstKind == 0 || q.dstKind == 2 || q.dstKind == 3)) ||
    (q.dstKind == 0 && (q.srcKind == 2 || q.srcKind == 3))))

/-- LT_BAD_DESC of R72. -/
def QEnt.bad (q : QEnt) : Bool :=
  q.a.getLsbD 39 || q.a.getLsbD 16 || 9 < q.fmt || !kindsOk q.op q.srcKind q.dstKind ||
    (q.srcKind == 5 && q.dstKind == 5) || !transposeOk q || !wordOk q.srcKind q.b || !wordOk q.dstKind q.c ||
    (q.srcKind == 1 && q.fmt != 0)

/-- Whether an address lies in the tier that a kind names, for `n` bytes (R72, R187). -/
def tierOk (b : BerthIdx) (k a n : Nat) (dev : W16) (s : State) : Bool :=
  match k with
  | 2 => a / 0x10000000 = b.toNat && a < 0x1000000000
  | 3 => a / 0x10000000 ≠ b.toNat && a + n ≤ 0x1000000000 && a < 0x1000000000
  | 4 => tierOf a s = .lpx && a + n ≤ 0x03C200000000
  | 5 => dev ≠ ownDev s
  | _ => true

/-- Whether `n` bytes at an SRAM address meet the last 0x820 bytes of a slice: the result, post and landing words and the
channel table (R68, R232, R256). -/
def hitsLast (a n : Nat) : Bool := 0x0FFFF7E0 < a % 0x10000000 + n

/-- Whether a write of a peer's memory meets those bytes of one of its slices: the slices lie at the same addresses on every
device (R187). -/
def peerLast (a n : Nat) : Bool :=
  (piecesOf a n).any (fun p => extAddr p.1 + p.2.1 < 0x1000000000 && hitsLast (extAddr p.1 + p.2.1) p.2.2)

/-- Whether an SRAM access runs beyond the end of the slice it starts in. -/
def beyondSlice (a n : Nat) : Bool := 0x10000000 < a % 0x10000000 + n

/-- LT_RANGE of R72 and R137. -/
def QEnt.range (q : QEnt) : Bool :=
  let lim := if q.srcKind ≤ 1 ∨ q.dstKind = 0 then 1024 else 262144
  (q.op == 2 && (q.len64 == 0 || lim < q.len64)) || (q.op == 3 && 1024 < q.len64) ||
    (q.op == 5 && (q.len64 == 0 || fld q.c 0 6 != 0 || 0x40000 < q.c.toNat + q.size)) ||
    ((q.srcKind == 2 || q.srcKind == 3) && beyondSlice q.b.toNat q.size) ||
    ((q.dstKind == 2 || q.dstKind == 3) && (beyondSlice q.c.toNat q.size || hitsLast q.c.toNat q.size)) ||
    (q.dstKind == 5 && peerLast q.c.toNat q.size)

/-- LT_SCRATCH_FOREIGN: a write of scratch outside the own slice (R69). -/
def QEnt.foreign (q : QEnt) (s : State) : Bool :=
  (q.dstKind == 3 || q.dstKind == 4) && (piecesOf q.c.toNat q.size).any (fun p => (ext p.1 s).kind == .scratch)

/-- The channel entry `c` of berth `b` (R79). -/
def chanEntry (b : BerthIdx) (c : BitVec 8) (s : State) : W64 :=
  w64 (leVal (s.mem.bytesFrom (sliceBase b + 0x0FFFF800 + 8 * c.toNat) 8))

def chDev (e : W64) : W16 := w16 (fld e 48 16)
def chBerth (e : W64) : BerthIdx := BitVec.ofNat 8 (fld e 40 8)
def chRecv (e : W64) : Bool := e.getLsbD 39
def chDepth (e : W64) : Nat := fld e 32 4
def chMax (e : W64) : Nat := fld e 16 16

/-- Whether an entry is used and usable (R79, R80). -/
def chUsable (e : W64) : Bool :=
  chDev e != 0xFFFF && 1 ≤ chDepth e && chDepth e ≤ 4 && fld e 36 3 == 0 && fld e 0 16 == 0

/-- The first code of R72's order that a descriptor of berth `b` is refused with at its start. -/
def descCode (b : BerthIdx) (q : QEnt) (s : State) : Option W16 :=
  let e := chanEntry b q.chan s
  if q.bad then some Code.ltBadDesc
  else if q.op = 5 ∧ (q.driver = false ∨ berthLive b s) then some Code.imemBusy
  else if !tierOk b q.srcKind q.b.toNat q.size q.dev s || !tierOk b q.dstKind q.c.toNat q.size q.dev s then
    some Code.ltTierMismatch
  else if q.range then some Code.ltRange
  else if q.op = 1 ∧ ((memKind q.srcKind ∧ q.b.toNat % 512 ≠ 0) ∨ (memKind q.dstKind ∧ q.c.toNat % 512 ≠ 0)) then
    some Code.tileAlign
  else if q.foreign s then some Code.ltScratchForeign
  else if q.op = 3 ∧ (!chUsable e ∨ chRecv e) then some Code.chanUndeclared
  else if q.op = 4 ∧ (!chUsable e ∨ ¬ chRecv e) then some Code.chanUndeclared
  else if q.op = 3 ∧ 64 * chMax e < q.size then some Code.chanSize
  else none

/-! ### Registers and groups that an instruction reads and writes (R56): tile registers as 0 to 15, groups as 16 to 23 -/

/-- A vector operand field in mode FULL, RB or CB (R148). -/
def vRegs (m : BitVec 2) (c : BitVec 5) : List Nat :=
  if m = 3 then [] else if c.toNat < 16 then [c.toNat] else if c.toNat < 24 then [c.toNat] else []

/-- Consecutive group numbers from `g`. -/
def groupsFrom (g n : Nat) : List Nat := (List.range n).map (fun i => 16 + g + i)

/-- What an engine instruction or a descriptor reads. -/
def readsOf (q : QEnt) : List Nat :=
  match q.w with
  | .mma g p _ => [p.ta.toNat, p.tb.toNat, 16 + g.toNat]
  | .mmaG g p n _ => p.ta.toNat :: ((List.range n.toNat).map (p.tb.toNat + ·) ++ groupsFrom g.toNat n.toNat)
  | .mmaF g p p2 _ => [p.ta.toNat, p.tb.toNat, p2.ta.toNat, p2.tb.toNat, 16 + g.toNat]
  | .accOpen g _ _ _ _ => [16 + g.toNat]
  | .accClose g => [16 + g.toNat]
  | .vec .vfma v => vRegs v.ma v.a ++ vRegs v.mb v.b ++ vRegs 0 v.d
  | .vec _ v => vRegs v.ma v.a ++ vRegs v.mb v.b
  | .vred v => vRegs v.ma v.a ++ vRegs v.mb v.b
  | .vget _ a _ _ _ => vRegs 0 a
  | .vput d _ _ _ => vRegs 0 d
  | .optMom t1 t2 g _ => [t1.toNat, t2.toNat] ++ vRegs 0 g
  | .optStep t1 t2 _ _ _ => [t1.toNat, t2.toNat]
  | .optApply t1 t2 t4 g _ sc => [t1.toNat, t2.toNat] ++ (if sc = 0 then [] else [t4.toNat]) ++ vRegs 0 g
  | .ltIssue .. =>
    if q.srcKind = 0 then [fld q.b 0 4] else if q.srcKind = 1 then [16 + fld q.b 0 3] else []
  | .chSend _ t _ _ => [t.toNat]
  | _ => []

/-- What it writes. -/
def writesOf (q : QEnt) : List Nat :=
  match q.w with
  | .mma g _ _ => [16 + g.toNat]
  | .mmaG g _ n _ => groupsFrom g.toNat n.toNat
  | .mmaF g _ _ _ => [16 + g.toNat]
  | .accOpen g _ _ _ _ => [16 + g.toNat]
  | .accClose g => [16 + g.toNat]
  | .vec _ v => vRegs 0 v.d
  | .vred v => if v.axis = 2 then [] else vRegs 0 v.d
  | .vput d _ _ _ => vRegs 0 d
  | .optMom t1 t2 _ _ => [t1.toNat, t2.toNat]
  | .optStep _ _ t4 _ _ => [t4.toNat]
  | .optApply t1 t2 t4 _ _ sc => if sc = 0 then [t1.toNat, t2.toNat] else [t1.toNat, t2.toNat, t4.toNat]
  | .ltIssue .. => if q.dstKind = 0 then [fld q.c 0 4] else []
  | .chRecv _ t _ => [t.toNat]
  | _ => []

/-- Whether a running descriptor has read all of its source: a SEND that has streamed, a write to a peer that is under way
(R70). -/
def Running.read (r : Running) : Bool := r.sent || r.ent.dstKind == 5

/-- Whether every row of a running receive lies below the row watermark of its register (R57). -/
def Running.landed (r : Running) : Bool := r.ent.op == 4 && 128 ≤ r.rows

/-- What the lighters of a berth have issued and not completed, but for the running descriptors that `f` excepts. -/
def ltFlight (be : Berth) (f : Running → Bool) : List QEnt :=
  be.lt.toList.flatMap (fun l => l.queue ++ ((l.run.filter (fun r => !f r)).map (·.ent)).toList)

/-- The instructions of a berth that have been issued and still write, and those that still read (R56, R57). -/
def writers (be : Berth) : List QEnt := be.mxq ++ be.vxq ++ ltFlight be Running.landed
def readers (be : Berth) : List QEnt := be.mxq ++ be.vxq ++ ltFlight be Running.read

/-- Whether two lists share an element. -/
def clash (a b : List Nat) : Bool := a.any (fun x => b.contains x)

/-- The scoreboard rule (R56, R57): no instruction issued before `q` still writes what `q` uses or reads what `q` writes; a
group whose close is pending counts as written. A receive whose rows have all landed holds no one: the watermark that a CHAN
message advances reaches the last row with the message (log 6). -/
def ready (be : Berth) (q : QEnt) : Bool :=
  let r := readsOf q
  let w := writesOf q
  (writers be).all (fun y => q.seq ≤ y.seq || !clash (writesOf y) (r ++ w)) &&
  (readers be).all (fun y => q.seq ≤ y.seq || !clash (readsOf y) w) &&
  be.closing.all (fun c => q.seq ≤ c.1 || !(r ++ w).contains (16 + c.2.toNat))

/-- Whether group `g` is OPEN for the instruction issued as number `n`: its state with every earlier open and close of
the MXE queue applied (R89, R495). -/
def openBefore (be : Berth) (n g : Nat) : Bool :=
  let o := (group be g).opened && !be.closing.any (fun c => c.1 < n && c.2.toNat == g)
  be.mxq.foldl (fun o y =>
    if n ≤ y.seq then o
    else match y.w with
      | .accOpen h _ _ _ _ => if h.toNat = g then true else o
      | .accClose h => if h.toNat = g then false else o
      | _ => o) o

/-! ### The slice interlock (R58) -/

/-- Own-slice byte ranges of a descriptor: read and written, as slice offsets. -/
def sliceReads (q : QEnt) : List (Nat × Nat) := if q.srcKind = 2 then [(q.b.toNat % 0x10000000, q.size)] else []
def sliceWrites (q : QEnt) : List (Nat × Nat) := if q.dstKind = 2 then [(q.c.toNat % 0x10000000, q.size)] else []

/-- Overlap at 512-byte granularity. -/
def overlap512 (a n b m : Nat) : Bool := a / 512 * 512 < (b + m + 511) / 512 * 512 && b / 512 * 512 < (a + n + 511) / 512 * 512

def overlapAny (a n : Nat) (rs : List (Nat × Nat)) : Bool := rs.any (fun r => overlap512 a n r.1 r.2)

/-- Descriptors of a berth that were issued before number `n` and have not completed, but for the running ones that `f`
excepts. -/
def earlierDescs (be : Berth) (f : Running → Bool) (n : Nat) : List QEnt :=
  (ltFlight be f).filter (fun q => q.seq < n)

/-- A read of `[o, o + k)` of the slice must wait for an earlier write; a write also for an earlier read. -/
def readHeld (be : Berth) (n o k : Nat) : Bool :=
  (earlierDescs be (fun _ => false) n).any (fun q => overlapAny o k (sliceWrites q))
def writeHeld (be : Berth) (n o k : Nat) : Bool :=
  readHeld be n o k || (earlierDescs be Running.read n).any (fun q => overlapAny o k (sliceReads q))

end Sys2Proof.Machine
end

