-- ==== Sys2Proof/Machine/Mxe.lean ====
section
/-! DEFINITION. The matrix engine (R85 to R109, R494): checks, products, opening and closing of groups. -/

namespace Sys2Proof.Machine
open Sys2Proof

/-! ### Classes and checks (R85, R87, R99, R494) -/

inductive OpClass where
  | w16 | f8 | f4 | bad
  deriving DecidableEq, Repr

def opClass (f : Nat) : OpClass :=
  match f with
  | 1 => .w16
  | 2 => .w16
  | 3 => .f8
  | 4 => .f8
  | 5 => .f8
  | 6 => .f8
  | 7 => .f8
  | 8 => .f8
  | 9 => .f4
  | _ => .bad

/-- The rate of a pair; `bad` where the pair is not allowed (R85). -/
def pairRate (fa fb : Nat) : OpClass :=
  match opClass fa, opClass fb with
  | .bad, _ => .bad
  | _, .bad => .bad
  | .w16, .w16 => if fa = fb then .w16 else .bad
  | .w16, _ => .bad
  | _, .w16 => .bad
  | .f4, .f4 => .f4
  | _, _ => .f8

def pairRateOf (p : MmPair) : OpClass := pairRate p.fa.toNat p.fb.toNat

/-- The mode of a rate and a group width (R345), which is also the row of the band table (R94). -/
def mxMode (r : OpClass) (w16 : Bool) : Nat :=
  match r with
  | .w16 => if w16 then 1 else 0
  | .f4 => 4
  | _ => if w16 then 3 else 2

/-- The operand pairs of a word. -/
def mmPairs (w : PWord) : List MmPair :=
  match w with
  | .mma _ p _ => [p]
  | .mmaG _ p _ _ => [p]
  | .mmaF _ p q _ => [p, q]
  | _ => []

/-- The groups that a product writes. -/
def mmGroups (w : PWord) : List Nat :=
  match w with
  | .mma g _ _ => [g.toNat]
  | .mmaG g _ n _ => (List.range n.toNat).map (g.toNat + ·)
  | .mmaF g _ _ _ => [g.toNat]
  | _ => []

def mmRows (w : PWord) : Nat :=
  match w with
  | .mma _ _ r => r.toNat
  | .mmaG _ _ _ r => r.toNat
  | .mmaF _ _ _ r => r.toNat
  | _ => 1

/-- MX_SHAPE (R87, R99, R147). -/
def mmShapeBad (w : PWord) : Bool :=
  let r := mmRows w
  r == 0 || decide (128 < r) || (mmPairs w).any (fun p => p.kblk.toNat == 0 || decide (4 < p.kblk.toNat)) ||
    (match w with
    | .mmaG g p n _ => !(n == 2 || n == 4) || decide (8 < g.toNat + n.toNat) || decide (16 < p.tb.toNat + n.toNat)
    | _ => false)

/-- A doubled-rate pair: F8 into a 16-bit group, F4 into an FP32 group (R105). -/
def doubledRate (rates : List OpClass) (wide : List Bool) : Bool :=
  (rates.contains .f8 && wide.contains true) || rates.contains .f4

/-- The code an MXE word is refused with, in the order of R494. -/
def mxCode (b : BerthIdx) (q : QEnt) (s : State) : Option W16 :=
  let be := berth b s
  match q.w with
  | .accOpen g _ _ _ _ => if openBefore be q.seq g.toNat then some Code.accBusyOpen else none
  | .accClose _ => none
  | .mxFclr => none
  | w =>
    let gs := mmGroups w
    let rates := (mmPairs w).map pairRateOf
    let wide := gs.map (fun g => (group be g).w16)
    if mmShapeBad w then some Code.mxShape
    else if rates.contains .bad then some Code.mxBadOperand
    else if gs.any (fun g => !openBefore be q.seq g) then some Code.accNotOpen
    else if (wide.contains true && wide.contains false) || (wide.contains true && rates.contains .f4) then
      some Code.accMode
    else if !be.doubleEn && doubledRate rates wide then some Code.mxRateDisabled
    else none

/-! ### A unit stops (R109, R134) -/

/-- A class 0x3 code of any unit of a berth also goes to MX_STATUS.LAST_ERR (R110). -/
def unitReport (b : BerthIdx) (k : Blk) (c : W16) (s : State) : State :=
  let s := report k c s
  if codeClass c = 3 then setLastErr (Blk.mx b) c s else s

def stopMx (b : BerthIdx) (c : W16) (s : State) : State :=
  unitReport b (Blk.mx b) c (modBerth b (fun be => { be with mxq := be.mxq.tail, mxStopped := true }) s)

/-! ### Products (R92 to R94) -/

/-- The blocks of every column of a B operand (R86). -/
def bCols (b : BerthIdx) (t f k : Nat) (s : State) : List (List OpBlk) :=
  let rows := (List.range (32 * k)).map (fun r => rowRaw f 128 (tileData b t (rowSize f * r) (rowSize f) s))
  let scs := (List.range k).map (fun x => if isMx f then tileData b t (dataBytes f + 128 * x) 128 s else [])
  (List.range 128).map (fun j => rowBlocks f k (rows.map (fun r => r.getD j 0))
    (scs.map (fun x => (x.getD j 0x7F).toNat)))

/-- The blocks of row `i` of an A operand. -/
def aRowBlks (b : BerthIdx) (t f k i : Nat) (s : State) : List OpBlk :=
  rowBlocks f k (rowRaw f (32 * k) (tileData b t (rowSize f * i) (4 * k * elemBits f) s))
    (if isMx f then (tileData b t (dataBytes f + 4 * i) 4 s).map BitVec.toNat else List.replicate 4 0x7F)

/-- One row of cells after an operation, and the flags. -/
def mmaRow (x : Group) (i : Nat) (a : List OpBlk) (cols : List (List OpBlk)) (cells : List Nat) : List Nat × GFlags :=
  let r := ((cols.zip cells).zipIdx).map (fun p => addBlocks x.w16 x.key i p.2 x.ctr (a.zip p.1.1) p.1.2)
  (r.map (·.1), (r.map (·.2)).foldl (· ||| ·) 0)

/-- One tile operation: adds A × B into group `g` for the first `mrows` rows; the group's counter advances by KBLK. -/
def mmaOne (b : BerthIdx) (p : MmPair) (tb : Nat) (g : BitVec 3) (mrows : Nat) (s : State) : State :=
  let fa := p.fa.toNat
  let k := p.kblk.toNat
  let x := group (berth b s) g.toNat
  let mode := mxMode (pairRateOf p) x.w16
  let cols := bCols b tb p.fb.toNat k s
  let step (st : Bank × GFlags) (i : Nat) : Bank × GFlags :=
    let bs := groupData b g.toNat (512 * i) 512 s
    let cells := (List.range 128).map (fun j => leAt bs (4 * j) 4)
    let (r, fl) := mmaRow x i (aRowBlks b p.ta.toNat fa k i s) cols cells
    (putBank st.1 (512 * i) (r.flatMap (leBytes 4)), st.2 ||| fl)
  let (bank, fl) := (List.range mrows).foldl step (x.bank, 0)
  let y := { x with bank := bank, flags := x.flags ||| fl, ctr := x.ctr + w32 k }
  let cyc := cdiv mrows (rowsPerBand mode) * k
  let op : AudOp :=
    { p := p, g := g, mrows := mrows, mode := mode, grp := x
      a := fun o n => tileData b p.ta.toNat o n s
      b := fun o n => tileData b tb o n s
      before := fun o n => groupData b g.toNat o n s
      after := fun o n => bankBytes bank (bankBase b (16 + g.toNat)) o n }
  let s := modBerth b (fun be => setGroup g.toNat y be) s
  let s := sampleOp b op s
  let s := match berthDom b s with
    | some d => accrue d (fun a => { a with mxe := a.mxe + cyc }) s
    | none => s
  addAct (berthClient b s).toNat (cyc * (s.acct.w.toList.getD (1 + mode) 0).toNat) s

/-- MXE cycles without a product (the occupancy column of the MXE operation table). -/
def mxCycles (b : BerthIdx) (n : Nat) (s : State) : State :=
  match berthDom b s with
  | some d => accrue d (fun a => { a with mxe := a.mxe + n }) s
  | none => s

/-! ### Opening and closing (R89, R90, R102) -/

/-- Every cell of a bank rounded to BF16 with RNE (R90, KEEP into a 16-bit group). -/
def roundCells (bank : Bank) (base : Nat) : Bank :=
  let cells := (List.range 16384).map (fun c =>
    (roundVal bf16 .rne (decodeNum fp32 (leVal (bankBytes bank base (4 * c) 4)))).1 * 65536)
  putBank {} 0 (cells.flatMap (leBytes 4))

/-- ACC_OPEN (R90). Key and block counter of an FP32 group, for which s_k and s_n are ignored, become 0: an AUD_REQ shows them
(DESIGN CHOICE, log 43). -/
def accOpenRun (b : BerthIdx) (g : BitVec 3) (w16 keep : Bool) (key n : W64) (s : State) : State :=
  let x := group (berth b s) g.toNat
  let bank := if !keep then {} else if w16 then roundCells x.bank (bankBase b (16 + g.toNat)) else x.bank
  let y : Group :=
    { opened := true, w16 := w16, key := if w16 then key else 0, ctr := if w16 then n.extractLsb' 0 32 else 0
      flags := 0, bank := bank }
  mxCycles b (if keep && w16 then 8 else 1) (modBerth b (fun be => setGroup g.toNat y be) s)

/-- Whether a cell of a group holds an infinity or a NaN. -/
def cellsNonfinite (bank : Bank) (base : Nat) : Bool :=
  (List.range 16384).any (fun c =>
    let v := decodeNum fp32 (leVal (bankBytes bank base (4 * c) 4))
    v.isNan || v.isInf)

/-- The group closes and its flags fold into MXFLAGS (R102). -/
def foldGroup (b : BerthIdx) (g : BitVec 3) (s : State) : State :=
  let be := berth b s
  let x := group be g.toNat
  let nf := gflag (cellsNonfinite x.bank (bankBase b (16 + g.toNat))) false false false
  modBerth b (fun be => { setGroup g.toNat { x with opened := false } be with
    mxflags := be.mxflags ||| x.flags ||| nf }) s

/-- MXFLAGS before the close or clear issued as number `n` takes effect, kept for the FLAGS.RD words that were issued
earlier and still wait: a summary reports the work issued before it (R127). -/
def keepMx (n : Nat) (be : Berth) : Berth :=
  { be with vxq := be.vxq.map (fun q => if q.seq < n ∧ q.mx.isNone then { q with mx := some be.mxflags } else q) }

/-- ACC_CLOSE_FOLD: the oldest pending close of group `g` folds; folds keep queue order (R102, R104). -/
def accFold (b : BerthIdx) (g : BitVec 3) (s : State) : State :=
  let be := berth b s
  match be.closing with
  | (n, h) :: r =>
    if h = g then foldGroup b g (modBerth b (fun be => keepMx n { be with closing := r }) s) else s
  | [] => s

/-- What a started MXE word does. -/
def mxRun (b : BerthIdx) (q : QEnt) (s : State) : State :=
  match q.w with
  | .accOpen g w init _ _ => accOpenRun b g w init q.a q.b s
  | .accClose g =>
    let s := mxCycles b 1 s
    if (group (berth b s) g.toNat).opened then
      modBerth b (fun be => { be with closing := be.closing ++ [(q.seq, g)] }) s
    else s
  | .mxFclr => mxCycles b 1 (modBerth b (fun be => { keepMx q.seq be with mxflags := 0 }) s)
  | .mma g p r => mmaOne b p p.tb.toNat g r.toNat s
  | .mmaG g p n r =>
    foldS (List.range n.toNat) (fun t s => mmaOne b p (p.tb.toNat + t) (BitVec.ofNat 3 (g.toNat + t)) r.toNat s) s
  | .mmaF g p p2 r => mmaOne b p2 p2.tb.toNat g r.toNat (mmaOne b p p.tb.toNat g r.toNat s)
  | _ => s

/-- Whether a word of the MXE queue may start: its operands are ready; MX_FCLR follows every earlier fold (R98). -/
def mxReady (be : Berth) (q : QEnt) : Bool :=
  ready be q && (match q.w with
    | .mxFclr => be.closing == []
    | _ => true)

/-- MXE_START: the word at the head of the MXE queue is checked and, its operands ready, runs (R95, R495). -/
def mxStart (b : BerthIdx) (s : State) : State :=
  let be := berth b s
  match be.mxq with
  | [] => s
  | q :: r =>
    if be.mxStopped then s
    else
      match mxCode b q s with
      | some c => stopMx b c s
      | none => if mxReady be q then mxRun b q (modBerth b (fun be => { be with mxq := r }) s) else s

/-- MXE_START (R95). -/
def execMxeStart (b : BerthIdx) (s : State) : Outcome := awake s (.next (mxStart b s))

/-- ACC_CLOSE_FOLD (R102). -/
def execAccCloseFold (b : BerthIdx) (g : BitVec 3) (s : State) : Outcome := awake s (.next (accFold b g s))

end Sys2Proof.Machine
end

