-- ==== Sys2Proof/Machine/RegOps.lean ====
section
/-! DEFINITION. Register writes and reads that every page shares (R404 to R413): ownership, locks, register pairs, the
common page header. -/

namespace Sys2Proof.Machine
open Sys2Proof

/-- OWNER_CLIENT of a page (R411). -/
def ownerClient (page : Nat) (s : State) : BitVec 8 :=
  if page < 0x200 then berthClient (BitVec.ofNat 8 page) s else 0xFF

/-- Whether LOCK keeps a writer from changing an RWL field (R412). -/
def lockRefuses (r : Req) (page : Nat) (s : State) : Bool :=
  match (hdr page s).lock.toNat with
  | 0 => false
  | 1 => !r.hm && r.client != 0xFF
  | 2 => !r.hm
  | _ => false

/-- The answer to a request; the harbourmaster's own accesses are not answered by a message (R404, R405). -/
def answerReq (r : Req) (status : W16) (data : W32) (s : State) : State :=
  if r.hm then s else regAnswer r status data s

/-- A register write of block `k`: refused for ownership (R411), for the lock where it changes an RWL field (R412), or by
the block, and answered (R405, R406). No page is reachable in reset (R493). -/
def regWrite (r : Req) (k : Blk) (rwl : Bool) (put : WRes) (s : State) : State :=
  let o := ownerClient k.page s
  if s.startUp.phase = .reset then s
  else if o ≠ 0xFF ∧ o ≠ r.client then answerReq r Code.claimDenied 0 (refuse k Code.claimDenied s)
  else if rwl && lockRefuses r k.page s then answerReq r Code.regLocked 0 (refuse k Code.regLocked s)
  else
    match put with
    | .error c => answerReq r c 0 (refuse k c s)
    | .ok s => answerReq r 0 0 s

/-- A register read that changes the state, and its answer (R405). -/
def regRead (r : Req) (get : State → W32 × State) (s : State) : State :=
  if s.startUp.phase = .reset then s else answerReq r 0 (get s).1 (get s).2

/-! ### Register pairs (R407) -/

/-- The key of the register at an offset of a page. -/
def regKey (page off : Nat) : Nat := page * 4096 + off

/-- A read of a _LO register latches its _HI register. It returns the value last written, a held one too (R6); a pair that
is read only is never held. -/
def readLo (key : Nat) (v : W64) (s : State) : W32 × State :=
  (tget s.loHeld (v.extractLsb' 0 32) key, { s with hiLatch := tput s.hiLatch key (v.extractLsb' 32 32) })

/-- A read of a _HI register returns what the last read of _LO latched, once; else its value. -/
def readHi (key : Nat) (v : W64) (s : State) : W32 × State :=
  match s.hiLatch.find? (fun e => e.1 == key) with
  | some e => (e.2, { s with hiLatch := tdel s.hiLatch key })
  | none => (v.extractLsb' 32 32, s)

/-- A read of _HI behind a write of it returns the value after the write, not what an earlier read of _LO latched. -/
def dropHi (key : Nat) (s : State) : State := { s with hiLatch := tdel s.hiLatch key }

/-- A write of a _LO register is held. -/
def holdLo (key : Nat) (v : W32) (s : State) : State := { s with loHeld := tput s.loHeld key v }

/-- The value that a write of _HI gives the pair: the _LO value last held, the one in force where none was. -/
def pairValue (key : Nat) (cur : W64) (hi : W32) (s : State) : W64 :=
  w64 (hi.toNat * 2 ^ 32 + (tget s.loHeld (cur.extractLsb' 0 32) key).toNat)

/-- A write of _HI of a pair that software writes: both halves take effect, and a later read of _HI returns the value
after the write (R407). -/
def putPair (key : Nat) (cur : W64) (hi : W32) (f : W64 → State → State) (s : State) : State :=
  dropHi key (f (pairValue key cur hi s) s)

/-- The device itself writes a pair: what was held or latched of it is no longer the register's value. -/
def freePair (key : Nat) (s : State) : State := { dropHi key s with loHeld := tdel s.loHeld key }

/-! ### The page header (R409, R410, R412) -/

/-- Writes of ERR_STATUS, ERR_MASK, ERR_COUNT, EVENT_STATUS and EVENT_ENABLE. `events` masks the event bits the page
has. -/
def PageHdr.putErr (h : PageHdr) (off : Nat) (v : W32) (events : W32) : PageHdr :=
  match off with
  | 0x010 => { h with
      errStatus := h.errStatus &&& ~~~(v.extractLsb' 0 3)
      errFirst := if v.getLsbD 0 then 0 else h.errFirst }
  | 0x014 => { h with errMask := v.extractLsb' 0 2 }
  | 0x01C => { h with errCount := clearBy h.errCount v }
  | 0x020 => { h with eventStatus := h.eventStatus &&& ~~~v }
  | 0x024 => { h with eventEnable := v &&& events }
  | _ => h

/-- A write of LOCK (R412). -/
def putLock (r : Req) (page : Nat) (v : W32) (s : State) : WRes :=
  let l := v.extractLsb' 0 2
  if !r.hm && r.client != 0xFF then .error Code.regLocked
  else if !r.hm && ((hdr page s).lock == 2 || l == 2) then .error Code.regLocked
  else if l = 3 then .error Code.configRefused
  else .ok (setHdr page { hdr page s with lock := l } s)

/-- The event bits of a page (R389, R410): the bits of the block and ERR, which HEALTH lacks. -/
def eventBits (page : Nat) : W32 :=
  let own : W32 :=
    if page = Pg.object ∨ page = Pg.member ∨ page = Pg.caravan ∨ page = Pg.client then 1
    else if page = Pg.health then 0xF
    else if page = Pg.hmaster then 1
    else if page = Pg.power then 0x3F
    else 0
  if page = Pg.health then own else own ||| 0x80000000

end Sys2Proof.Machine
end

