-- ==== Sys2Proof/Machine/AuditCmds.lean ====
section
/-! DEFINITION. The commands of audit and health, and the registers of the HEALTH page (R337 to R356). -/

namespace Sys2Proof.Machine
open Sys2Proof

/-! ### Serving an audit (R344) -/

/-- A request joins the auditor's queue or is answered AUD_SKIPPED. -/
def takeAudReq (q : AudReq) (s : State) : State :=
  let s := charge none house 0 0 0 (audBodyLen q) s
  if s.health.st ≠ .healthy ∨ 256 ≤ s.health.auditQ.length then sendAudResp q Code.audSkipped 0 none s
  else setHealth { s.health with auditQ := s.health.auditQ ++ [q] } s

/-- The request is answered and leaves the queue. -/
def answerAudit (q : AudReq) (a1 : W64) (a2 : Option W64) (s : State) : State :=
  sendAudResp q 0 a1 a2 (countHealth 0xA3 (setHealth { s.health with auditQ := s.health.auditQ.tail } s))

/-- An auditor's own fault, on the berth `b` that gave the wrong A1, or an audit on which three digests disagree (R339,
R346). -/
def auditorNote (q : AudReq) (b : BerthIdx) (a1 a2 : W64) (s : State) : State :=
  if a2 = q.digest then
    transientFault Code.audMismatch { page := Pg.berth b, src := ownDev s, dom := none } s
  else if a2 ≠ a1 then pushRecord (auditRecord 4 q (ownDev s) s) (countHealth 0xA0 s)
  else s

/-- Whether berth `b` may recompute a slice: idle, and with DOUBLE_EN where the pair runs at the doubled rate (R105, R344). -/
def mayServe (q : AudReq) (b : BerthIdx) (s : State) : Bool :=
  berthIdle b s && ((berth b s).doubleEn || !doubledRate [pairRate q.fa.toNat q.fb.toNat] [q.wide16])

/-- The oldest request is recomputed on berth `b`, and on berth `b2` as well where the digests differ. A device that is no
longer HEALTHY answers it AUD_SKIPPED; one that is RETIRED serves no audit (R344, R354). -/
def serveAudit (b b2 : BerthIdx) (s : State) : State :=
  match s.health.auditQ with
  | [] => s
  | q :: r =>
    if s.health.st ≠ .healthy then sendAudResp q Code.audSkipped 0 none (setHealth { s.health with auditQ := r } s)
    else if !mayServe q b s then s
    else
      let (a1, t) := recompute q b s
      if a1 = q.digest then answerAudit q a1 none t
      else if b2 = b ∨ !mayServe q b2 s then s
      else
        let (a2, t) := recompute q b2 t
        auditorNote q b a1 a2 (answerAudit q a1 (some a2) t)

/-- AUD_REQ (R344). -/
def execAudReq (q : AudReq) (s : State) : Outcome := awake s (.next (takeAudReq q s))

/-- AUDIT_RECOMPUTE (R344). -/
def execAuditRecompute (b b2 : BerthIdx) (s : State) : Outcome := awake s (.next (serveAudit b b2 s))

/-! ### Outcomes on the sampling device (R346) -/

/-- An audit response is judged. -/
def takeAudResp (src : W16) (tag : BitVec 14) (status : W16) (a1 : W64) (a2 : Option W64) (s : State) : State :=
  match findCapture tag s with
  | none => s
  | some c =>
    if c.auditor ≠ src ∨ c.a1.isSome then s
    else if status ≠ 0 then auditResend c s
    else if a1 = c.q.digest then auditEnd c .pass s
    else
      let s := report ⟨Pg.health, 0⟩ Code.audMismatch s
      if a2 = some c.q.digest then auditEnd c .auditorTransient s
      else if a2 ≠ some a1 then auditEnd c .inconclusive s
      else setHealth { s.health with captures := s.health.captures.map (fun x =>
        if x.tag = tag then { x with a1 := some a1, a2 := a2 } else x) } s

/-- The recompute S2 on berth `b`: the sampled berth, or where that is not idle another of its compute die (R346). -/
def auditS2 (tag : BitVec 14) (b : BerthIdx) (s : State) : State :=
  match findCapture tag s with
  | none => s
  | some c =>
    match c.a1 with
    | none => s
    | some a1 =>
      let q := c.q
      if !mayServe q b s || (b != q.berth && (mayServe q q.berth s || b.toNat / 64 != q.berth.toNat / 64)) then s
      else
        let (s2, s) := recompute q b s
        auditEnd c (if s2 = a1 then .transient else if s2 = q.digest then .lasting else .inconclusive) s

/-- No outcome within 1 s of the response (R346). -/
def auditExpire (tag : BitVec 14) (s : State) : State :=
  match findCapture tag s with
  | some c => if c.a1.isSome then auditEnd c .inconclusive s else s
  | none => s

/-- AUD_RESP (R346). -/
def execAudResp (src : W16) (tag : BitVec 14) (status : W16) (a1 : W64) (a2 : Option W64) (s : State) : Outcome :=
  awake s (.next (takeAudResp src tag status a1 a2 s))

/-- AUDIT_S2 (R346). -/
def execAuditS2 (tag : BitVec 14) (b : BerthIdx) (s : State) : Outcome := awake s (.next (auditS2 tag b s))

/-- AUDIT_TIMEOUT (R346). -/
def execAuditTimeout (tag : BitVec 14) (s : State) : Outcome := awake s (.next (auditExpire tag s))

/-! ### Decay (R348) -/

def decayed (w : W32) : W32 := w32 (w.toNat * 64830 / 65536)

/-- Whether an index names a decayed value (R340). -/
def isDecayed (i : Nat) : Bool := (0xC0 ≤ i && i ≤ 0xC7) || (0xD0 ≤ i && i ≤ 0xE3)

/-- The score and every decayed value fade (R348). -/
def decayHealth (s : State) : State :=
  let h := s.health
  let cnt := ((List.range 8).map (0xC0 + ·) ++ (List.range 20).map (0xD0 + ·)).foldl
    (fun t i => tmod t 0 i decayed) h.cnt
  setHealth { h with score := decayed h.score, cnt := cnt } s

/-- HEALTH_DECAY (R348). -/
def execHealthDecay (s : State) : Outcome := awake s (.next (decayHealth s))

/-! ### The HEALTH page (R356) -/

/-- Whether an index is listed in the counter index table (R340). -/
def countListed (i : Nat) : Bool :=
  i ≤ 0x37 || (0x40 ≤ i && i ≤ 0x53) || (0x60 ≤ i && i ≤ 0x73) || (0x80 ≤ i && i ≤ 0x93) ||
    (0xA0 ≤ i && i ≤ 0xA4) || isDecayed i

/-- The transition that a driver's write of STATE asks for (R352). -/
def putHState (st : Nat) (s : State) : WRes :=
  let h := s.health
  if st = h.st.code then .ok s
  else if 4 ≤ st then .error Code.configRefused
  else
    match h.st, st with
    | .healthy, 1 => .ok (toHState .supervised 4 s)
    | .restricted, 1 => .ok (toHState .supervised 4 s)
    | .restricted, 0 => .ok (clear (toHState .healthy 4 s))
    | .supervised, 0 => .ok (clear (toHState .healthy 4 s))
    | .retired, _ => .error Code.hlTransition
    | _, 3 => if (List.range 16).any (fun d => (dom d s).en) then .error Code.hlTransition
              else .ok (toHState .retired 4 s)
    | _, _ => .error Code.hlTransition
where
  /-- Back to HEALTHY: every restriction and CANDIDATE go at once. -/
  clear (s : State) : State := setHealth { s.health with
    tjCeil := 100, cap := false, noDouble := false, candidate := false, capPending := false, pendNoDouble := false
    restrictNext := none } s

/-- A write of HL_STATE (R352, R356). -/
def putHlState (v : W32) (s : State) : WRes :=
  match putHState (fld v 0 3) s with
  | .error c => .error c
  | .ok s => .ok (if v.getLsbD 15 then setHealth { s.health with candidate := false } s else s)

/-- A write of HL_CTRL (R351): the pending cap applies, NO_DOUBLE clears DOUBLE_EN on every berth. -/
def putHlCtrl (v : W32) (s : State) : WRes :=
  if !v.getLsbD 0 then .ok s
  else if (List.range 16).any (fun d => isOpen d s || (dom d s).st == .recalling) then .error Code.hlTransition
  else if !s.health.capPending then .ok s
  else
    let h := s.health
    let nd := h.noDouble || h.pendNoDouble
    let s := setHealth { h with cap := true, noDouble := nd, capPending := false, pendNoDouble := false } s
    let s := { s with dies := { s.dies with clockMhz := min s.dies.clockMhz 1350 } }
    .ok (if nd then foldS ((List.range 256).map (BitVec.ofNat 8)) (fun b =>
      modBerth b (fun be => { be with doubleEn := false })) s else s)

/-- A write of HL_REC_CMD (R339). -/
def putRecCmd (v : W32) (s : State) : WRes :=
  if !v.getLsbD 0 then .ok s
  else
    match s.health.ring with
    | [] =>
      let h := hdr Pg.health s
      .ok (setHdr Pg.health { h with errCount := satInc h.errCount } (setHealth { s.health with recData := [] } s))
    | r :: rest => .ok (setHealth { s.health with ring := rest, recData := r } s)

/-- Whether a word of eight 4-bit codes holds a reserved one (R341). -/
def auditCodesOk (n k : Nat) : Bool := (List.range k).all (fun i => n / 16 ^ i % 16 < 14)

/-- A write of a HEALTH register. -/
def putHealth (off : Nat) (v : W32) (s : State) : WRes :=
  let h := s.health
  match off with
  | 0x040 => putHlState v s
  | 0x044 =>
    let s := setHealth { h with score := v } s
    .ok (if 8192 ≤ v.toNat then setCandidate s else s)
  | 0x04C => putHlCtrl v s
  | 0x050 => if fld v 0 4 < 14 then .ok (setHealth { h with rate := v.extractLsb' 0 4 } s) else .error Code.configRefused
  | 0x054 => .ok (setHealth { h with auditor := v } s)
  | 0x058 => .ok (setHealth { h with seed := v } s)
  | 0x05C => if auditCodesOk v.toNat 8 then .ok (holdLo (regKey Pg.health 0x05C) v s) else .error Code.configRefused
  | 0x060 =>
    if auditCodesOk v.toNat 8 then
      .ok (putPair (regKey Pg.health 0x05C) h.audFd v (fun w s => setHealth { s.health with audFd := w } s) s)
    else .error Code.configRefused
  | 0x064 => .ok (setHealth { h with cntSel := v.extractLsb' 0 8 } s)
  | 0x068 =>
    let i := h.cntSel.toNat
    if v = 0 ∧ countListed i ∧ ¬ isDecayed i then .ok (setHealth { h with cnt := tset h.cnt 0 i 0 } s) else .ok s
  | 0x070 => putRecCmd v s
  | _ => .ok s

/-- Whether a write of a HEALTH register changes an RWL field (R356). -/
def rwlHealth (off : Nat) (v : W32) (s : State) : Bool := off == 0x050 && v.extractLsb' 0 4 != s.health.rate

/-- A read of a HEALTH register. -/
def getHealth (off : Nat) (s : State) : W32 × State :=
  let h := s.health
  let ro (v : W32) : W32 × State := (v, s)
  match off with
  | 0x040 => ro (w32 ((lastErr ⟨Pg.health, 0⟩ s).toNat * 2 ^ 16 + b2n h.candidate * 2 ^ 15 + b2n h.capPending * 2 ^ 14 +
      h.st.code))
  | 0x044 => ro h.score
  | 0x048 => ro (w32 (h.tjCeil.toNat * 2 ^ 24 + b2n h.noDouble * 2 + b2n h.cap))
  | 0x050 => ro (w32 h.rate.toNat)
  | 0x054 => ro h.auditor
  | 0x058 => ro h.seed
  | 0x05C => readLo (regKey Pg.health 0x05C) h.audFd s
  | 0x060 => readHi (regKey Pg.health 0x05C) h.audFd s
  | 0x064 => ro (w32 h.cntSel.toNat)
  | 0x068 => ro (healthCnt h.cntSel.toNat s)
  | 0x06C => ro (w32 h.ring.length)
  | off => if 0x080 ≤ off ∧ off < 0x0A0 then ro (w32 (leAt h.recData (off - 0x080) 4)) else ro 0

/-- HL_STATE_WRITE (R352). -/
def execHlStateWrite (r : Req) (v : W32) (s : State) : Outcome :=
  awake s (.next (regWrite r ⟨Pg.health, 0⟩ false (putHlState v s) s))

/-- APPLY_CAP (R351). -/
def execApplyCap (r : Req) (v : W32) (s : State) : Outcome :=
  awake s (.next (regWrite r ⟨Pg.health, 0⟩ false (putHlCtrl v s) s))

/-- HL_REC_NEXT (R339). -/
def execHlRecNext (r : Req) (v : W32) (s : State) : Outcome :=
  awake s (.next (regWrite r ⟨Pg.health, 0⟩ false (putRecCmd v s) s))

end Sys2Proof.Machine
end

