-- ==== Sys2Proof/Machine/Pilot.lean ====
section
/-! DEFINITION. The pilot (R129 to R134, R138 to R146, R153): issue of a word, stalls, refusals, and what each pilot
instruction does. -/

namespace Sys2Proof.Machine
open Sys2Proof

/-! ### Registers of the pilot (R129) -/

/-- A scalar; s0 reads as 0. -/
def sreg (be : Berth) (r : BitVec 5) : W64 := if r = 0 then 0 else tget be.scal 0 r.toNat

/-- Writes a scalar; a write of s0 is discarded (R139). -/
def setS (r : BitVec 5) (v : W64) (be : Berth) : Berth :=
  if r = 0 then be else { be with scal := tset be.scal 0 r.toNat v }

/-- A predicate; p0 reads as 1. -/
def preg (be : Berth) (p : BitVec 3) : Bool := p == 0 || be.pred.getLsbD p.toNat

/-- Writes a predicate; a write of p0 is discarded (R139). -/
def setP (p : BitVec 3) (v : Bool) (be : Berth) : Berth :=
  if p = 0 then be
  else
    let m : BitVec 8 := BitVec.ofNat 8 (2 ^ p.toNat)
    { be with pred := if v then be.pred ||| m else be.pred &&& ~~~m }

/-- Scalars that wait for a write by the VXE (R128). -/
def pendingScal (be : Berth) : List (BitVec 5) := be.vxq.filterMap (fun q => vxDest q.w) ++ be.stuck

/-! ### Arithmetic (R142) -/

def srVal (op : SrOp) (a b : W64) : W64 :=
  match op with
  | .add => a + b
  | .sub => a - b
  | .and => a &&& b
  | .or => a ||| b
  | .xor => a ^^^ b
  | .shl => a <<< (b.toNat % 64)
  | .shr => a >>> (b.toNat % 64)
  | .sar => a.sshiftRight (b.toNat % 64)
  | .mul => a * b
  | .mulhu => BitVec.ofNat 64 (a.toNat * b.toNat / 2 ^ 64)
  | .minu => if a.toNat ≤ b.toNat then a else b
  | .maxu => if a.toNat ≤ b.toNat then b else a

def siVal (op : SiOp) (a : W64) (imm : W32) : W64 :=
  match op with
  | .addi => a + imm.signExtend 64
  | .andi => a &&& imm.zeroExtend 64
  | .ori => a ||| imm.zeroExtend 64
  | .xori => a ^^^ imm.zeroExtend 64
  | .shli => a <<< (imm.toNat % 64)
  | .shri => a >>> (imm.toNat % 64)
  | .sari => a.sshiftRight (imm.toNat % 64)
  | .lih => (imm ++ (a.extractLsb' 0 32) : BitVec 64)

def cmpVal (op : CmpOp) (a b : W64) : Bool :=
  match op with
  | .eq => a == b
  | .ne => a != b
  | .lt => a.slt b
  | .le => a.sle b
  | .gt => b.slt a
  | .ge => b.sle a
  | .ltu => a.ult b
  | .leu => a.ule b
  | .gtu => b.ult a
  | .geu => b.ule a

def plVal (op : PlOp) (a b : Bool) : Bool :=
  match op with
  | .pand => a && b
  | .por => a || b
  | .pandn => a && !b

/-! ### What an executed word does to the pilot -/

inductive PRes where
  /-- The word has executed and the next word follows. -/
  | go (s : State)
  /-- A taken branch to a word index. -/
  | jump (s : State) (t : Nat)
  /-- The pilot stalls at the word (R54, R58, R143, R145). -/
  | wait (s : State)
  /-- The pilot refuses the word (R134). -/
  | halt (c : W16) (s : State)
  /-- The access has recalled the frame, whose abort stopped the pilot (R134). -/
  | gone (s : State)
  /-- The frame-end instruction (R133). -/
  | stop (s : State)

/-- Halts the pilot of `b` with a code (R134, R410). -/
def haltPilot (b : BerthIdx) (c : W16) (s : State) : State :=
  report (Blk.pl b) c (modBerth b (fun be => { be with pl := .halted, stall := none }) s)

/-- A load or store address in the own slice, aligned to its size (R132). -/
def plAddrOk (b : BerthIdx) (a : W64) (n : Nat) : Bool := a.toNat / 0x10000000 == b.toNat && a.toNat % n == 0

/-- Own-slice offset a store of `n` bytes may not write (R68, R132, R232, R256): the channel table, the landing words, the
result word, and the post word but for an 8-byte store. -/
def storeBarred (o n : Nat) : Bool :=
  0x0FFFF7F0 ≤ o || meets o n 0x0FFFF7E0 8 || (meets o n 0x0FFFF7E8 8 && n != 8)

/-- LD and LDS (R132, R142). -/
def pilotLoad (b : BerthIdx) (signed : Bool) (rd rb : BitVec 5) (size : BitVec 2) (off : W32) (x : ReadEvent)
    (s : State) : PRes :=
  let be := berth b s
  let n := 2 ^ size.toNat
  let a := sreg be rb + off.signExtend 64
  if !plAddrOk b a n then .halt Code.plAddr s
  else if readHeld be be.seq (a.toNat % 0x10000000) n then .wait s
  else
    let d := berthDom b s
    match prepRead d (extOf a.toNat).1 s with
    | (.refused c, s) => .halt c s
    | (.recalled, s) => .gone s
    | (_, s) =>
      match sliceEvent b ⟨Pg.berth b, 0⟩ a.toNat x s with
      | (false, s) => .wait (modBerth b (fun be => { be with dead := true }) s)
      | (true, s) =>
        let v := leVal (readPieces d (piecesOf a.toNat n) s)
        let r : W64 := if signed ∧ 2 ^ (8 * n - 1) ≤ v then BitVec.ofNat 64 (v + 2 ^ 64 - 2 ^ (8 * n)) else BitVec.ofNat 64 v
        .go (modBerth b (setS rd r) s)

/-- ST (R132, R142): a store to the post word makes a post (R256). -/
def pilotStore (b : BerthIdx) (rs rb : BitVec 5) (size : BitVec 2) (off : W32) (s : State) : PRes :=
  let be := berth b s
  let n := 2 ^ size.toNat
  let a := sreg be rb + off.signExtend 64
  let o := a.toNat % 0x10000000
  if !plAddrOk b a n then .halt Code.plAddr s
  else if storeBarred o n then .halt Code.ltRange s
  else if writeHeld be be.seq o n then .wait s
  else
    let ps := piecesOf a.toNat n
    match prepWrites ((berthDom b s).getD 0) ps s with
    | (.refused c, s) => .halt c s
    | (.recalled, s) => .gone s
    | (.wait, s) => .wait s
    | (.ok, s) =>
      let s := landBytes ps (leBytes n (sreg be rs).toNat) s
      .go (if o = 0x0FFFF7E8 then redPost b (sreg be rs) s else s)

/-- The context values of RDCTX (R143). -/
def ctxVal (b : BerthIdx) (sel : Nat) (s : State) : W64 :=
  let d := (berthDom b s).getD 0
  match sel with
  | 0 => w64 b.toNat
  | 1 => (dom d s).num
  | 2 => w64 d
  | 3 => w64 (ownDev s).toNat
  | 4 => w64 (sliceBase b)
  | 5 => 0x10000000
  | 6 => (member d s).step
  | 7 => (member d s).mode
  | _ => 0

/-- Whether the units that a SYNC mask names are empty and complete (R143). -/
def syncDone (be : Berth) (mask : BitVec 6) : Bool :=
  (!mask.getLsbD 5 || (be.mxq == [] && be.closing == [] && !be.mxStopped)) &&
  (!mask.getLsbD 4 || (be.vxq == [] && !be.vxStopped)) &&
  (List.range 4).all (fun n => !mask.getLsbD n ||
    (match be.lt.toList[n]? with
    | some l => !ltBusy l && !l.stopped
    | none => true))

/-- The descriptors that CH.SEND and CH.RECV stand for (R146). -/
def chSendWord (fmt : BitVec 4) (chan : BitVec 8) : W64 := w64 (0x703 + fmt.toNat * 2 ^ 12 + chan.toNat * 2 ^ 40)
def chRecvWord (chan : BitVec 8) : W64 := w64 (0x074 + chan.toNat * 2 ^ 40)

/-- The queue a word goes to: the MXE's, the VXE's, or a lighter's. -/
inductive QName where
  | mx | vx | lt (n : BitVec 2)
  deriving DecidableEq, Repr

def queueOf (w : PWord) : Option QName :=
  match w with
  | .ltIssue ln _ _ _ _ => some (.lt ln)
  | .chSend ln _ _ _ => some (.lt ln)
  | .chRecv ln _ _ => some (.lt ln)
  | .accOpen .. => some .mx
  | .accClose _ => some .mx
  | .mma .. => some .mx
  | .mmaG .. => some .mx
  | .mmaF .. => some .mx
  | .mxFclr => some .mx
  | .vec .. => some .vx
  | .vred _ => some .vx
  | .vget .. => some .vx
  | .vput .. => some .vx
  | .flagsRd _ => some .vx
  | .vxFclr => some .vx
  | .optMom .. => some .vx
  | .optStep .. => some .vx
  | .optApply .. => some .vx
  | _ => none

/-- What a word captures when it issues (R131). -/
def capture (be : Berth) (w : PWord) : QEnt :=
  let q : QEnt := { seq := be.seq, w := w, rows := be.vlRows, cols := be.vlCols }
  match w with
  | .ltIssue _ sc ss sd sg => { q with a := sreg be sc, b := sreg be ss, c := sreg be sd, d := sreg be sg }
  | .chSend _ t chan fmt => { q with a := chSendWord fmt chan, b := w64 t.toNat }
  | .chRecv _ t chan => { q with a := chRecvWord chan, c := w64 t.toNat }
  | .accOpen _ _ _ sk sn => { q with a := sreg be sk, b := sreg be sn }
  | .vec _ v => { q with a := sreg be v.a, b := sreg be v.b, c := sreg be v.sk, d := sreg be v.sn }
  | .vred v => { q with a := sreg be v.a, b := sreg be v.b }
  | .vget _ _ sx _ _ => { q with a := sreg be sx }
  | .vput _ sv sx _ => { q with a := sreg be sv, b := sreg be sx }
  | .optMom _ _ _ sa => { q with a := sreg be sa }
  | .optStep _ _ _ sa sb => { q with a := sreg be sa, b := sreg be sb }
  | .optApply _ _ _ _ sa sc => { q with a := sreg be sa, b := sreg be sc, c := sreg be (sc + 1) }
  | _ => q

/-- Whether a queue has a free entry (R54). -/
def hasRoom (be : Berth) (n : QName) : Bool :=
  match n with
  | .mx => be.mxq.length < 16
  | .vx => be.vxq.length < 16
  | .lt k => (be.lt[k.toNat]).queue.length < 8

/-- Puts an instruction in its queue. -/
def enqueue (be : Berth) (n : QName) (q : QEnt) : Berth :=
  let be := { be with seq := be.seq + 1 }
  match n with
  | .mx => { be with mxq := be.mxq ++ [q] }
  | .vx => { be with vxq := be.vxq ++ [q] }
  | .lt k => { be with lt := be.lt.set k.toNat { be.lt[k.toNat] with queue := (be.lt[k.toNat]).queue ++ [q] } }

/-- A jump from state `s` to word `t`, with the link written in `l`; a refused one writes nothing (R134, R142). -/
def jumpTo (t : Int) (l s : State) : PRes := if 0 ≤ t ∧ t < 32768 then .jump l t.toNat else .halt Code.plPcRange s

/-- What a word does once it issues: its predicate is 1 and no scalar it uses is pending. -/
def pilotExec (b : BerthIdx) (w : PWord) (x : ReadEvent) (s : State) : PRes :=
  let be := berth b s
  let set (rd : BitVec 5) (v : W64) : PRes := .go (modBerth b (setS rd v) s)
  let setPred (pd : BitVec 3) (v : Bool) : PRes := .go (modBerth b (setP pd v) s)
  let link (rd : BitVec 5) : State := modBerth b (setS rd (w64 (be.pc.toNat + 1))) s
  match w with
  | .sr op rd a c => set rd (srVal op (sreg be a) (sreg be c))
  | .si op rd a imm => set rd (siVal op (sreg be a) imm)
  | .cmp op pd a c => setPred pd (cmpVal op (sreg be a) (sreg be c))
  | .btst pd a bit => setPred pd ((sreg be a).getLsbD bit.toNat)
  | .plog op pd pa pb => setPred pd (plVal op (preg be pa) (preg be pb))
  | .ld signed rd rb size off => pilotLoad b signed rd rb size off x s
  | .st rs rb size off => pilotStore b rs rb size off s
  | .br off => jumpTo (be.pc.toNat + off.toInt) s s
  | .brl rd off => jumpTo (be.pc.toNat + off.toInt) (link rd) s
  | .jr a => jumpTo (sreg be a).toNat s s
  | .jrl rd a => jumpTo (sreg be a).toNat (link rd) s
  | .nop => .go s
  | .frameEnd =>
    if be.mxq = [] ∧ be.closing = [] ∧ be.vxq = [] ∧ be.mxStopped = false ∧ be.vxStopped = false then .stop s else .wait s
  | .sync mask => if syncDone be mask then .go s else .wait s
  | .rdctx rd sel => set rd (ctxVal b sel.toNat s)
  | .vsetvl src rs rows cols =>
    let r := if src then fld (sreg be rs) 8 8 else rows.toNat
    let c := if src then fld (sreg be rs) 0 8 else cols.toNat
    if vlOk r c then
      .go (modBerth b (fun be => { be with vlRows := BitVec.ofNat 8 r, vlCols := BitVec.ofNat 8 c }) s)
    else .halt Code.vxShape s
  | .ltWait ln pd sn clr =>
    if (be.lt[ln.toNat]).done.toNat < (sreg be sn).toNat % 2 ^ 32 then .wait s
    else .go (modBerth b (fun be =>
      { setP pd be.ltFlag be with ltFlag := if clr then false else be.ltFlag }) s)
  | w =>
    match queueOf w with
    | some n => if hasRoom be n then .go (modBerth b (fun be => enqueue be n (capture be w)) s) else .wait s
    | none => .go s

/-- Applies what a word did to the pilot's state. -/
def settle (b : BerthIdx) (p : BitVec 3) (w : PWord) (r : PRes) : State :=
  match r with
  | .go s => modBerth b (fun be => { be with pc := be.pc + 1 }) s
  | .jump s t => modBerth b (fun be => { be with pc := BitVec.ofNat 16 t }) s
  | .wait s => modBerth b (fun be => { be with pl := .stalled, stall := some (p, w) }) s
  | .halt c s => haltPilot b c s
  | .gone s => s
  | .stop s => checkDoneB b (modBerth b (fun be => { be with pc := be.pc + 1, pl := .idle, ended := true }) s)

/-- The pilot of berth `b` issues word `w` under predicate `p` (R130, R140, R157). A pilot that does not run issues
nothing (log 11). -/
def issue (b : BerthIdx) (p : BitVec 3) (w : PWord) (x : ReadEvent) (s : State) : State :=
  let be := berth b s
  if be.pl ≠ .run then s
  else if 32768 ≤ be.pc.toNat then haltPilot b Code.plPcRange s
  else
    match wordCheck w with
    | some c => haltPilot b c s
    | none =>
      if !preg be p then modBerth b (fun be => { be with pc := be.pc + 1 }) s
      else if (wordReads w ++ wordWrites w).any (fun r => r != 0 && (pendingScal be).contains r) then
        settle b p w (.wait s)
      else settle b p w (pilotExec b w x s)

/-- The stalled pilot of berth `b` tries its word again (R54, R157); `x` is what a load's read meets (R66). -/
def retryStall (b : BerthIdx) (x : ReadEvent) (s : State) : State :=
  let be := berth b s
  match be.stall with
  | some (p, w) =>
    if be.pl = .stalled ∧ !be.dead then
      issue b p w x (modBerth b (fun be => { be with pl := .run, stall := none }) s)
    else s
  | none => s

/-- The lowest-numbered berth whose pilot runs; none while the device is in reset (R457). -/
def runningPilot (s : State) : Option BerthIdx :=
  if inReset s then none
  else (s.berths.find? (fun e => e.2.pl == .run)).map (fun e => BitVec.ofNat 8 e.1)

/-- One word of a running pilot, fetched from its instruction memory and checked (R54, R137, R140; log 1). -/
def pilotCycle (b : BerthIdx) (s : State) : State :=
  let be := berth b s
  if 32768 ≤ be.pc.toNat then haltPilot b Code.plPcRange s
  else
    let w := tget be.imem 0 be.pc.toNat
    match decodeWord w with
    | .error c => haltPilot b c s
    | .ok i => issue b (predOf w) i .clean s

end Sys2Proof.Machine
end

