-- ==== Sys2Proof/Machine/Slots.lean ====
section
/-! DEFINITION. Access to weight-set slots (R218): what other blocks ask of them. -/

namespace Sys2Proof.Machine
open Sys2Proof

/-! ### Weight-set slots -/

def slotKey (set : Nat) (slot : Bool) : Nat := 2 * set + b2n slot
def wsSlot (k : Nat) (s : State) : WsSlot := tget s.weights.slots {} k
def setWeights (w : Weights) (s : State) : State := { s with weights := w }
def setSlot (k : Nat) (x : WsSlot) (s : State) : State :=
  setWeights { s.weights with slots := tset s.weights.slots {} k x } s
def modSlot (k : Nat) (f : WsSlot → WsSlot) (s : State) : State := setSlot k (f (wsSlot k s)) s

def SlotState.code (x : SlotState) : Nat :=
  match x with
  | .free => 0
  | .loading => 1
  | .ready => 2
  | .current => 3
  | .draining => 4

/-- Whether object `o` is a member of a slot. -/
def WsSlot.has (w : WsSlot) (o : Nat) : Bool :=
  w.firstObj.toNat ≤ o && o < w.firstObj.toNat + w.nObj.toNat

/-- The slots that are not FREE and have object `o` as a member (R219, R220, R240). -/
def slotsWith (o : Nat) (s : State) : List Nat :=
  (s.weights.slots.filter (fun e => e.2.st != .free && e.2.has o)).map (·.1)

/-- Whether object `o` is a member of a slot that is not FREE (R220). -/
def busyMember (o : Nat) (s : State) : Bool := slotsWith o s != []

end Sys2Proof.Machine
end

