-- ==== Sys2Proof/Machine/Lighter.lean ====
section
/-! DEFINITION. Lighters and declared channels (R59, R70 to R84). A descriptor starts, its bytes move, and it completes;
bytes of a local move land when it completes. -/

namespace Sys2Proof.Machine
open Sys2Proof

def modLighter (b : BerthIdx) (n : BitVec 2) (f : Lighter → Lighter) (s : State) : State :=
  setLighter b n (f (lighter b n s)) s

/-- A lighter stops with a code: nothing is written, the descriptor does not count (R72). -/
def stopLt (b : BerthIdx) (n : BitVec 2) (c : W16) (s : State) : State :=
  unitReport b (Blk.lt b n.toNat) c (modLighter b n (fun l => { l with stopped := true, run := none }) s)

/-- The domain whose frame the berth runs. -/
def frameDom (b : BerthIdx) (s : State) : Option Nat :=
  match berthDom b s with
  | some d => if isOpen d s then some d else none
  | none => none

/-- Charges bytes that the lighters of a berth move (R284 to R286). -/
def chargeBytes (b : BerthIdx) (written lpx tx rx : Nat) (s : State) : State :=
  charge (frameDom b s) (berthClient b s) written lpx tx rx s

/-! ### Channels (R79 to R81, R327) -/

/-- Lighters of a berth that run a descriptor, with its start order. -/
def running (b : BerthIdx) (s : State) : List (BitVec 2 × Running) :=
  [(0 : BitVec 2), 1, 2, 3].filterMap (fun n => (lighter b n s).run.map (fun r => (n, r)))

/-- The earliest started of a list. -/
def earliest (l : List (BitVec 2 × Running)) : Option (BitVec 2 × Running) :=
  l.foldl (fun m x => match m with
    | none => some x
    | some y => if x.2.start < y.2.start then some x else some y) none

/-- Receives of channel `c` that berth `b` runs, posted or not, and unfilled. -/
def recvs (b : BerthIdx) (c : BitVec 8) (posted : Bool) (s : State) : List (BitVec 2 × Running) :=
  (running b s).filter (fun x => x.2.ent.op == 4 && x.2.ent.chan == c && !x.2.ok && x.2.posted == posted)

def setRun (b : BerthIdx) (n : BitVec 2) (r : Running) (s : State) : State :=
  modLighter b n (fun l => { l with run := some r }) s

/-- The frame-tagged part of the kind header of CHAN and CHAN_POST (R326). -/
def chanHeader (d : Nat) (c : BitVec 8) (consumer producer : BerthIdx) (fmt : Nat) (s : State) : List Byte :=
  pad8 (tagBytes (runTag d s) ++ [c, consumer, producer, BitVec.ofNat 8 fmt])

/-- The consumer's check of the first message of a frame: its entry names the producer and receives (R80). -/
def entryNames (b : BerthIdx) (c : BitVec 8) (recv : Bool) (dev : W16) (peer : BerthIdx) (s : State) : Bool :=
  let e := chanEntry b c s
  chUsable e && chRecv e == recv && chDev e == dev && chBerth e == peer

/-- Posts the oldest receive of a channel that waits for a place (R80). A SEND on this device sees it at once (log 6); the
producer on another device is sent a CHAN_POST. -/
def postRecv (b : BerthIdx) (c : BitVec 8) (s : State) : State :=
  let e := chanEntry b c s
  if (recvs b c true s).length < chDepth e then
    match earliest (recvs b c false s) with
    | none => s
    | some (n, r) =>
      let s := setRun b n { r with posted := true } s
      if chDev e = ownDev s then s
      else
        match frameDom b s with
        | some d =>
          sendFrame (runTag d s)
            { dst := chDev e, kind := 0x21, epoch := (member d s).epoch, body := chanHeader d c b (chBerth e) 0 s } s
        | none => s
  else s

/-- Fills the oldest posted receive of a channel (R80): the message lands in its tile register, scales before rows, and the
watermark reaches the last row (R57). A message that finds no posted receive is lost without a report: the spec is silent
(DESIGN CHOICE, log 36). -/
def fillRecv (b : BerthIdx) (c : BitVec 8) (data : List Byte) (s : State) : State :=
  match earliest (recvs b c true s) with
  | none => s
  | some (n, r) =>
    let s := putTile b (fld r.ent.c 0 4) 0 data s
    postRecv b c (setRun b n { r with ok := true, rows := 128, got := [(0, data)] } s)

/-- Whether a message that reaches its consumer lands: a receive of its channel is posted (R80). -/
def landsAt (b : BerthIdx) (c : BitVec 8) (s : State) : Bool := !(recvs b c true s).isEmpty

/-- A message of a channel reaches its consumer (R80): whether it is taken. -/
def consume (b : BerthIdx) (c : BitVec 8) (dev : W16) (producer : BerthIdx) (data : List Byte) (s : State) :
    Bool × State :=
  if (berth b s).checked.contains c || entryNames b c true dev producer s then
    (true, fillRecv b c data (modBerth b (fun be => { be with checked := c :: (be.checked.erase c) }) s))
  else (false, report ⟨Pg.lighter b, 0⟩ Code.chanUndeclared s)

/-- The bytes of a SEND as its message carries them: of an MX tile, the scale region first (R80). -/
def wireTile (q : QEnt) (data : List Byte) : List Byte :=
  if q.len64 = 0 then data.drop (dataBytes q.fmt) ++ data.take (dataBytes q.fmt) else data

/-- The bytes of a message in the order of the tile register: the inverse of `wireTile` for a message of format `f`. -/
def unwireTile (f : Nat) (data : List Byte) : List Byte :=
  if data.length = tileBytes f then data.drop (scaleBytes f) ++ data.take (scaleBytes f) else data

/-- The FORMAT of a SEND's message; one of bytes is no tile and names format 0, whose tiles have no scales (log 36). -/
def wireFmt (q : QEnt) : Nat := if q.len64 = 0 then q.fmt else 0

/-- The first posting of a channel that has come from another device to a producer. -/
def firstPosting (b : BerthIdx) (c : BitVec 8) (s : State) : Option Posting :=
  (berth b s).postings.find? (fun p => p.chan == c)

/-- SENDs of channel `c` that berth `b` runs and that wait. -/
def sends (b : BerthIdx) (c : BitVec 8) (s : State) : List (BitVec 2 × Running) :=
  (running b s).filter (fun x => x.2.ent.op == 3 && x.2.ent.chan == c && !x.2.sent)

/-- The consumer drops a message and has reported it: the sending lighter stops with the code (R80). -/
def dropSend (b : BerthIdx) (n : BitVec 2) (s : State) : State :=
  setLastErr (Blk.lt b n.toNat) Code.chanUndeclared
    (modLighter b n (fun l => { l with stopped := true, run := none }) s)

/-- The oldest SEND of channel `c` that waits streams, where its consumer has a posted receive (R80). -/
def trySend (b : BerthIdx) (c : BitVec 8) (s : State) : State :=
  match earliest (sends b c s) with
  | none => s
  | some (n, r) =>
    let e := chanEntry b c s
    let data := tileData b (fld r.ent.b 0 4) 0 r.ent.size s
    if chDev e = ownDev s then
      if (recvs (chBerth e) c true s).isEmpty then s
      else
        match consume (chBerth e) c (ownDev s) b data s with
        | (true, s) => setRun b n { r with sent := true, sentData := some data } s
        | (false, s) => dropSend b n s
    else
      match firstPosting b c s, frameDom b s with
      | some p, some d =>
        let m : OutMsg := { dst := p.dev, kind := 0x20, epoch := (member d s).epoch
                            body := chanHeader d c p.berth b (wireFmt r.ent) s ++ wireTile r.ent data }
        setRun b n { r with sent := true, sentData := some data }
          (send m (modBerth b (fun be => { be with postings := be.postings.erase p }) s))
      | _, _ => s

/-- SENDs of a channel that wait stream while they can: a message that lands may let a further receive be posted (R80). A
berth has four lighters. -/
def trySends (b : BerthIdx) (c : BitVec 8) (s : State) : State :=
  trySend b c (trySend b c (trySend b c (trySend b c s)))

/-- The berths of this device with a SEND of channel `c` that waits for berth `b`. -/
def sendersTo (b : BerthIdx) (c : BitVec 8) (s : State) : List BerthIdx :=
  (s.berths.map (fun e => BitVec.ofNat 8 e.1)).filter (fun p =>
    let e := chanEntry p c s
    !(sends p c s).isEmpty && chDev e == ownDev s && chBerth e == b)

/-- A receive has started: it is posted, and SENDs of this device that wait for it stream (R80). -/
def startRecv (b : BerthIdx) (c : BitVec 8) (s : State) : State :=
  let s := postRecv b c s
  foldS (sendersTo b c s) (fun p s => trySends p c s) s

/-! ### Starting a descriptor (R70, R72, R495) -/

/-- ACC_BUSY_OPEN of a descriptor whose source is an OPEN group (R89). -/
def groupBusy (b : BerthIdx) (q : QEnt) (s : State) : Bool :=
  q.srcKind == 1 && openBefore (berth b s) q.seq (fld q.b 0 3)

/-- The code a descriptor is refused with when it is checked. -/
def ltCode (b : BerthIdx) (q : QEnt) (s : State) : Option W16 :=
  match descCode b q s with
  | some c => some c
  | none => if groupBusy b q s then some Code.accBusyOpen else none

/-- Whether a checked descriptor must wait (R56, R58). -/
def ltHeld (be : Berth) (q : QEnt) : Bool :=
  !ready be q || (sliceReads q).any (fun r => readHeld be q.seq r.1 r.2) ||
    (sliceWrites q).any (fun r => writeHeld be q.seq r.1 r.2)

/-- The pieces of at most 65,536 bytes of an access to a peer (R326): offset and length. -/
def peerPieces (n : Nat) : List (Nat × Nat) :=
  (List.range (cdiv n 65536)).map (fun i => (65536 * i, min 65536 (n - 65536 * i)))

/-- The kind header of MEM_GET and MEM_PUT (R326). -/
def memHeader (t : FrameTag) (a : Nat) (count : Option Nat) : List Byte :=
  tagBytes t ++ List.replicate 6 0 ++ leBytes 8 a ++ (match count with
    | some n => pad8 (leBytes 4 n)
    | none => [])

/-- Requests the bytes of a peer (T4 source). -/
def sendGets (b : BerthIdx) (n : BitVec 2) (q : QEnt) (t : FrameTag) (s : State) : State :=
  foldS (peerPieces q.size) (fun p s =>
    let tag := newTag s
    send { dst := q.dev, kind := 0x11, tag := tag, body := memHeader t (q.b.toNat + p.1) (some p.2) }
      { s with reqs := s.reqs ++ [⟨tag, q.dev, .ltGet b n p.1⟩] }) s

/-- Sends bytes to a peer (T4 destination). -/
def sendPuts (b : BerthIdx) (n : BitVec 2) (q : QEnt) (t : FrameTag) (data : List Byte) (s : State) : State :=
  foldS (peerPieces q.size) (fun p s =>
    let tag := newTag s
    send { dst := q.dev, kind := 0x10, tag := tag
           body := memHeader t (q.c.toNat + p.1) none ++ (data.drop p.1).take p.2 }
      { s with reqs := s.reqs ++ [⟨tag, q.dev, .ltPut b n⟩] }) s

/-- The frame tag under which a descriptor's requests travel. -/
def descTag (b : BerthIdx) (s : State) : FrameTag :=
  match frameDom b s with
  | some d => runTag d s
  | none => ⟨0, 0, true, 0⟩

/-- The bytes of a source on this device. -/
def srcBytes (b : BerthIdx) (q : QEnt) (s : State) : List Byte :=
  match q.srcKind with
  | 0 => tileData b (fld q.b 0 4) 0 q.size s
  | 1 => groupData b (fld q.b 0 3) 0 q.size s
  | _ => readPieces (if q.driver then none else frameDom b s) (piecesOf q.b.toNat q.size) s

/-- Prepares the source and the destination of a descriptor that moves bytes on this device. -/
def prepMove (b : BerthIdx) (q : QEnt) (s : State) : Acc × State :=
  let d := if q.driver then none else frameDom b s
  let rd : Acc × State :=
    if 2 ≤ q.srcKind ∧ q.srcKind ≤ 4 then prepReads d (piecesOf q.b.toNat q.size) s else (.ok, s)
  match rd with
  | (.ok, s) =>
    if 2 ≤ q.dstKind ∧ q.dstKind ≤ 4 then
      match d with
      | some d => prepWrites d (piecesOf q.c.toNat q.size) s
      | none => (.ok, s)
    else (.ok, s)
  | r => r

/-- What the memories report while the source is read (R66, R213): whether data comes. -/
def srcEvent (b : BerthIdx) (n : BitVec 2) (q : QEnt) (x : ReadEvent) (s : State) : Bool × State :=
  match q.srcKind with
  | 2 => sliceEvent b (Blk.lt b n.toNat) q.b.toNat x s
  | 3 => sliceEvent (BitVec.ofNat 8 (q.b.toNat / 0x10000000)) (Blk.lt b n.toNat) q.b.toNat x s
  | 4 => lpxEvent (if q.driver then none else frameDom b s) q.b.toNat x s
  | _ => (true, s)

/-- The lost position that a read of a peer's memory meets, with the domain that reads (R364). -/
def peerLost (b : BerthIdx) (q : QEnt) (s : State) : Option (Nat × Nat × Nat) :=
  match frameDom b s with
  | some d => (lostPosAt d q.dev ((piecesOf q.b.toNat q.size).map (·.1)) s).map (fun p => (d, p))
  | none => none

/-- The source of a descriptor has brought no data: a POISONED extent recalls the frame (R214), after an error of the slice the
descriptor never completes (R66). `s0` is the state before the read, whose errors are one cycle's (R410). -/
def srcLost (b : BerthIdx) (n : BitVec 2) (r : Running) (a : Nat) (s0 s : State) : State :=
  match (if r.ent.srcKind = 4 then frameDom b s else none) with
  | some d => firstOfCycle s0 (poisonRecall d (extOf a).1 s)
  | none => modLighter b n (fun l => { l with run := some { r with dead := true } }) s

/-- Takes the descriptor at the head of the queue and runs it. -/
def ltBegin (b : BerthIdx) (n : BitVec 2) (q : QEnt) (x : ReadEvent) (s : State) : State :=
  let k := (berth b s).starts
  let s := modBerth b (fun be => { be with starts := k + 1 }) s
  let s := modLighter b n (fun l => { l with queue := l.queue.tail, run := some { ent := q, start := k } }) s
  match q.op with
  | 3 => trySends b q.chan s
  | 4 => startRecv b q.chan s
  | _ =>
    match prepMove b q s with
    | (.refused c, s) => stopLt b n c s
    | (.recalled, s) => s
    | (_, s) =>
      match srcEvent b n q x s with
      | (false, t) => srcLost b n { ent := q, start := k } (q.b.toNat + x.off) s t
      | (true, s) =>
        let w := (peerPieces q.size).length
        if q.srcKind = 5 then
          match peerLost b q s with
          | some (d, p) => positionRecall d p q.dev s
          | none => setRun b n { ent := q, start := k, wait := w } (sendGets b n q (descTag b s) s)
        else if q.dstKind = 5 then
          setRun b n { ent := q, start := k, wait := w, sentData := some (srcBytes b q s) }
            (sendPuts b n q (descTag b s) (srcBytes b q s) s)
        else s

/-- LT_DESC_START: the descriptor at the head of the queue is checked and starts (R70, R495). -/
def ltStart (b : BerthIdx) (n : BitVec 2) (x : ReadEvent) (s : State) : State :=
  let l := lighter b n s
  match l.queue with
  | [] => s
  | q :: _ =>
    if l.stopped ∨ l.run.isSome then s
    else
      match ltCode b q s with
      | some c => stopLt b n c (modLighter b n (fun l => { l with queue := l.queue.tail }) s)
      | none => if ltHeld (berth b s) q then s else ltBegin b n q x s

/-! ### Completion (R70, R73, R74) -/

/-- The bytes a descriptor read, in source order: those that it has sent, where it sends them (R73, R74). -/
def readBytes (b : BerthIdx) (r : Running) (s : State) : List Byte :=
  match r.sentData with
  | some bs => bs
  | none =>
  if r.ent.op = 4 ∨ r.ent.srcKind = 5 then
    ((List.range r.got.length).flatMap (fun i =>
      ((r.got.find? (fun g => g.1 == 65536 * i)).getD (0, [])).2))
  else srcBytes b r.ent s

/-- Loads words into instruction memory from byte offset `o` (R59). -/
def loadImem (be : Berth) (o : Nat) (bs : List Byte) : Berth :=
  (List.range (bs.length / 8)).foldl (fun be i =>
    { be with imem := tset be.imem 0 (o / 8 + i) (w64 (leAt bs (8 * i) 8)) }) be

/-- Stores the bytes of a descriptor at a destination on this device. -/
def landDesc (b : BerthIdx) (q : QEnt) (bs : List Byte) (s : State) : State :=
  match q.dstKind with
  | 0 => if q.op = 4 then s else putTile b (fld q.c 0 4) 0 bs s
  | 5 => s
  | 6 => modBerth b (fun be => loadImem be q.c.toNat bs) s
  | 7 => s
  | _ => landBytes (piecesOf q.c.toNat q.size) bs s

/-- Whether a descriptor's bytes have all moved: no response outstanding, its message sent and acknowledged or its receive
filled, no version-on-write copy pending at its destination. -/
def descDone (r : Running) (s : State) : Bool :=
  !r.dead && r.wait == 0 && ((r.ent.op != 3 && r.ent.op != 4) || r.ok) &&
    !(2 ≤ r.ent.dstKind && r.ent.dstKind ≤ 4 &&
      (piecesOf r.ent.c.toNat r.ent.size).any (fun p => (ext p.1 s).kind == .object && cowOn p.1 s))

/-- A CHECK comparison that fails (R74): flag, report, and a lasting transfer digest fault of weight 0 (R337, R347). -/
def checkFail (b : BerthIdx) (n : BitVec 2) (q : QEnt) (s : State) : State :=
  let s := modBerth b (fun be => { be with ltFlag := true }) s
  let s := modLighter b n (fun l => { l with mismatch := true }) s
  let s := report (Blk.lt b n.toNat) Code.digestMismatch s
  lastingFault Code.digestMismatch 0
    { page := Pg.lighter b, src := if q.srcKind = 5 then q.dev else ownDev s
      addr := if memKind q.srcKind then q.b.toNat else 0, dom := frameDom b s
      port := if q.srcKind = 5 then lastPort q.dev s else 0xFF } s

/-- The first extent of this device that a descriptor reads or writes and that has been POISONED since it started (R214). -/
def lostExt (q : QEnt) (s : State) : Option Nat :=
  let part (k a : Nat) : List Nat := if 2 ≤ k ∧ k ≤ 4 then (piecesOf a q.size).map (·.1) else []
  (part q.srcKind q.b.toNat ++ part q.dstKind q.c.toNat).find? (fun x =>
    (ext x s).st == .poisoned || (ext x s).st == .rebuilding)

/-- The frame of a descriptor is recalled for a POISONED extent; a load of the driver never completes (R214; log 16). -/
def ltPoisoned (b : BerthIdx) (n : BitVec 2) (r : Running) (x : Nat) (s : State) : State :=
  match (if r.ent.driver then none else frameDom b s) with
  | some d => poisonRecall d x s
  | none => setRun b n { r with dead := true } s

/-- LT_DESC_COMPLETE (R70). -/
def ltComplete (b : BerthIdx) (n : BitVec 2) (s : State) : State :=
  match (lighter b n s).run with
  | none => s
  | some r =>
    if !descDone r s then s
    else
    match lostExt r.ent s with
    | some x => ltPoisoned b n r x s
    | none =>
      let q := r.ent
      let src := readBytes b r s
      let dst := if q.transpose then transposeTile q.fmt q.axis src else src
      let s := landDesc b q dst s
      let s := modLighter b n (fun l => { l with run := none, done := l.done + 1, digest := crc64 dst }) s
      let s := if q.check ∧ crc64 src ≠ q.d then checkFail b n q s else s
      let lpx := (if q.srcKind = 4 then q.size else 0) + (if q.dstKind = 4 then q.size else 0)
      let remote := q.op = 3 ∧ chDev (chanEntry b q.chan s) ≠ ownDev s
      let s := chargeBytes b (if q.op = 3 then 0 else src.length) lpx
        (if q.dstKind = 5 ∨ remote then q.size else 0) (if q.srcKind = 5 then q.size else 0) s
      checkDoneB b s

/-! ### LT_GO (R59) -/

/-- The descriptor that LT_DESC0 to LT_DESC7 hold. -/
def driverDesc (l : Lighter) : QEnt :=
  let w (i : Nat) : W64 := w64 ((l.desc.toList.getD i 0).toNat + (l.desc.toList.getD (i + 1) 0).toNat * 2 ^ 32)
  { seq := 0, w := .nop, a := w 0, b := w 2, c := w 4, d := w 6, driver := true }

/-- A write of 1 to LT_GO submits an IMEM_LOAD, checked at the write (R59). A descriptor that R72 or R137 refuses gets that code
also at a lighter that is STOPPED or full: R59 gives no order of its refusals (DESIGN CHOICE, log 43). -/
def putLtGo (b : BerthIdx) (n : BitVec 2) (v : W32) (s : State) : WRes :=
  let l := lighter b n s
  let q := driverDesc l
  if v.getLsbD 0 then
    if q.op ≠ 5 then .error Code.ltBadDesc
    else
      match descCode b q s with
      | some c => .error c
      | none =>
        if l.stopped ∨ 8 ≤ l.queue.length then .error Code.imemBusy
        else .ok (modLighter b n (fun l => { l with queue := l.queue ++ [q] }) s)
  else .ok s

/-! ### Requests from other devices on channels (R80, R327) -/

/-- The berth and the channel of a message are those of the open run that its tag names, in the epoch of its domain (R233,
R263). -/
def chanLive (h : ChanHdr) (s : State) : Bool × State :=
  match epochOk h.tag.dom.toNat h.epoch s with
  | (false, s) => (false, s)
  | (true, s) => (tagLive h.tag s, s)

/-- CHAN_POST: a posting reaches its producer (R327). -/
def takePost (h : ChanHdr) (s : State) : State :=
  match chanLive h s with
  | (false, s) => s
  | (true, s) =>
    if entryNames h.producer h.chan false h.src h.consumer s then
      trySends h.producer h.chan
        (modBerth h.producer (fun be => { be with postings := be.postings ++ [⟨h.chan, h.src, h.consumer⟩] }) s)
    else report ⟨Pg.lighter h.producer, 0⟩ Code.chanUndeclared s

/-- CHAN: a message from another device fills the oldest posted receive, and its producer is sent the acknowledgement, or the
notice that the message was dropped (R80). -/
def takeChan (h : ChanHdr) (data : List Byte) (s : State) : State :=
  match chanLive h s with
  | (false, s) => s
  | (true, s) =>
    let lands := landsAt h.consumer h.chan s
    match consume h.consumer h.chan h.src h.producer data (chargeBytes h.consumer 0 0 0 data.length s) with
    | (true, s) => if lands then post (.chanAck h.src h.producer h.chan false) s else s
    | (false, s) => post (.chanAck h.src h.producer h.chan true) s

/-- CHAN_ACK: the consumer's acknowledgement reaches the producer and the SEND completes; where the consumer has dropped the
message, the sending lighter stops (R80). -/
def takeChanAck (b : BerthIdx) (n : BitVec 2) (dropped : Bool) (s : State) : State :=
  match (lighter b n s).run with
  | some r =>
    if r.ent.op = 3 ∧ r.sent then
      if dropped then dropSend b n s else ltComplete b n (setRun b n { r with ok := true } s)
    else s
  | none => s

end Sys2Proof.Machine
end

