-- ==== Sys2Proof/Machine/Transc.lean ====
section
/-! DEFINITION. The reference functions (R179): e^x, 2^x, ln, log2, 1/√x, tanh, sigmoid, erf of a finite FP32 argument,
rounded toward zero. Values are fixed-point numbers of `tp` fraction bits; where a value is irrational it is given as
an interval so narrow that no FP32 boundary lies in it (log 12). -/

namespace Sys2Proof.Machine
open Sys2Proof

/-- Fraction bits of the fixed-point values. -/
def tp : Nat := 700

/-- Bits below which a computed value may be wrong. -/
def tslack : Nat := 64

/-- A fixed-point number as a value whose last `tslack` bits are not relied on. -/
def ofFix (neg : Bool) (x : Nat) : Val := .fin neg (x / 2 ^ tslack) (-((tp : Int) - tslack)) true

/-- The argument as a fixed-point magnitude; every FP32 value is a multiple of 2^−149. -/
def toFix (m : Nat) (e : Int) : Nat := m * 2 ^ (e + tp).toNat

/-- Terms of 2·artanh(z) for fixed-point z: `pw` is z^(2k+1). -/
def atanhGo (z2 : Nat) (n k pw acc : Nat) : Nat :=
  match n with
  | 0 => 2 * acc
  | n + 1 => atanhGo z2 n (k + 1) (pw * z2 / 2 ^ tp) (acc + pw / (2 * k + 1))

def atanh2 (z : Nat) : Nat := atanhGo (z * z / 2 ^ tp) 240 0 z 0

/-- ln 2 = 2·artanh(1/3). -/
def ln2Fix : Nat := atanh2 (2 ^ tp / 3)

/-- Terms of e^r for r below ln 2. -/
def expGo (r : Nat) (n k t acc : Nat) : Nat :=
  match n with
  | 0 => acc
  | n + 1 =>
    let t := t * r / 2 ^ tp / (k + 1)
    expGo r n (k + 1) t (acc + t)

def expSmall (r : Nat) : Nat := expGo r 150 0 (2 ^ tp) (2 ^ tp)

/-- e^x for a fixed-point x ≥ 0: fixed point. -/
def expPos (x : Nat) : Nat := expSmall (x % ln2Fix) * 2 ^ (x / ln2Fix)

/-- e^−x for x ≥ 0. -/
def expNeg (x : Nat) : Nat := 2 ^ (2 * tp) / expPos x

/-- A result just below 1 in magnitude. -/
def justBelowOne (neg : Bool) : Val := .fin neg (2 ^ 200 - 1) (-200) true

/-- A result that is positive and below every FP32 value. -/
def tiny (neg : Bool) : Val := .fin neg 0 (-400) true

/-- A result above every FP32 value. -/
def huge (neg : Bool) : Val := .fin neg 1 300 false

/-- e^x (R179). -/
def expVal (s : Bool) (m : Nat) (e : Int) : Val :=
  if m = 0 then one
  else if 8 ≤ leadExp m e then (if s then tiny false else huge false)
  else ofFix false (if s then expNeg (toFix m e) else expPos (toFix m e))

/-- 2^x: exact for an integer x. -/
def exp2Val (s : Bool) (m : Nat) (e : Int) : Val :=
  if m = 0 then one
  else if 8 ≤ leadExp m e then (if s then tiny false else huge false)
  else
    let x := toFix m e
    let i := x / 2 ^ tp
    let f := x % 2 ^ tp
    if f = 0 then .fin false 1 (if s then -i else i) false
    else
      let y := expSmall (f * ln2Fix / 2 ^ tp) * 2 ^ i
      ofFix false (if s then 2 ^ (2 * tp) / y else y)

/-- The exponent and the fixed-point natural logarithm of the mantissa in [1, 2). -/
def lnParts (m : Nat) (e : Int) : Int × Nat :=
  let k := leadExp m e
  let y := m * 2 ^ (tp - m.log2)
  (k, atanh2 ((y - 2 ^ tp) * 2 ^ tp / (y + 2 ^ tp)))

/-- A signed fixed-point number as a value. -/
def ofFixInt (x : Int) : Val := ofFix (x < 0) x.natAbs

/-- ln x for x > 0 (R179). -/
def lnVal (m : Nat) (e : Int) : Val :=
  let (k, l) := lnParts m e
  if k = 0 ∧ l = 0 then zero else ofFixInt (k * ln2Fix + l)

/-- log2 x for x > 0: exact for a power of two. -/
def log2Val (m : Nat) (e : Int) : Val :=
  let (k, l) := lnParts m e
  if l = 0 then .fin (k < 0) k.natAbs 0 false
  else ofFixInt (k * 2 ^ tp + l * 2 ^ tp / ln2Fix)

/-- 1/√x for x > 0: the root of the quotient, exact where x is an even power of two. -/
def rsqrtVal (m : Nat) (e : Int) : Val :=
  let (m, e) := if e % 2 = 0 then (m, e) else (2 * m, e - 1)
  let r := isqrt (2 ^ (2 * tp) / m)
  .fin false r (-(tp : Int) - e / 2) (r * r * m != 2 ^ (2 * tp))

/-- tanh x (R179). For |x| < 2^−60 the value lies between x and the number before it. -/
def tanhVal (s : Bool) (m : Nat) (e : Int) : Val :=
  if leadExp m e < -60 then .fin s (m * 2 ^ 80 - 1) (e - 80) true
  else if 6 ≤ leadExp m e then justBelowOne s
  else
    let y := expPos (2 * toFix m e)
    ofFix s ((y - 2 ^ tp) * 2 ^ tp / (y + 2 ^ tp))

/-- 1/(1 + e^−x) (R179). -/
def sigmoidVal (s : Bool) (m : Nat) (e : Int) : Val :=
  if m = 0 then .fin false 1 (-1) false
  else if 8 ≤ leadExp m e then (if s then tiny false else justBelowOne false)
  else
    let y := expPos (toFix m e)
    ofFix false ((if s then 2 ^ (2 * tp) else y * 2 ^ tp) / (y + 2 ^ tp))

/-- Terms of the series of erf, without the factor 2/√π: `t` is x^(2k+1)/k!. -/
def erfGo (x2 : Nat) (n k t : Nat) (acc : Int) : Int :=
  match n with
  | 0 => acc
  | n + 1 =>
    let d : Int := t / (2 * k + 1)
    erfGo x2 n (k + 1) (t * x2 / 2 ^ tp / (k + 1)) (if k % 2 = 0 then acc + d else acc - d)

/-- arctan(1/n) in fixed point. -/
def atanInvGo (n2 : Nat) (n k pw : Nat) (acc : Int) : Int :=
  match n with
  | 0 => acc
  | n + 1 =>
    let d : Int := pw / (2 * k + 1)
    atanInvGo n2 n (k + 1) (pw / n2) (if k % 2 = 0 then acc + d else acc - d)

def atanInv (n : Nat) : Int := atanInvGo (n * n) 200 0 (2 ^ tp / n) 0

/-- 2/√π from π = 16·arctan(1/5) − 4·arctan(1/239). -/
def twoOverRootPi : Nat :=
  let pi := (16 * atanInv 5 - 4 * atanInv 239).toNat
  2 ^ (2 * tp + 1) / isqrt (pi * 2 ^ tp)

/-- erf x (R179). For |x| < 2^−60 the value is 2x/√π less a part below 2^−118 of it. -/
def erfVal (s : Bool) (m : Nat) (e : Int) : Val :=
  if leadExp m e < -60 then .fin s (m * twoOverRootPi / 2 ^ (tp - 100) - 1) (e - 100) true
  else if 3 ≤ leadExp m e then justBelowOne s
  else
    let x := toFix m e
    ofFix s ((erfGo (x * x / 2 ^ tp) 500 0 x 0).toNat * twoOverRootPi / 2 ^ tp)

/-- The functions of R179. -/
inductive Fn where
  | rsqrt | exp | exp2 | ln | log2 | tanh | sigmoid | erf
  deriving DecidableEq, Repr

/-- The exact value of a function at an FP32 argument with the flags NV and DZ (the special argument table). -/
def fnVal (f : Fn) (x : Val) : Val × VFlags :=
  let nv := flag false false true false false false
  let dz := flag false false false true false false
  match x with
  | .nan => (.nan, 0)
  | .inf s =>
    (match f with
    | .exp => (if s then zero else .inf false, 0)
    | .exp2 => (if s then zero else .inf false, 0)
    | .ln => if s then (.nan, nv) else (.inf false, 0)
    | .log2 => if s then (.nan, nv) else (.inf false, 0)
    | .rsqrt => if s then (.nan, nv) else (zero, 0)
    | .tanh => (.fin s 1 0 false, 0)
    | .erf => (.fin s 1 0 false, 0)
    | .sigmoid => (if s then zero else one, 0))
  | .fin s m e _ =>
    (match f with
    | .exp => (expVal s m e, 0)
    | .exp2 => (exp2Val s m e, 0)
    | .sigmoid => (sigmoidVal s m e, 0)
    | .tanh => (if m = 0 then x else tanhVal s m e, 0)
    | .erf => (if m = 0 then x else erfVal s m e, 0)
    | .ln => if m = 0 then (.inf true, dz) else if s then (.nan, nv) else (lnVal m e, 0)
    | .log2 => if m = 0 then (.inf true, dz) else if s then (.nan, nv) else (log2Val m e, 0)
    | .rsqrt => if m = 0 then (.inf s, dz) else if s then (.nan, nv) else (rsqrtVal m e, 0))

/-- The FP32 reference result: RZ, but infinity of its sign with OF where the magnitude is 2^128 or more (R179).
Its UF and OF count whatever the destination format: for FP64 and MX the spec leaves that open (DESIGN CHOICE, log 41). -/
def fnRef (f : Fn) (x : Val) : Val × VFlags :=
  let (v, fl) := fnVal f x
  let ov := match v with
    | .fin _ m e _ => m != 0 && decide (128 ≤ leadExp m e)
    | _ => false
  if ov then (.inf v.neg, fl ||| flag false false false false true false)
  else
    let (bits, f2) := roundVal fp32 .rz v
    (decodeNum fp32 bits, fl ||| (f2 &&& flag false false false false true true))

end Sys2Proof.Machine
end

