-- ==== Sys2Proof/Machine/VecOps.lean ====
section
/-! DEFINITION. The operations of the vector engine on single elements (R119 to R125, R149, R180, R181). -/

namespace Sys2Proof.Machine
open Sys2Proof

def nvIf (b : Bool) : VFlags := flag false false b false false false
def dzIf (b : Bool) : VFlags := flag false false false b false false
def niIf (b : Bool) : VFlags := flag false b false false false false

/-- The flags of a rounding that is not the result written: all but NF (R125). -/
def innerFlags (fl : VFlags) : VFlags := fl &&& 0x1F

/-! ### Order of values (R122) -/

/-- Whether |a| < |b| for values that are not NaN. -/
def magLt (a b : Val) : Bool :=
  match a, b with
  | .inf _, _ => false
  | _, .inf _ => true
  | .fin _ m e _, .fin _ n g _ =>
    let d := min e g
    shiftTo m e d < shiftTo n g d
  | _, _ => false

/-- Whether a < b, −0 below +0. -/
def valLt (a b : Val) : Bool :=
  if a.neg != b.neg then a.neg
  else if a.neg then magLt b a else magLt a b

def vMax (a b : Val) : Val := if a.isNan || b.isNan then .nan else if valLt a b then b else a
def vMin (a b : Val) : Val := if a.isNan || b.isNan then .nan else if valLt b a then b else a

/-! ### Elementwise results before their rounding (R120, R121) -/

/-- A sum with its NV. -/
def addF (a b : Val) : Val × VFlags :=
  let s := vAdd a b
  (s, nvIf (s.isNan && !a.isNan && !b.isNan))

def mulF (a b : Val) : Val × VFlags :=
  let s := vMul a b
  (s, nvIf (s.isNan && !a.isNan && !b.isNan))

def fmaF (a b c : Val) : Val × VFlags :=
  let (p, f1) := mulF a b
  let (s, f2) := addF p c
  (s, f1 ||| f2)

def divF (a b : Val) : Val × VFlags :=
  let s := vDiv a b
  (s, nvIf (s.isNan && !a.isNan && !b.isNan) |||
    dzIf (b.isZero && !a.isZero && !a.isNan && !a.isInf))

def sqrtF (a : Val) : Val × VFlags :=
  let s := vSqrt a
  (s, nvIf (s.isNan && !a.isNan))

/-- The FP32 argument of a reference function: A, or A − B, rounded with RNE (R121). -/
def fnArg (a : Val) (b : Option Val) : Val × VFlags :=
  let (x, f1) := match b with
    | some b => addF a b.negate
    | none => (a, 0)
  let (bits, f2) := roundVal fp32 .rne x
  (decodeNum fp32 bits, f1 ||| innerFlags f2)

def refF (f : Fn) (a : Val) (b : Option Val) : Val × VFlags :=
  let (x, f1) := fnArg a b
  let (y, f2) := fnRef f x
  (y, f1 ||| f2)

/-- The operations of groups 0x9 and 0xA: `b` is none where B is absent, `c` the old destination element of VFMA. -/
def vecVal (op : VOp) (a : Val) (b : Option Val) (c : Val) : Val × VFlags :=
  let y := b.getD zero
  match op with
  | .vadd => addF a y
  | .vsub => addF a y.negate
  | .vmul => mulF a y
  | .vfma => fmaF a y c
  | .vmax => (vMax a y, 0)
  | .vmin => (vMin a y, 0)
  | .vdiv => divF a y
  | .vabs => (a.absolute, 0)
  | .vneg => (a.negate, 0)
  | .vcvt => (a, 0)
  | .vrcp => divF one a
  | .vsqrt => sqrtF a
  | .vrsqrt => refF .rsqrt a none
  | .vexp => refF .exp a b
  | .vexp2 => refF .exp2 a b
  | .vlog => refF .ln a b
  | .vlog2 => refF .log2 a b
  | .vtanh => refF .tanh a none
  | .vsigmoid => refF .sigmoid a none
  | .verf => refF .erf a none

/-! ### Optimiser arithmetic (R180, R181) -/

/-- rne(x) with the flags gathered so far: those of every intermediate step count but NF, as in a reduction (R125), since R180 and
R181 do not say (DEDUCED, log 13). -/
def rneF (x : Val × VFlags) : Val × VFlags :=
  let (b, fl) := roundVal fp32 .rne x.1
  (decodeNum fp32 b, x.2 ||| innerFlags fl)

def rneMul (a b : Val × VFlags) : Val × VFlags :=
  let (v, fl) := mulF a.1 b.1
  rneF (v, a.2 ||| b.2 ||| fl)

def rneAdd (a b : Val × VFlags) : Val × VFlags :=
  let (v, fl) := addF a.1 b.1
  rneF (v, a.2 ||| b.2 ||| fl)

def rneSub (a b : Val × VFlags) : Val × VFlags := rneAdd a (b.1.negate, b.2)

/-- rne(a * b + c), exact inside. -/
def rneFma (a b c : Val × VFlags) : Val × VFlags :=
  let (v, fl) := fmaF a.1 b.1 c.1
  rneF (v, a.2 ||| b.2 ||| c.2 ||| fl)

def pureV (v : Val) : Val × VFlags := (v, 0)

/-- opt_mom (R180): the new m and v. -/
def optMom (m v g b1 b2 : Val) : (Val × VFlags) × (Val × VFlags) :=
  let one' := pureV one
  (rneFma (pureV b1) (pureV m) (rneMul (rneSub one' (pureV b1)) (pureV g)),
   rneFma (pureV b2) (pureV v) (rneMul (rneSub one' (pureV b2)) (rneMul (pureV g) (pureV g))))

/-- opt_step (R180): the update u. -/
def optStep (m v alpha c2 eps : Val) : Val × VFlags :=
  let p := rneMul (pureV alpha) (pureV m)
  let q := rneMul (pureV c2) (pureV v)
  let (r, f1) := sqrtF q.1
  let den := rneAdd (rneF (r, q.2 ||| f1)) (pureV eps)
  let d := vDiv p.1 den.1
  rneF (d, p.2 ||| den.2 ||| nvIf (d.isNan && !p.1.isNan && !den.1.isNan))

/-- The exponent of ulp(w) of a finite BF16 weight (R164). -/
def ulpExp (w : Nat) : Int := if w / 128 % 256 = 0 then -133 else (w / 128 % 256 : Nat) - 134

/-- The integer nearest to a value times 2^−k, ties to even. -/
def rneInt (v : Val) (k : Int) : Int :=
  match v with
  | .fin s m e _ =>
    let sh := e - k
    let n : Nat := if 0 ≤ sh then m * 2 ^ sh.toNat
      else
        let d := 2 ^ (-sh).toNat
        let q := m / d
        let r := m % d
        if d < 2 * r ∨ (d = 2 * r ∧ q % 2 = 1) then q + 1 else q
    if s then -n else n
  | _ => 0

/-- apply_unprivileged (R181): the bits of w and c, and the flags. -/
def applyUnpriv (w : Nat) (c : Byte) (u lam : Val) : Nat × Byte × VFlags :=
  let wv := decodeNum bf16 w
  let v := if wv.isNan || wv.isInf then wv
    else vAdd wv (.fin (c.toInt < 0) c.toInt.natAbs (ulpExp w - 8) false)
  let x := rneSub (pureV v) (rneAdd (pureV u) (rneMul (pureV lam) (pureV v)))
  let (w2, fl) := roundVal bf16 .rne x.1
  let w2v := decodeNum bf16 w2
  if w2v.isNan || w2v.isInf then (w2, 0, x.2 ||| fl)
  else
    let c2 := rneInt (vSub x.1 w2v) (ulpExp w2 - 8)
    (w2, BitVec.ofInt 8 (min (max c2 (-128)) 127), x.2 ||| fl)

/-- apply_privileged (R181): the bits of the master and of w. -/
def applyPriv (master u lam : Val) : Nat × Nat × VFlags :=
  let m := rneSub (pureV master) (rneAdd (pureV u) (rneMul (pureV lam) (pureV master)))
  let (mb, f1) := roundVal fp32 .rne m.1
  let (wb, f2) := roundVal bf16 .rne m.1
  (mb, wb, m.2 ||| f1 ||| f2)

end Sys2Proof.Machine
end

