-- ==== Sys2Proof/Machine/Vxe.lean ====
section
/-! DEFINITION. The vector engine (R112 to R128, R148 to R156, R496): checks, passes, reductions, element access, optimiser
updates and flag summaries. -/

namespace Sys2Proof.Machine
open Sys2Proof

/-! ### Checks (R117 to R119, R148 to R151, R155, R496) -/

/-- The formats that a word names for operands other than scalars. A word is an FP64 instruction where one of them is FP64, so
that VCVT of a scalar FP64 into an FP32 tile is refused (R119; R113 could be read otherwise; DEDUCED, log 43). -/
def vecTileFmts (v : VFields) : List Nat :=
  v.fd.toNat :: ((if v.ma = 3 then [] else [v.fa.toNat]) ++ (if v.mb = 3 ∨ v.b = 31 then [] else [v.fb.toNat]))

/-- A source operand field that is refused (R118, R148): a reserved code, NONE, a group not FP32, or a scalar whose format
is neither FP32 nor, in an FP64 instruction, FP64. -/
def srcBad (m : BitVec 2) (c : BitVec 5) (f : Nat) (is64 : Bool) : Bool :=
  if m = 3 then !(f == 0 || (f == 10 && is64))
  else decide (24 ≤ c.toNat) || (decide (16 ≤ c.toNat) && f != 0)

/-- Whether B is absent: NONE in mode FULL. -/
def bAbsent (m : BitVec 2) (b : BitVec 5) : Bool := m == 0 && b == 31

/-- Whether an operation takes B, and whether it may be absent (R149). -/
def takesB (op : VOp) : Bool × Bool :=
  match op with
  | .vadd => (true, false)
  | .vsub => (true, false)
  | .vmul => (true, false)
  | .vfma => (true, false)
  | .vmax => (true, false)
  | .vmin => (true, false)
  | .vdiv => (true, false)
  | .vexp => (true, true)
  | .vexp2 => (true, true)
  | .vlog => (true, true)
  | .vlog2 => (true, true)
  | _ => (false, true)

/-- A source in mode RB or CB that names the destination (R119). -/
def bcastDest (m : BitVec 2) (c d : BitVec 5) : Bool := (m == 1 || m == 2) && c == d

/-- A vector word's fields are none that its operation allows (R149). For a word whose B column is NONE and whose B field or
MB names something else the spec gives no code: it is refused with VX_BAD_OPERAND (DESIGN CHOICE, log 39). -/
def vecBad (op : VOp) (v : VFields) : Bool :=
  let is64 := (vecTileFmts v).contains 10
  let (takes, optional) := takesB op
  v.fd.toNat > 10 || v.fa.toNat > 10 || v.fb.toNat > 10 || v.rm == 3 ||
    srcBad 0 v.d v.fd.toNat is64 || srcBad v.ma v.a v.fa.toNat is64 || bcastDest v.ma v.a v.d ||
    (if bAbsent v.mb v.b then takes && !optional
     else !takes || srcBad v.mb v.b v.fb.toNat is64 || bcastDest v.mb v.b v.d)

def vecShape (q : QEnt) (v : VFields) : Bool :=
  ((v.fd == 10 || v.fa == 10 || (v.fb == 10 && !bAbsent v.mb v.b)) && decide (64 < q.cols.toNat)) ||
    (isMx v.fd.toNat && !v.xd && q.cols.toNat % 32 != 0) || (isMx v.fd.toNat && v.xd && q.rows.toNat % 32 != 0)

def redBad (v : RdFields) : Bool :=
  let fs := (if v.ma = 3 then [] else [v.fa.toNat]) ++ (if v.mb = 3 ∨ v.b = 31 then [] else [v.fb.toNat])
  let is64 := fs.contains 10
  v.fa.toNat > 10 || v.fb.toNat > 10 || v.op.toNat > 4 || v.axis == 3 || srcBad v.ma v.a v.fa.toNat is64 ||
    (!bAbsent v.mb v.b && srcBad v.mb v.b v.fb.toNat is64) ||
    (v.axis != 2 && (decide (16 ≤ v.d.toNat) || bcastDest v.ma v.a v.d || bcastDest v.mb v.b v.d))

/-- The groups that a word touches. -/
def vxGroups (q : QEnt) : List Nat := ((readsOf q ++ writesOf q).filter (fun r => 16 ≤ r)).map (· - 16)

/-- The tile registers of an optimiser word and its operand G (R155). -/
def optRegs (w : PWord) : List Nat × Option (BitVec 5) :=
  match w with
  | .optMom t1 t2 g _ => ([t1.toNat, t2.toNat], some g)
  | .optStep t1 t2 t4 _ _ => ([t1.toNat, t2.toNat, t4.toNat], none)
  | .optApply t1 t2 t4 g _ sc => (if sc = 0 then [t1.toNat, t2.toNat] else [t1.toNat, t2.toNat, t4.toNat], some g)
  | _ => ([], none)

def optAliased (w : PWord) : Bool :=
  let (ts, g) := optRegs w
  !((ts ++ (match g with
    | some g => if g.toNat < 16 then [g.toNat] else []
    | none => [])).Nodup : Bool)

/-- The code a VXE word is refused with, in the order of R496. R148 names the operand codes of formats V, RD and EA only; G
codes 24 to 31 of OPT.MOM and OPT.APPLY are refused with VX_BAD_OPERAND too (R154; DESIGN CHOICE, log 39). -/
def vxCode (b : BerthIdx) (q : QEnt) (s : State) : Option W16 :=
  let be := berth b s
  let bad := match q.w with
    | .vec op v => vecBad op v
    | .vred v => redBad v
    | .vget _ a _ fa _ => decide (10 < fa.toNat) || srcBad 0 a fa.toNat false
    | .vput d _ _ fd => decide (10 < fd.toNat) || isMx fd.toNat || srcBad 0 d fd.toNat false
    | w => match (optRegs w).2 with
      | some g => decide (24 ≤ g.toNat)
      | none => false
  let shape := match q.w with
    | .vec _ v => vecShape q v
    | .vred v => (v.fa == 10 || (v.fb == 10 && !bAbsent v.mb v.b)) && decide (64 < q.cols.toNat)
    | .vget _ _ _ fa _ => decide (16384 ≤ q.a.toNat) || (fa == 10 && decide (64 ≤ q.a.toNat % 128))
    | .vput _ _ _ fd => decide (16384 ≤ q.b.toNat) || (fd == 10 && decide (64 ≤ q.b.toNat % 128))
    | _ => false
  if bad then some Code.vxBadOperand
  else if shape then some Code.vxShape
  else if optAliased q.w then some Code.optAlias
  else if (vxGroups q).any (fun g => openBefore be q.seq g) then some Code.accBusyOpen
  else none

/-- The VXE stops: the refused word leaves the queue, and a scalar it would have written stays pending (R128, R134). -/
def stopVx (b : BerthIdx) (q : QEnt) (c : W16) (s : State) : State :=
  unitReport b (Blk.vx b) c (modBerth b (fun be =>
    { be with vxq := be.vxq.tail, vxStopped := true, stuck := be.stuck ++ (vxDest q.w).toList }) s)

/-! ### Operands (R118, R119) -/

/-- Bytes of a tile register or of a group, by operand code (R148). -/
def regData (b : BerthIdx) (code o n : Nat) (s : State) : List Byte :=
  if code < 16 then tileData b code o n s else groupData b (code - 16) o n s

def putReg (b : BerthIdx) (code o : Nat) (bs : List Byte) (s : State) : State :=
  if code < 16 then putTile b code o bs s else putGroup b (code - 16) o bs s

/-- The bits of element (i, j). -/
def elemBitsAt (b : BerthIdx) (code f i j : Nat) (s : State) : Nat :=
  let o := elemBitOff f i j
  leVal (regData b code (o / 8) ((o % 8 + elemBits f + 7) / 8) s) / 2 ^ (o % 8) % 2 ^ elemBits f

/-- The value of element (i, j): an MX element takes the scale of its block under the axis stated (R120, R163). A CB source
of format FP64 with more than 64 active rows asks for elements 64 and up, which a row of 64 elements (R118) does not have: the
model reads on into the row that follows (DESIGN CHOICE, log 41). -/
def elemAt (b : BerthIdx) (code f : Nat) (col : Bool) (i j : Nat) (s : State) : Val :=
  let raw := elemBitsAt b code f i j s
  if isMx f then mxElem (numFmt f) raw (leVal (regData b code (scaleOff f col i j) 1 s))
  else decodeNum (numFmt f) raw

/-- A source operand: mode, code, format, axis, broadcast row and the scalar captured. -/
structure VSrc where
  m : BitVec 2
  c : BitVec 5
  f : Nat
  x : Bool
  r : Nat
  sv : W64

/-- The scalar operand (R119); in the paired 16-bit class it is first rounded to the operation's format (R120).
That rounding sets no flags: the spec does not say whether it does (DESIGN CHOICE, log 41). -/
def scalarVal (f : Nat) (sv : W64) (pair : Option Nat) : Val :=
  let v := if f = 10 then decodeNum fp64 sv.toNat else decodeNum fp32 (fld sv 0 32)
  match pair with
  | some p => roundTo (numFmt p) .rne v
  | none => v

/-- The value an operand supplies for destination element (i, j) (the operand mode table). -/
def srcVal (b : BerthIdx) (o : VSrc) (pair : Option Nat) (i j : Nat) (s : State) : Val :=
  if o.m = 0 then elemAt b o.c.toNat o.f o.x i j s
  else if o.m = 1 then elemAt b o.c.toNat o.f o.x o.r j s
  else if o.m = 2 then elemAt b o.c.toNat o.f o.x o.r i s
  else scalarVal o.f o.sv pair

/-- The 16-bit format of an instruction of the paired class (R113). -/
def pairFmt (op : VOp) (v : VFields) : Option Nat :=
  let fs := vecTileFmts v
  let p := match op with
    | .vadd => true
    | .vsub => true
    | .vmul => true
    | .vfma => true
    | .vmax => true
    | .vmin => true
    | _ => false
  if p && fs.all (· == 1) then some 1 else if p && fs.all (· == 2) then some 2 else none

/-! ### Writing a destination (R116, R168) -/

/-- Replaces the first elements of row `i` by raw bits; the rest of the row keeps its bits. -/
def putElems (b : BerthIdx) (code f i : Nat) (els : List Nat) (s : State) : State :=
  let w := elemBits f * els.length
  let n := (w + 7) / 8
  let old := leVal (regData b code (rowSize f * i) n s)
  let new := els.foldr (fun e a => e + 2 ^ elemBits f * a) 0
  putReg b code (rowSize f * i) (leBytes n (old / 2 ^ w * 2 ^ w + new)) s

/-- The rounding mode of element (i, j) (R120, R171). -/
def elemMode (rm : RmField) (q : QEnt) (i j : Nat) : Mode :=
  if rm = 0 then .rne else if rm = 1 then .rz
  else .sr (berthDraw q.c 2 i j (q.d.extractLsb' 0 32))

def orFlags (l : List VFlags) : VFlags := l.foldl (· ||| ·) 0

/-- Transposes a list of rows of length `n`. -/
def columns {α : Type} (d : α) (n : Nat) (rows : List (List α)) : List (List α) :=
  (List.range n).map (fun j => rows.map (fun r => r.getD j d))

/-- Writes a pass to a destination that is not MX. -/
def putPlain (b : BerthIdx) (code f : Nat) (vals : List (List (Val × Mode))) (s : State) : VFlags × State :=
  let res := vals.map (fun r => r.map (fun p => roundVal (numFmt f) p.2 p.1))
  (orFlags (res.map (fun r => orFlags (r.map (·.2)))),
   foldS res.zipIdx (fun p s => putElems b code f p.2 (p.1.map (·.1)) s) s)

/-- Writes a pass to an MX destination with axis ROW. -/
def putMxRow (b : BerthIdx) (code f : Nat) (vals : List (List (Val × Mode))) (s : State) : VFlags × State :=
  let res := vals.map (fun r => (chunks32 (r.length / 32) r).map (mxEncode (numFmt f)))
  (orFlags (res.map (fun r => orFlags (r.map (·.2.2)))),
   foldS res.zipIdx (fun p s =>
     putReg b code (dataBytes f + 4 * p.2) (p.1.map (fun k => BitVec.ofNat 8 k.1))
       (putElems b code f p.2 (p.1.flatMap (·.2.1)) s)) s)

/-- Writes a pass to an MX destination with axis COL: 32 rows and their scales together. -/
def putMxCol (b : BerthIdx) (code f cols : Nat) (vals : List (List (Val × Mode))) (s : State) : VFlags × State :=
  let res := (chunks32 (vals.length / 32) vals).map (fun rows =>
    (columns (zero, Mode.rne) cols rows).map (mxEncode (numFmt f)))
  (orFlags (res.map (fun r => orFlags (r.map (·.2.2)))),
   foldS res.zipIdx (fun p s =>
     putReg b code (dataBytes f + 128 * p.2) (p.1.map (fun k => BitVec.ofNat 8 k.1))
       (foldS (columns 0 32 (p.1.map (·.2.1))).zipIdx (fun e s =>
         putElems b code f (32 * p.2 + e.2) e.1 s) s)) s)

/-! ### Elementwise passes -/

/-- One element: its operands' NaN flag, its exact result and the flags of forming it. -/
def vecElem (b : BerthIdx) (q : QEnt) (op : VOp) (v : VFields) (i j : Nat) (s : State) : Val × VFlags :=
  let pair := pairFmt op v
  let a := srcVal b ⟨v.ma, v.a, v.fa.toNat, v.xa, v.r.toNat, q.a⟩ pair i j s
  let y := if bAbsent v.mb v.b then none
    else some (srcVal b ⟨v.mb, v.b, v.fb.toNat, v.xb, v.r.toNat, q.b⟩ pair i j s)
  let c := if op = .vfma then elemAt b v.d.toNat v.fd.toNat v.xd i j s else zero
  let (x, fl) := vecVal op a y c
  (x, fl ||| niIf (a.isNan || (y.getD zero).isNan || c.isNan))

/-- The elements of a pass, each with its rounding mode, and the flags of forming them. -/
def vecVals (b : BerthIdx) (q : QEnt) (op : VOp) (v : VFields) (s : State) : List (List (Val × Mode)) × VFlags :=
  let all := (List.range q.rows.toNat).map (fun i => (List.range q.cols.toNat).map (fun j =>
    let e := vecElem b q op v i j s
    ((e.1, elemMode v.rm q i j), e.2)))
  (all.map (fun r => r.map (·.1)), orFlags (all.map (fun r => orFlags (r.map (·.2)))))

def setVFlags (b : BerthIdx) (fl : VFlags) (s : State) : State :=
  modBerth b (fun be => { be with vflags := be.vflags ||| fl }) s

def vecRun (b : BerthIdx) (q : QEnt) (op : VOp) (v : VFields) (s : State) : State :=
  let (vals, f1) := vecVals b q op v s
  let f := v.fd.toNat
  let (f2, s) :=
    if !isMx f then putPlain b v.d.toNat f vals s
    else if v.xd then putMxCol b v.d.toNat f q.cols.toNat vals s
    else putMxRow b v.d.toNat f vals s
  setVFlags b (f1 ||| f2) s

/-! ### Reductions (R123, R124) -/

/-- One leaf: the element of A, or A − B rounded to FP32, then squared or made a magnitude, with its flags. -/
def redLeaf (b : BerthIdx) (q : QEnt) (v : RdFields) (nf : NumFmt) (i j : Nat) (s : State) : Val × VFlags :=
  let a := srcVal b ⟨v.ma, v.a, v.fa.toNat, v.xa, v.r.toNat, q.a⟩ none i j s
  let (x, f1) :=
    if bAbsent v.mb v.b then (a, niIf a.isNan)
    else
      let y := srcVal b ⟨v.mb, v.b, v.fb.toNat, v.xb, v.r.toNat, q.b⟩ none i j s
      let (d, fl) := rneF (addF a y.negate)
      (d, fl ||| niIf (a.isNan || y.isNan))
  if v.op = 1 then
    let (p, f2) := mulF x x
    let (bits, f3) := roundVal nf .rne p
    (decodeNum nf bits, f1 ||| f2 ||| innerFlags f3)
  else if v.op = 4 then (x.absolute, f1)
  else (x, f1)

/-- A node of a reduction by op (R124). -/
def redNode (op : BitVec 3) (nf : NumFmt) (x y : Val × VFlags) : Val × VFlags :=
  if op = 0 ∨ op = 1 then nodeAdd nf x y
  else if op = 3 then (vMin x.1 y.1, x.2 ||| y.2)
  else (vMax x.1 y.1, x.2 ||| y.2)

/-- A reduction over leaves: the bits of the result and the flags. -/
def redValue (op : BitVec 3) (nf : NumFmt) (depth : Nat) (leaves : List (Option (Val × VFlags))) : Nat × VFlags :=
  match treeGo (redNode op nf) depth leaves with
  | some (v, fl) =>
    let (bits, f2) := roundVal nf .rne v
    (bits, fl ||| f2)
  | none => (0, 0)

/-- VRED (R123, R150). Results of axis ROW of an FP64 source with more than 64 active rows do not fit row DROW of 64 elements:
the model writes on into the row that follows (DESIGN CHOICE, log 41). -/
def redRun' (b : BerthIdx) (q : QEnt) (v : RdFields) (s : State) : State :=
  let is64 := (v.fa == 10 && v.ma != 3) || (v.fb == 10 && v.mb != 3 && v.b != 31)
  let nf := if is64 then fp64 else fp32
  let f := if is64 then 10 else 0
  let rows := q.rows.toNat
  let cols := q.cols.toNat
  let leaf (i j : Nat) : Option (Val × VFlags) := some (redLeaf b q v nf i j s)
  if v.axis = 2 then
    let leaves := (List.range rows).flatMap (fun i =>
      (List.range 128).map (fun j => if j < cols then leaf i j else none))
    let (bits, fl) := redValue v.op nf 14 leaves
    setVFlags b fl (modBerth b (setS v.d (w64 bits)) s)
  else
    let outs := if v.axis = 0 then (List.range rows).map (fun i => redValue v.op nf 7 ((List.range cols).map (leaf i)))
      else (List.range cols).map (fun j => redValue v.op nf 7 ((List.range rows).map (fun i => leaf i j)))
    setVFlags b (orFlags (outs.map (·.2))) (putElems b v.d.toNat f v.drow.toNat (outs.map (·.1)) s)

/-! ### Element access (R151) -/

def vgetRun (b : BerthIdx) (q : QEnt) (sd a : BitVec 5) (f : Nat) (xa : Bool) (s : State) : State :=
  let e := q.a.toNat
  let v := elemAt b a.toNat f xa (e / 128) (e % 128) s
  let (bits, fl) := roundVal (if f = 10 then fp64 else fp32) .rne v
  setVFlags b (fl ||| niIf v.isNan) (modBerth b (setS sd (w64 bits)) s)

def vputRun (b : BerthIdx) (q : QEnt) (d : BitVec 5) (f : Nat) (s : State) : State :=
  let e := q.b.toNat
  let v := scalarVal f q.a none
  let (bits, fl) := roundVal (numFmt f) .rne v
  setVFlags b (fl ||| niIf v.isNan)
    (putReg b d.toNat (elemBitOff f (e / 128) (e % 128) / 8) (leBytes (elemBits f / 8) bits) s)

/-! ### Optimiser updates (R154 to R156, R180, R181) -/

def halfLo (w : W64) : Val := decodeNum fp32 (fld w 0 32)
def halfHi (w : W64) : Val := decodeNum fp32 (fld w 32 32)

def nfIf (v : Val) : VFlags := flag (v.isNan || v.isInf) false false false false false

/-- Applies a function to each active element of the rows, in row order. -/
def eachElem (q : QEnt) (f : Nat → Nat → State → VFlags × State) (s : State) : VFlags × State :=
  (List.range q.rows.toNat).foldl (fun a i =>
    (List.range q.cols.toNat).foldl (fun a j =>
      let (fl, s) := f i j a.2
      (a.1 ||| fl, s)) a) (0, s)

def putFp32 (b : BerthIdx) (t : Nat) (i j : Nat) (v : Val) (s : State) : State :=
  putTile b t (512 * i + 4 * j) (leBytes 4 (roundVal fp32 .rne v).1) s

def optMomElem (b : BerthIdx) (t1 t2 : Nat) (g : Nat) (sa : W64) (i j : Nat) (s : State) : VFlags × State :=
  let m := elemAt b t1 0 false i j s
  let v := elemAt b t2 0 false i j s
  let x := elemAt b g 0 false i j s
  let b1 := halfLo sa
  let b2 := halfHi sa
  let (m2, v2) := optMom m v x b1 b2
  (m2.2 ||| v2.2 ||| nfIf m2.1 ||| nfIf v2.1 ||| niIf (m.isNan || v.isNan || x.isNan || b1.isNan || b2.isNan),
   putFp32 b t2 i j v2.1 (putFp32 b t1 i j m2.1 s))

def optStepElem (b : BerthIdx) (t1 t2 t4 : Nat) (sa sb : W64) (i j : Nat) (s : State) : VFlags × State :=
  let m := elemAt b t1 0 false i j s
  let v := elemAt b t2 0 false i j s
  let al := halfLo sa
  let c2 := halfHi sa
  let ep := halfLo sb
  let u := optStep m v al c2 ep
  (u.2 ||| nfIf u.1 ||| niIf (m.isNan || v.isNan || al.isNan || c2.isNan || ep.isNan), putFp32 b t4 i j u.1 s)

def optApplyElem (b : BerthIdx) (t1 t2 t4 g : Nat) (sa : W64) (priv : Bool) (i j : Nat) (s : State) :
    VFlags × State :=
  let u := elemAt b g 0 false i j s
  let lam := halfLo sa
  if priv then
    let m := elemAt b t4 0 false i j s
    let (mb, wb, fl) := applyPriv m u lam
    (fl ||| niIf (m.isNan || u.isNan || lam.isNan),
     putTile b t1 (256 * i + 2 * j) (leBytes 2 wb) (putTile b t4 (512 * i + 4 * j) (leBytes 4 mb) s))
  else
    let w := elemBitsAt b t1 1 i j s
    let c := BitVec.ofNat 8 (leVal (tileData b t2 (128 * i + j) 1 s))
    let (w2, c2, fl) := applyUnpriv w c u lam
    (fl ||| niIf ((decodeNum bf16 w).isNan || u.isNan || lam.isNan),
     putTile b t2 (128 * i + j) [c2] (putTile b t1 (256 * i + 2 * j) (leBytes 2 w2) s))

/-- Whether row `i` is privileged (R156). -/
def privileged (q : QEnt) (sc : BitVec 5) (i : Nat) : Bool :=
  sc != 0 && (if i < 64 then q.b.getLsbD i else q.c.getLsbD (i - 64))

/-! ### The summary word (R127) -/

def summaryWord (be : Berth) : W64 := w64 (be.mxflags.toNat * 256 + be.vflags.toNat)

/-! ### Starting a word (R114) -/

/-- Lane cycles W of a word (R113, R114, R154). FP64 operations run at 32 elements per cycle (log 13). -/
def vxLanes (q : QEnt) : Nat :=
  let n := q.rows.toNat * q.cols.toNat
  match q.w with
  | .vec op v =>
    let f64 := v.fd == 10 || v.fa == 10 || (v.fb == 10 && !bAbsent v.mb v.b)
    let trans := match op with
      | .vadd => false
      | .vsub => false
      | .vmul => false
      | .vfma => false
      | .vmax => false
      | .vmin => false
      | .vabs => false
      | .vneg => false
      | .vcvt => false
      | _ => true
    if trans then cdiv n 64 else if f64 then cdiv n 32 else if (pairFmt op v).isSome then cdiv n 512 else cdiv n 256
  | .vred v => if v.fa == 10 || (v.fb == 10 && !bAbsent v.mb v.b) then cdiv n 32 else cdiv n 256
  | .vget .. => 1
  | .vput .. => 1
  | .optMom .. => cdiv n 256
  | .optStep .. => cdiv n 64
  | .optApply .. => cdiv n 256
  | _ => 0

/-- What a started VXE word does. -/
def vxRun (b : BerthIdx) (q : QEnt) (s : State) : State :=
  match q.w with
  | .vec op v => vecRun b q op v s
  | .vred v => redRun' b q v s
  | .vget sd a _ fa xa => vgetRun b q sd a fa.toNat xa s
  | .vput d _ _ fd => vputRun b q d fd.toNat s
  | .flagsRd sd => modBerth b (fun be => setS sd (summaryWord { be with mxflags := q.mx.getD be.mxflags }) be) s
  | .vxFclr => modBerth b (fun be => { be with vflags := 0 }) s
  | .optMom t1 t2 g _ =>
    let (fl, s) := eachElem q (optMomElem b t1.toNat t2.toNat g.toNat q.a) s
    setVFlags b fl s
  | .optStep t1 t2 t4 _ _ =>
    let (fl, s) := eachElem q (optStepElem b t1.toNat t2.toNat t4.toNat q.a q.b) s
    setVFlags b fl s
  | .optApply t1 t2 t4 g _ sc =>
    let (fl, s) := eachElem q (fun i j s =>
      optApplyElem b t1.toNat t2.toNat t4.toNat g.toNat q.a (privileged q sc i) i j s) s
    setVFlags b fl s
  | _ => s

/-- Cycles and activity of a VXE word (R284, R286). -/
def vxCycles (b : BerthIdx) (n : Nat) (s : State) : State :=
  let s := match berthDom b s with
    | some d => accrue d (fun a => { a with vxe := a.vxe + n }) s
    | none => s
  addAct (berthClient b s).toNat (n * (s.acct.w.toList.getD 6 0).toNat) s

/-- Whether the word at the head may start: operands ready; FLAGS.RD follows every earlier ACC_CLOSE (R127). -/
def vxReady (be : Berth) (q : QEnt) : Bool :=
  ready be q && (match q.w with
    | .flagsRd _ => be.closing.all (fun c => q.seq ≤ c.1) && be.mxq.all (fun y => decide (q.seq ≤ y.seq) ||
        (match y.w with
        | .accClose _ => false
        | _ => true))
    | _ => true)

/-- VXE_START: the word at the head of the VXE queue is checked and, its operands ready, makes its pass and folds its
flags (R114, R495). -/
def vxStart (b : BerthIdx) (s : State) : State :=
  let be := berth b s
  match be.vxq with
  | [] => s
  | q :: r =>
    if be.vxStopped then s
    else
      match vxCode b q s with
      | some c => stopVx b q c s
      | none =>
        if vxReady be q then
          vxCycles b (vxLanes q) (vxRun b q (modBerth b (fun be => { be with vxq := r }) s))
        else s

/-- VXE_START (R114). -/
def execVxeStart (b : BerthIdx) (s : State) : Outcome := awake s (.next (vxStart b s))

end Sys2Proof.Machine
end

