-- ==== Sys2Proof/Machine/UnitCmds.lean ====
section
/-! DEFINITION. The commands of lighters and channels, and the check of the word at the head of a queue. -/

namespace Sys2Proof.Machine
open Sys2Proof

/-- The unit checks the word at the head of its queue while it is free; a failing word stops it (R495). -/
def wordCheckAt (b : BerthIdx) (u : EngUnit) (s : State) : State :=
  let be := berth b s
  match u with
  | .mxe =>
    (match be.mxq with
    | q :: _ => if be.mxStopped then s else
        (match mxCode b q s with
        | some c => stopMx b c s
        | none => s)
    | [] => s)
  | .vxe =>
    (match be.vxq with
    | q :: _ => if be.vxStopped then s else
        (match vxCode b q s with
        | some c => stopVx b q c s
        | none => s)
    | [] => s)
  | .lt n =>
    let l := lighter b n s
    (match l.queue with
    | q :: _ => if l.stopped ∨ l.run.isSome then s else
        (match ltCode b q s with
        | some c => stopLt b n c (modLighter b n (fun l => { l with queue := l.queue.tail }) s)
        | none => s)
    | [] => s)

/-- ENGINE_WORD_CHECK (R495). -/
def execEngineWordCheck (b : BerthIdx) (u : EngUnit) (s : State) : Outcome := awake s (.next (wordCheckAt b u s))

/-- LT_DESC_START (R70). -/
def execLtDescStart (b : BerthIdx) (n : BitVec 2) (x : ReadEvent) (s : State) : Outcome := awake s (.next (ltStart b n x s))

/-- LT_DESC_COMPLETE (R70). -/
def execLtDescComplete (b : BerthIdx) (n : BitVec 2) (s : State) : Outcome := awake s (.next (ltComplete b n s))

/-- CHAN_POST (R327). -/
def execChanPost (h : ChanHdr) (s : State) : Outcome := awake s (.next (takePost h s))

/-- CHAN (R80). -/
def execChan (h : ChanHdr) (fmt : BitVec 4) (data : List Byte) (s : State) : Outcome :=
  awake s (.next (takeChan h (unwireTile fmt.toNat data) s))

/-- CHAN_ACK (R80). -/
def execChanAck (b : BerthIdx) (n : BitVec 2) (s : State) (dropped : Bool := false) : Outcome :=
  awake s (.next (takeChanAck b n dropped s))

end Sys2Proof.Machine
end

