-- ==== Sys2Proof/Machine/BerthRegs.lean ====
section
/-! DEFINITION. The registers of the BERTH and LIGHTER pages (R66, R83, R110, R135) and LT_GO (R59). -/

namespace Sys2Proof.Machine
open Sys2Proof

/-! ### The BERTH page -/

/-- A write of MX_CFG (R105, R110, R351). -/
def putMxCfg (b : BerthIdx) (v : W32) (s : State) : WRes :=
  if (berthDom b s).isSome ∨ (v.getLsbD 0 ∧ s.health.noDouble) then .error Code.configRefused
  else .ok (modBerth b (fun be => { be with doubleEn := v.getLsbD 0 }) s)

/-- A write of PL_ENTRY (R135). -/
def putEntryPoint (b : BerthIdx) (v : W32) (s : State) : WRes :=
  if berthLive b s then .error Code.configRefused
  else .ok (modBerth b (fun be => { be with entry := v.extractLsb' 0 15 }) s)

def putBerth (b : BerthIdx) (off : Nat) (v : W32) (s : State) : WRes :=
  match off with
  | 0x0C0 => putMxCfg b v s
  | 0x0E8 => putEntryPoint b v s
  | 0x0F0 => .ok (modBerth b (fun be => { be with ce := clearBy be.ce v }) s)
  | _ => .ok s

/-- The block that a write at an offset belongs to. -/
def blkBerth (b : BerthIdx) (off : Nat) : Blk :=
  match off with
  | 0x0C0 => Blk.mx b
  | _ => ⟨Pg.berth b, 0⟩

def rwlBerth (b : BerthIdx) (off : Nat) (v : W32) (s : State) : Bool :=
  (off == 0x0C0 && v.getLsbD 0 != (berth b s).doubleEn) ||
    (off == 0x0E8 && v.extractLsb' 0 15 != (berth b s).entry)

/-- PL_STATUS.STATE (R135). A pilot that a debugger has halted reads as RUN: the spec gives no value for it (DESIGN CHOICE,
log 29). -/
def PlState.code (x : PlState) : Nat :=
  match x with
  | .idle => 0
  | .run => 1
  | .held => 1
  | .stalled => 2
  | .halted => 3

/-- One bit for each group with a property. -/
def groupBits (be : Berth) (p : Group → Bool) : Nat :=
  (((List.range 8).filter (fun g => p (tget be.groups {} g))).map (2 ^ ·)).sum

/-- A read of a BERTH register. PL_PC has 15 bits: after word 32,767 it reads 0, as the spec does not say (R135; DESIGN CHOICE,
log 43). -/
def getBerth (b : BerthIdx) (off : Nat) (s : State) : W32 :=
  let be := berth b s
  match off with
  | 0x0C0 => w32 (b2n be.doubleEn)
  | 0x0C4 => lastErr (Blk.mx b) s ++ w16 (b2n be.mxStopped * 256 + be.mxflags.toNat)
  | 0x0C8 => w32 (groupBits be (·.w16) * 2 ^ 16 + groupBits be (·.opened))
  | 0x0D0 => lastErr (Blk.vx b) s ++ w16 (be.vxq.length * 512 + b2n be.vxStopped * 256 + be.vflags.toNat)
  | 0x0D4 => w32 (be.vlRows.toNat * 2 ^ 16 + be.vlCols.toNat)
  | 0x0E0 => lastErr (Blk.pl b) s ++ w16 be.pl.code
  | 0x0E4 => w32 (fld be.pc 0 15)
  | 0x0E8 => be.entry.setWidth 32
  | 0x0F0 => be.ce
  | _ => 0

/-! ### The LIGHTER page (R83) -/

/-- The lighter and the register at an offset. -/
def lighterAt (off : Nat) : Option (BitVec 2 × Nat) :=
  if 0x100 ≤ off ∧ off < 0x200 then some (BitVec.ofNat 2 ((off - 0x100) / 0x40), (off - 0x100) % 0x40) else none

/-- Replaces one word of the driver's descriptor. -/
def Lighter.setDesc (l : Lighter) (i : Fin 8) (v : W32) : Lighter := { l with desc := l.desc.set i.val v i.isLt }

def putLighter (b : BerthIdx) (off : Nat) (v : W32) (s : State) : WRes :=
  match lighterAt off with
  | none => .ok s
  | some (n, r) =>
    if r = 0x00 then .ok (modLighter b n (fun l => { l with mismatch := l.mismatch && !v.getLsbD 1 }) s)
    else if r = 0x10 then putLtGo b n v s
    else if q : 0x20 ≤ r ∧ r < 0x40 then .ok (modLighter b n (fun l => l.setDesc ⟨(r - 0x20) / 4, by omega⟩ v) s)
    else .ok s

def blkLighter (b : BerthIdx) (off : Nat) : Blk :=
  match lighterAt off with
  | some (n, _) => Blk.lt b n.toNat
  | none => ⟨Pg.lighter b, 0⟩

def getLighter (b : BerthIdx) (off : Nat) (s : State) : W32 × State :=
  match lighterAt off with
  | none => (0, s)
  | some (n, r) =>
    let l := lighter b n s
    let key := regKey (Pg.lighter b) (0x108 + 0x40 * n.toNat)
    match r with
    | 0x00 => (lastErr (Blk.lt b n.toNat) s ++
        w16 (l.queue.length * 256 + b2n l.stopped * 4 + b2n l.mismatch * 2 + b2n l.run.isSome), s)
    | 0x04 => (l.done, s)
    | 0x08 => readLo key l.digest s
    | 0x0C => readHi key l.digest s
    | _ => (0, s)

/-- LT_GO (R59). -/
def execLtGo (r : Req) (b : BerthIdx) (n : BitVec 2) (v : W32) (s : State) : Outcome :=
  awake s (.next (regWrite r (Blk.lt b n.toNat) false (putLighter b (0x110 + 0x40 * n.toNat) v s) s))

end Sys2Proof.Machine
end

