-- ==== Sys2Proof/Machine/StartOps.lean ====
section
/-! DEFINITION. Ports as state, and the start-up state that follows from the rest of the machine (R488, R491, R493). -/

namespace Sys2Proof.Machine
open Sys2Proof

def port (p : Nat) (s : State) : Port := tget s.ports {} p
def setPort (p : Nat) (x : Port) (s : State) : State := { s with ports := tset s.ports {} p x }
def modPort (p : Nat) (f : Port → Port) (s : State) : State := setPort p (f (port p s)) s

def portActive (p : Nat) (s : State) : Bool := (port p s).st == .active

/-- At least one port is ACTIVE (R491). -/
def linksDone (s : State) : Bool := (List.range 24).any (fun p => portActive p s)

/-- Every controller has ended its training attempt (R491). -/
def lpxDone (s : State) : Bool := s.startUp.lpxEnded.length == 24

/-- Some channel of LPDDR5X has failed training (R490). -/
def lpxFail (s : State) : Bool := (List.range 24).any (fun m => (lpxDev m s).chFail != 0)

/-- The start-up state (the start-up state table). -/
def suState (s : State) : Nat :=
  match s.startUp.phase with
  | .reset => 0
  | .boot => 1
  | .firmware => 2
  | .selftest => 3
  | .training => 4
  | .failed => 0xF
  | .running =>
    if s.route.addr = 0xFFFF then 5
    else if !s.tick.locked then 6
    else if !s.startUp.bankSwitched then 7
    else if !s.startUp.committed then 8
    else 9

def setStartUp (u : StartUp) (s : State) : State := { s with startUp := u }

/-- TRAINING ends, and FAILED for want of a link is left, once every controller has ended its training and a port is
ACTIVE (R488, R492). -/
def endTrainPhase (s : State) : State :=
  let u := s.startUp
  if (u.phase = .training ∨ (u.phase = .failed ∧ u.cause = Code.linkTrainFail)) ∧ lpxDone s ∧ linksDone s then
    setStartUp { u with phase := .running, failStage := 0 } s
  else s

/-- The start-up state is evaluated; a change of it sets SU_TIME to the µs since t0 (R493). -/
def suNote (s : State) : State :=
  let s := endTrainPhase s
  let st := BitVec.ofNat 4 (suState s)
  if st = s.startUp.seen then s
  else setStartUp { s.startUp with seen := st, time := w32 (min s.startUp.us 0xFFFFFFFF) } s

/-- Enters FAILED with a cause (R492). -/
def enterFailed (cause : W16) (s : State) : State :=
  suNote (setStartUp { s.startUp with
    phase := .failed, failStage := BitVec.ofNat 4 (suState s), cause := cause } s)

end Sys2Proof.Machine
end

