-- ==== Sys2Proof/Machine/Irq.lean ====
section
/-! DEFINITION. The interrupt controller: sources, sampling, claims and completions (R388 to R403), and the levels of
the GPIO pins (R419, R489). -/

namespace Sys2Proof.Machine
open Sys2Proof

/-! ### Pins (R419, R488, R489) -/

/-- The level of READY (the start-up state table): the square waves are `startUp.wave`. -/
def readyLevel (s : State) : Bool :=
  match suState s with
  | 5 => s.startUp.wave
  | 6 => s.startUp.wave
  | 7 => s.startUp.wave
  | 8 => true
  | 9 => true
  | 15 => s.startUp.wave
  | _ => false

/-- The number of a pin's cell in the boundary register. -/
def pinNum (p : Pin) : Nat :=
  match p with
  | .gpio n => n.toNat
  | .prochotN => 16
  | .thermtripN => 17
  | .smbAlertN => 18
  | .memResetN m => 32 + m.toNat
  | .other k => 64 + k

/-- While EXTEST is selected the boundary register drives the pins that it covers (R440); a cell that no preload has set
holds a free value. -/
def takenOver (p : Pin) (s : State) : Option Bool :=
  if s.board.tap = .extest then
    some (match s.board.boundary.find? (fun c => c.1 == p) with
      | some c => c.2
      | none => Config.boundaryCell (pinNum p))
  else none

/-- What the function of GPIO pin `n` drives; nothing while the device is in reset (R419, R454, R489). -/
def gpioDrives (n : Nat) (s : State) : Option Bool :=
  let e := ledgerEntry n s
  if inReset s || e.owner.isNone then none
  else
    match e.func.toNat with
    | 1 => some (gpio n s).out
    | 3 => some (gpio n s).drive
    | 4 => some (readyLevel s)
    | _ => none

/-- The level at pin `n`: what drives it, the input level where nothing does (R419). -/
def pinLevel (n : Nat) (s : State) : Bool :=
  ((takenOver (.gpio (BitVec.ofNat 4 n)) s).orElse (fun _ => gpioDrives n s)).getD (gpio n s).input

/-- The device drives PROCHOT_N low while throttling is active (R467, R478). -/
def prochotDrives (s : State) : Bool := (takenOver .prochotN s).elim (s.power.throttle && !inReset s) (fun v => !v)

/-- PROCHOT_N is low: the board or the device drives it (R467, R478). -/
def prochotLine (s : State) : Bool := s.board.prochotLow || prochotDrives s

/-! ### Sources (R388) -/

def irqSrc (n : Nat) (s : State) : IrqSrc := tget s.irq.src {} n
def setIrq (q : Irq) (s : State) : State := { s with irq := q }
def setIrqSrc (n : Nat) (e : IrqSrc) (s : State) : State := setIrq { s.irq with src := tset s.irq.src {} n e } s

/-- The sources that are not reserved (the source table). -/
def srcReal (n : Nat) : Bool :=
  if n < 0x280 then pageExists n
  else n < 0x288 || (0x290 ≤ n && n < 0x2A2) || (0x2B0 ≤ n && n < 0x2C0)

/-- Whether a source's condition stands (the source table). -/
def srcLevel (n : Nat) (s : State) : Bool :=
  if !srcReal n then false
  else if n < 0x280 then ((hdr n s).eventStatus &&& (hdr n s).eventEnable) != 0
  else if n < 0x288 then (timer (n - 0x280) s).fired && (timer (n - 0x280) s).action == 0
  else if n < 0x2A0 then (dom (n - 0x290) s).st == .held
  else if n = 0x2A0 then prochotLine s
  else if n = 0x2A1 then s.board.pwrbrkLow
  else
    let p := n - 0x2B0
    let e := ledgerEntry p s
    e.owner.isSome && e.func == 2 && pinLevel p s == (gpio p s).level

/-! ### Sampling (R391, R394) -/

/-- Step 2 of R394: a COMPLETING source becomes INACTIVE. -/
def IrqSrc.settle (e : IrqSrc) : IrqSrc := if e.st = .completing then { e with st := .inactive, again := false } else e

/-- Step 3 of R394 for one source at a level; PRIORITY 0 is sampled as deasserted (R391). -/
def IrqSrc.sample (e : IrqSrc) (level : Bool) : IrqSrc :=
  let l := level && e.priority != 0
  let e := { e with asserted := l }
  match e.st, l with
  | .inactive, true => { e with st := .pending }
  | .pending, false => { e with st := .inactive }
  | .active, true => { e with again := true }
  | _, _ => e

/-- Step 3 of R394 withdraws the source. -/
def IrqSrc.withdrawn (e : IrqSrc) (level : Bool) : Bool := e.st == .pending && !(level && e.priority != 0)

/-- Steps 2 and 3 of R394: a source that the table does not list has PRIORITY 0 and is INACTIVE, so it stays so. -/
def sampleSources (s : State) : State :=
  let q := s.irq
  let olds := q.src.map (fun e => (e.1, e.2.settle))
  let w := (olds.filter (fun e => e.2.withdrawn (srcLevel e.1 s))).length
  let news := (olds.map (fun e => (e.1, e.2.sample (srcLevel e.1 s)))).filter (fun e => e.2 ≠ {})
  setIrq { q with src := news, withdrawn := satAdd q.withdrawn w } s

/-! ### IRQ_TOP (R391, R395) -/

/-- A pending source of target `t` with PRIORITY above THRESHOLD (R391). -/
def eligible (t : Fin 3) (e : IrqSrc) (s : State) : Bool :=
  e.st == .pending && e.target.toNat == t.val && decide (s.irq.thresh[t.val].toNat < e.priority.toNat)

/-- The eligible source of `t` with the highest PRIORITY, the lower number among equals. -/
def irqTop (t : Fin 3) (s : State) : Option Nat :=
  (s.irq.src.foldl (fun (b : Option (Nat × Nat)) e =>
    if eligible t e.2 s then
      match b with
      | some (_, p) => if p < e.2.priority.toNat then some (e.1, e.2.priority.toNat) else b
      | none => some (e.1, e.2.priority.toNat)
    else b) none).map (·.1)

def topCode (t : Fin 3) (s : State) : W16 :=
  match irqTop t s with
  | some n => w16 n
  | none => 0xFFFF

/-- The PENDING sources of a target, eligible or not. -/
def pendingCount (t : Fin 3) (s : State) : Nat :=
  (s.irq.src.filter (fun e => e.2.st == .pending && e.2.target.toNat == t.val)).length

/-! ### Delivery to the host (R399) -/

/-- The INTERRUPT message of the state after a sampling. -/
def interruptMsg (dst : W16) (remind : Bool) (s : State) : OutMsg :=
  let n := (irqTop 0 s).getD 0xFFFF
  let d : Byte := if 0x290 ≤ n ∧ n < 0x2A0 then BitVec.ofNat 8 (n - 0x290) else 0xFF
  let status : W32 := if n < 0x280 then (hdr n s).eventStatus else 0
  { dst := dst
    kind := 0x60
    body := pad8 [2, d] ++ leBytes 8 (now s) ++ leBytes 2 (ownDev s).toNat ++ leBytes 2 n ++
      [(irqSrc n s).priority.setWidth 8, BitVec.ofNat 8 (b2n remind)] ++ leBytes 2 (pendingCount 0 s) ++
      leBytes 4 status.toNat ++ List.replicate 12 0 }

/-- The reminder is due: target 0 has had an eligible source for TICKS ticks since the last INTERRUPT. -/
def remindDue (s : State) : Bool :=
  s.irq.remind != 0 && (irqTop 0 s).isSome && decide (s.irq.remind.toNat ≤ s.irq.since)

/-- Sends one INTERRUPT, whose body has 32 bytes, or counts it where IRQ_EVT_DEV names no bridge (R284, R399). -/
def sendInterrupt (remind : Bool) (s : State) : State :=
  if s.irq.evtDev = 0xFFFF then
    report ⟨Pg.irq1, 0⟩ Code.intNoEvtDev (setIrq { s.irq with noevt := satInc s.irq.noevt } s)
  else setIrq { s.irq with since := 0 } (sendHouse 32 (interruptMsg s.irq.evtDev remind s) s)

/-- Some source of target 0 became PENDING between two samplings and is eligible. -/
def newPending (old : Tbl IrqSrc) (s : State) : Bool :=
  s.irq.src.any (fun e => eligible 0 e.2 s && ((tget old {} e.1).settle).st != .pending)

/-- Step 5 of R394. -/
def deliverIrq (old : Tbl IrqSrc) (s : State) : State :=
  let s := setIrq { s.irq with judged := true, since := if (irqTop 0 s).isSome then s.irq.since + 1 else 0 } s
  if remindDue s then sendInterrupt true s
  else if newPending old s then sendInterrupt false s
  else s

/-- Rank 11 of a base tick after the frame timers (steps 2 to 5 of R394). -/
def presentIrq (s : State) : State := deliverIrq s.irq.src (sampleSources s)

/-! ### Claims and completions (R396, R397) -/

/-- A claim of target `t`: the source claimed, or 0xFFFF. -/
def claimIrq (t : Fin 3) (s : State) : W16 × State :=
  match irqTop t s with
  | some n => (w16 n, setIrqSrc n { irqSrc n s with st := .active } s)
  | none => (0xFFFF, s)

/-- A completion of source `n` by target `t`; INT_STRAY is counted and not presented. -/
def completeIrq (t : Fin 3) (n : Nat) (s : State) : State :=
  let e := irqSrc n s
  if srcReal n && e.st == .active && e.target.toNat == t.val then setIrqSrc n { e with st := .completing } s
  else setIrq { s.irq with stray := satInc s.irq.stray } s

/-! ### The IRQ pages (R401, R402) -/

def SrcState.code (x : SrcState) : Nat :=
  match x with
  | .inactive => 0
  | .pending => 1
  | .active => 2
  | .completing => 3

def irqSrcWord (e : IrqSrc) : W32 :=
  w32 (b2n e.asserted * 2 ^ 31 + e.st.code * 2 ^ 26 + b2n e.again * 2 ^ 25 + e.target.toNat * 2 ^ 8 + e.priority.toNat)

/-- A write of IRQ_SRC (R391, R392). -/
def putIrqSrc (n : Nat) (v : W32) (s : State) : WRes :=
  let e := irqSrc n s
  let t := v.extractLsb' 8 2
  if !srcReal n then .ok s
  else if t = 3 ∨ (t ≠ e.target ∧ e.st ≠ .inactive) then .error Code.configRefused
  else .ok (setIrqSrc n { e with target := t, priority := v.extractLsb' 0 4, again := e.again && !v.getLsbD 25 } s)

def putIrq0 (off : Nat) (v : W32) (s : State) : WRes :=
  if 0x100 ≤ off ∧ off < 0xD00 then putIrqSrc ((off - 0x100) / 4) v s else .ok s

def getIrq0 (off : Nat) (s : State) : W32 :=
  if 0x100 ≤ off ∧ off < 0xD00 then irqSrcWord (irqSrc ((off - 0x100) / 4) s) else 0

/-- The target and the register at an offset of IRQ[1]. -/
def irqTarget (off : Nat) : Option (Fin 3 × Nat) :=
  if h : 0x040 ≤ off ∧ off < 0x070 then some (⟨(off - 0x040) / 16, by omega⟩, off % 16) else none

def putIrq1 (off : Nat) (v : W32) (s : State) : WRes :=
  let q := s.irq
  match irqTarget off with
  | some (t, 0) => .ok (setIrq { q with thresh := q.thresh.set t.val (v.extractLsb' 0 4) t.isLt } s)
  | some (t, 8) => .ok (completeIrq t (fld v 0 16) s)
  | some _ => .ok s
  | none =>
    match off with
    | 0x070 => .ok (setIrq { q with stray := clearBy q.stray v } s)
    | 0x074 => .ok (setIrq { q with withdrawn := clearBy q.withdrawn v } s)
    | 0x078 => .ok (setIrq { q with noevt := clearBy q.noevt v } s)
    | 0x07C => .ok (setIrq { q with evtDev := v.extractLsb' 0 16 } s)
    | 0x080 => .ok (setIrq { q with remind := v.extractLsb' 0 16 } s)
    | _ => .ok s

/-- 32 sources as the bits of a word. -/
def srcBits (k : Nat) (p : IrqSrc → Bool) (s : State) : W32 :=
  w32 (((List.range 32).filter (fun i => p (irqSrc (32 * k + i) s))).map (2 ^ ·)).sum

def getIrq1 (off : Nat) (s : State) : W32 × State :=
  let q := s.irq
  match irqTarget off with
  | some (t, 0) => (q.thresh[t.val].setWidth 32, s)
  | some (t, 4) =>
    let (n, s) := claimIrq t s
    (n.setWidth 32, s)
  | some (t, 12) => (w32 (pendingCount t s * 2 ^ 16 + (topCode t s).toNat), s)
  | some _ => (0, s)
  | none =>
    match off with
    | 0x070 => (q.stray, s)
    | 0x074 => (q.withdrawn, s)
    | 0x078 => (q.noevt, s)
    | 0x07C => (q.evtDev.setWidth 32, s)
    | 0x080 => (q.remind.setWidth 32, s)
    | _ =>
      if 0x100 ≤ off ∧ off < 0x160 then (srcBits ((off - 0x100) / 4) (fun e => e.st == .pending) s, s)
      else if 0x180 ≤ off ∧ off < 0x1E0 then
        (srcBits ((off - 0x180) / 4) (fun e => e.st == .active || e.st == .completing) s, s)
      else (0, s)

/-! ### The commands -/

/-- The reminder of the present tick, where its step 5 has not been taken yet. -/
def remindNow (s : State) : State :=
  if !s.irq.judged && remindDue s then sendInterrupt true (setIrq { s.irq with judged := true } s) else s

/-- IRQ_REMIND (R399): the reminder belongs to step 5 of R394. A base tick takes that step itself, so that the command finds
nothing left to do until the next one (log 27). -/
def execIrqRemind (s : State) : Outcome := awake s (.next (remindNow s))

/-- IRQ_CLAIM (R396). Only targets 0 to 2 exist: the offsets a fourth would have hold other registers (R402). -/
def execIrqClaim (r : Req) (t : BitVec 2) (s : State) : Outcome :=
  awake s (.next (regRead r (getIrq1 (0x044 + 0x10 * t.toNat)) s))

/-- IRQ_COMPLETE (R397). -/
def execIrqComplete (r : Req) (t : BitVec 2) (v : W32) (s : State) : Outcome :=
  awake s (.next (regWrite r ⟨Pg.irq1, 0⟩ false (putIrq1 (0x048 + 0x10 * t.toNat) v s) s))

/-- IRQ_SRC_WRITE (R392). -/
def execIrqSrcWrite (r : Req) (n : BitVec 10) (v : W32) (s : State) : Outcome :=
  awake s (.next (regWrite r ⟨Pg.irq0, 0⟩ false (putIrq0 (0x100 + 4 * n.toNat) v s) s))

end Sys2Proof.Machine
end

