-- ==== Sys2Proof/Machine/RouteOps.lean ====
section
/-! DEFINITION. The routing tables as the device uses them, the loss notes of R374 and what a link loss does to the
domains that use the link (R314 to R318, R374). -/

namespace Sys2Proof.Machine
open Sys2Proof

/-! ### Tables (R314) -/

def qEntry (q : Nat) (s : State) : W32 := tget (activeBank s).quay 0 q
def slotEntry (k : Nat) (s : State) : W32 := tget (activeBank s).slot 0 k
def mcEntry (g : Nat) (s : State) : W32 := tget (activeBank s).mcast 0 g
def ctxGroup (c : Nat) (s : State) : Nat := fld (tget (activeBank s).ctx1 0 c) 16 12

/-- Whether P23 is the port of the host adapter here (R332, R334). -/
def isHostPort (p : Nat) (s : State) : Bool := p == 23 && s.board.hostport

/-- A port that a table route may take: ACTIVE, not fenced, not the host adapter's, not joined to a port of the other parity
(R315, R316, R318, R332). -/
def usable (p : Nat) (s : State) : Bool :=
  portActive p s && !s.route.fence.getLsbD p && !isHostPort p s && !(port p s).parityBad

/-- The ports an entry names for a destination, in the order of R316; `odd` is whether the message is on PD0. -/
def routePorts (dst : W16) (odd : Bool) (s : State) : List Nat :=
  if fld dst 3 13 = fld s.route.addr 3 13 then
    let e := slotEntry (fld dst 0 3) s
    let pe := fld e 24 5
    let po := fld e 16 5
    if !e.getLsbD 31 then [] else if odd then [po, pe] else [pe, po]
  else
    let e := qEntry (fld dst 3 13) s
    (if e.getLsbD 31 then [fld e 24 5] else []) ++ (if e.getLsbD 23 then [fld e 16 5] else [])

/-- Whether a valid group forwards on a port (R320). -/
def groupHas (g p : Nat) (s : State) : Bool := (mcEntry g s).getLsbD 31 && (mcEntry g s).getLsbD p

/-! ### Credits and the sender (R296, R298, R323) -/

/-- What a port holds on entering ACTIVE after training: sequence numbers from 0, full credits, the copies that have waited for
it, and the swaps that have been requested (R296, R305, R320; log 24). -/
def Port.fresh (x : Port) : Port := { x with
  rxNext := 0, nakSent := false, nakTwice := false, txNext := 0, unacked := [], rxBuf := []
  credits := Vector.replicate 8 64, sharedCr := 3584, farCredits := Vector.replicate 8 64, farShared := 3584
  kaSeen := false, missRow := 0, rr := 2 }

/-- What a port discards on entering DOWN (R301). -/
def Port.discard (x : Port) : Port := { x with
  unacked := [], waiting := [], rxBuf := [], credits := Vector.replicate 8 0, sharedCr := 0
  farCredits := Vector.replicate 8 0, farShared := 0, nakSent := false, nakTwice := false, swaps := []
  kaSeen := false, missRow := 0 }

/-- Whether a credit is left for a flit of a class. -/
def Port.hasCredit (x : Port) (c : BitVec 3) : Bool := 0 < x.credits[c.toNat] || 0 < x.sharedCr

/-- The class served next: 0, then 1, then 2 to 7 in turn (R323; log 24), among those that wait and have a credit. -/
def Port.nextClass (x : Port) : Option (BitVec 3) :=
  let order := [0, 1] ++ (List.range 6).map (fun i => 2 + (x.rr + i - 2) % 6)
  (order.map (BitVec.ofNat 3)).find? (fun c => x.waiting.any (fun f => f.cls == c) && x.hasCredit c)

/-- Sends the first waiting flit of a class: a reserved credit where one is left, a shared one otherwise (R296). -/
def Port.sendFlit (x : Port) (c : BitVec 3) : Port :=
  match x.waiting.find? (fun f => f.cls == c) with
  | none => x
  | some f =>
    let n := x.credits[c.toNat]
    let f := { f with seq := x.txNext, sends := 1, shared := n == 0 }
    { x with
      waiting := x.waiting.eraseP (fun g => g.cls == c)
      unacked := x.unacked ++ [f]
      txNext := x.txNext + 1
      credits := if n = 0 then x.credits else x.credits.set c.toNat (n - 1)
      sharedCr := if n = 0 then x.sharedCr - 1 else x.sharedCr
      rr := if 2 ≤ c.toNat then (if c.toNat = 7 then 2 else c.toNat + 1) else x.rr }

/-- Sends waiting flits while there are credits and the replay buffer has room (R298). -/
def Port.pump (x : Port) (fuel : Nat) : Port :=
  match fuel with
  | 0 => x
  | fuel + 1 =>
    if x.unacked.length < 3072 then
      match x.nextClass with
      | some c => (x.sendFlit c).pump fuel
      | none => x
    else x

def pumpPort (p : PortIdx) (s : State) : State :=
  if portActive p s then modPort p (fun x => x.pump x.waiting.length) s else s

/-! ### Flits of a message, and the host bridge (R322, R332) -/

/-- The domain and the epoch that a reduction message carries (R263, R328). -/
def redOf (m : RawMsg) : Option (Nat × W32) :=
  if m.kind = 0x40 ∨ m.kind = 0x41 then some (leAt m.body 9 1 % 16, m.epoch) else none

/-- A message goes out on a port: its flits wait there (R322). `c` is its class, `id` the number of a frame's message. -/
def flitsOf (id : Option Nat) (c : BitVec 3) (m : RawMsg) : List TxFlit :=
  let n := cdiv (16 + (if m.path.isSome then 24 else 0) + m.body.length) 112
  (List.range n).map (fun i => { cls := c, eom := i + 1 == n, frame := id, red := redOf m })

/-- Whether P23 is ACTIVE on a device with HOSTPORT_EN (R335). -/
def hostUp (s : State) : Bool := s.board.hostport && portActive 23 s

def linkDo (p : PortIdx) (a : LinkAct) (s : State) : State := post (.link p a) s

/-- The first `n` flits of a class leave the receive buffer and their credits return (R296). -/
def releaseFlits (p : PortIdx) (c : BitVec 3) (n : Nat) (s : State) : State :=
  let x := port p s
  let out := (x.rxBuf.filter (fun f => f.cls == c)).take n
  let sh := (out.filter (·.shared)).length
  let rs := out.length - sh
  let s := setPort p { x with
    rxBuf := (List.range out.length).foldl (fun l _ => l.eraseP (fun f => f.cls == c)) x.rxBuf
    farShared := x.farShared + sh
    farCredits := x.farCredits.set c.toNat (x.farCredits[c.toNat] + rs) } s
  let s := if rs = 0 then s else linkDo p (.credit c false rs) s
  if sh = 0 then s else linkDo p (.credit c true sh) s

/-- A bridge tag is free: the credits that waited for it return on P23 (R332). -/
def payOwed (s : State) : State :=
  foldS s.hostbr.owed (fun c s => releaseFlits 23 c.1 c.2 s) { s with hostbr := { s.hostbr with owed := [] } }

/-- A response to a request of the host: the bridge restores the host's tag, sends it on P23 and frees the bridge tag
(R332). `tag` is the bridge tag. -/
def hostReply (tag : BitVec 14) (m : RawMsg) (s : State) : State :=
  match s.hostbr.tags.find? (fun t => t.1 == tag) with
  | none => s
  | some t =>
    let s := payOwed { s with hostbr := { s.hostbr with tags := s.hostbr.tags.erase t } }
    if hostUp s then
      let s := modPort 23 (fun x => { x with waiting := x.waiting ++ flitsOf none (if m.kind = 0x03 ∨ m.kind = 0x70 then 2 else 3) m }) s
      pumpPort 23 (post (.port 23 { m with tag := t.2 }) s)
    else s

/-- A message of this device's kinds as it arrives, for the bridge to pass on. -/
def rawResp (src : W16) (kind : BitVec 8) (tag : BitVec 14) (body : List Byte) (s : State) : RawMsg where
  dst := ownDev s
  src := src
  kind := kind
  ttl := s.route.ttl
  mc := false
  h := true
  nf := false
  tag := tag
  epoch := 0
  resv := 0
  lenOk := true
  path := none
  body := body

/-! ### Loss notes (R374) -/

/-- The present time in ns since tick 0; the phase within the tick is a free value (log 6). -/
def nowNs (s : State) : Nat × State :=
  let (k, s) := nextFree s
  let p := s.tick.periodUs.toNat * 1000
  (now s * p + (if p = 0 then 0 else Config.freeNat k % p), s)

/-- The loss is noted here: ARMED and RESTORING become NOTED. -/
def noteLoss (d : Nat) (s : State) : State :=
  modSurv d (fun x => { x with rstate := if x.rstate = .armed ∨ x.rstate = .restoring then .noted else x.rstate }) s

/-- LOSS_NOTE to the leader and the alternate of domain `d` (R374, R380). -/
def sendLossNote (d : Nat) (p : Byte) (suspect cause : W16) (s : State) : State :=
  if (surv d s).en then
    let (t, s) := nowNs s
    let body := [BitVec.ofNat 8 d, p] ++ leBytes 2 suspect.toNat ++ leBytes 2 cause.toNat ++ [0, 0] ++ leBytes 8 t
    noteLoss d (send { dst := (surv d s).rlAlt, kind := 0x94, body := body }
      (send { dst := (surv d s).rl, kind := 0x94, body := body } s))
  else s

/-- Whether a port carries traffic of domain `d`: a group of the domain or of one of its contexts names it, or other
messages of the domain use it, which the model leaves free (log 24). -/
def carries (d p : Nat) (s : State) : Bool × State :=
  if groupHas (recGroup d s).toNat p s || groupHas (ctlGroup d s).toNat p s ||
      s.redctx.any (fun e => e.2.en && e.2.dom.toNat == d && groupHas (ctxGroup e.1 s) p s) then (true, s)
  else
    let (k, s) := nextFree s
    (Config.freeNat k % 2 == 1, s)

/-- A fault that another page has reported recalls the run of `d` that is open, and of a domain that has none and is not
RECALLING the run that opens next: of an ARMED domain, and with `held` of a HELD one (R47, R50). -/
def lossRecall (held : Bool) (d : Nat) (cause : W16) (s : State) : State :=
  let x := dom d s
  if isOpen d s then recallOwn d cause 0 s
  else if x.st = .armed ∨ (held ∧ x.st = .held) then
    markRun d x.num (nextReplays x) cause 0 (sendRecall d x.num (nextReplays x) cause 0 s)
  else s

/-- A port that carried traffic is lost: every enabled domain concerned is recalled and its leader told (R301, R317,
R374). `busy` are the domains whose frames had flits there. -/
def pathLoss (p : Nat) (cause : W16) (busy : List Nat) (s : State) : State :=
  foldS ((List.range 16).filter (fun d => (dom d s).en)) (fun d s =>
    match (if busy.contains d then (true, s) else carries d p s) with
    | (true, s) => sendLossNote d (BitVec.ofNat 8 p) (port p s).peerDev cause (lossRecall false d cause s)
    | (false, s) => s) s

/-- SEAM_FAIL: the device becomes RETIRED, recalls its domains and reports its own loss (R352, R354, R374). -/
def seamLoss (s : State) : State :=
  let s := if s.health.st = .retired then s else toHState .retired 8 s
  foldS ((List.range 16).filter (fun d => (dom d s).en)) (fun d s =>
    sendLossNote d 0xFF (ownDev s) Code.seamFail (lossRecall true d Code.seamFail s)) s

end Sys2Proof.Machine
end

