-- ==== Sys2Proof/Machine/Links.lean ====
section
/-! DEFINITION. Voxle optical links (R290 to R311): the flit layer of a port, its training, sparing and loss, the seams,
and the PORT page. -/

namespace Sys2Proof.Machine
open Sys2Proof

def ptBlk (p : Nat) : Blk := ⟨Pg.port p, 0⟩

/-! ### The flit (R294) -/

/-- One byte of a CRC-32C, bits reflected. -/
def crc32cByte (c : W32) (b : Byte) : W32 :=
  (List.range 8).foldl (fun c _ => if c.getLsbD 0 then (c >>> 1) ^^^ 0x82F63B78 else c >>> 1) (c ^^^ b.setWidth 32)

/-- CRC-32C of bytes: initial value and final XOR are all ones. -/
def crc32c (bs : List Byte) : W32 := bs.foldl crc32cByte 0xFFFFFFFF ^^^ 0xFFFFFFFF

/-- Whether a flit is 128 bytes and both CRCs match. -/
def flitPass (bs : List Byte) : Bool :=
  bs.length == 128 && leAt bs 120 4 == (crc32c (bs.take 60)).toNat && leAt bs 124 4 == (crc32c ((bs.drop 60).take 60)).toNat

/-- The fields of a flit (the flit header table). -/
def flitFields (bs : List Byte) : Flit :=
  let w := w64 (leAt bs 0 8)
  { typ := w.extractLsb' 60 4
    seq := w.extractLsb' 48 12
    ack := { ackSeq := w.extractLsb' 36 12, ackValid := w.getLsbD 35, nak := w.getLsbD 34
             credit := w.extractLsb' 14 8, pool := w.extractLsb' 10 4, resv := w.extractLsb' 0 9 }
    cls := w.extractLsb' 31 3
    som := w.getLsbD 30
    eom := w.getLsbD 29
    len := w.extractLsb' 22 7
    shared := w.getLsbD 9
    payload := (bs.drop 8).take 112 }

/-- A flit as the receiver takes it: none where a CRC fails. -/
def readFlit (bs : List Byte) : Option Flit := if flitPass bs then some (flitFields bs) else none

/-- The payload of a PARAM flit that a port sends (R303, R431). -/
def paramPayload (p : Byte) (s : State) : List Byte :=
  let b := s.board
  bytesAt ([p, BitVec.ofNat 8 (b.qslot.toNat + 8 * b2n b.hostport)] ++ leBytes 2 (ownDev s).toNat ++ leBytes 4 1 ++
    leBytes 8 s.hm.idTag.toNat) 0 112

/-- The fields of a PARAM payload (R303). -/
def paramFields (bs : List Byte) : ParamFlit :=
  { port := bs.getD 0 0
    qslot := (bs.getD 1 0).extractLsb' 0 3
    hostport := (bs.getD 1 0).getLsbD 3
    dev := w16 (leAt bs 2 2)
    version := w32 (leAt bs 4 4)
    idTag := w64 (leAt bs 8 8) }

/-! ### Wavelength masks -/

/-- The number of ones of a wavelength mask. -/
def ones (m : BitVec 9) : Nat := ((List.range 9).filter (fun k => m.getLsbD k)).length

/-- The `n` lowest-numbered wavelengths of a mask. -/
def lowest (n : Nat) (m : BitVec 9) : BitVec 9 :=
  (((List.range 9).filter (fun k => m.getLsbD k)).take n).foldl (fun w k => w ||| BitVec.ofNat 9 (2 ^ k)) 0

def lamBit (k : Nat) : BitVec 9 := BitVec.ofNat 9 (2 ^ k)

/-! ### DOWN and retraining (R300, R301, R317) -/

/-- The port enters DOWN with a code: buffers and credits go, messages of which a flit waits are dropped and counted, and
a port that carried traffic is reported lost (R301, R317). -/
def enterDown (p : PortIdx) (code : W16) (s : State) : State :=
  let was := (port p s).st
  let up := was = .active ∨ was = .retrain
  let lost := ((port p s).waiting.filter (·.eom)).length
  let ids := ((port p s).waiting ++ (port p s).unacked).filterMap (·.frame)
  let busy := (s.frameOut.filter (fun m => ids.contains m.id)).map (·.run.dom)
  let s := report (ptBlk p) code s
  let s := suNote (modPort p (fun x => { x.discard with st := .down }) s)
  let s := foldS (List.replicate lost ()) (fun _ s =>
    report ⟨Pg.route, 0⟩ Code.dropDown { s with route := { s.route with drop := satInc s.route.drop } }) s
  if up then pathLoss p code busy s else s

/-- A fast retrain starts (R300). -/
def startRetrain (p : PortIdx) (s : State) : State :=
  if portActive p s then
    linkDo p .retrain (suNote (modPort p (fun x => { x with st := .retrain, retrains := satInc x.retrains }) s))
  else s

/-- Resends every unacknowledged flit in order; a flit sent four times starts a fast retrain, one sent eight times loses
the link (R298). -/
def resendAll (p : PortIdx) (s : State) : State :=
  match (port p s).unacked with
  | [] => s
  | f :: _ =>
    let s := modPort p (fun x => { x with
      replay := satInc x.replay
      unacked := x.unacked.map (fun g => { g with sends := g.sends + 1 }) }) s
    let s := linkDo p (.resend f.seq) s
    let us := (port p s).unacked
    if us.any (fun g => 8 ≤ g.sends) then enterDown p Code.linkRetryExhausted s
    else if us.any (fun g => g.sends = 4) then startRetrain p s
    else s

/-- A protocol fault (R295). -/
def protocolFault (p : PortIdx) (s : State) : State := startRetrain p (report (ptBlk p) Code.linkProtocol s)

/-! ### The receiver (R295 to R297) -/

/-- Drops the flits that a cumulative acknowledgement covers. -/
def ackFlits (q : BitVec 12) (us : List TxFlit) : List TxFlit :=
  if us.any (fun f => f.seq == q) then (us.dropWhile (fun f => f.seq != q)).drop 1 else us

/-- A reserved bit or a reserved POOL (R295). -/
def badFields (a : AckFields) : Bool := a.resv != 0 || 9 ≤ a.pool.toNat

/-- The flits that a cumulative acknowledgement covers. -/
def ackedFlits (q : BitVec 12) (us : List TxFlit) : List TxFlit := us.take (us.length - (ackFlits q us).length)

/-- The frames' messages hear of flits acknowledged (R37). -/
def ackFrames (fs : List TxFlit) (s : State) : State := foldS (fs.filterMap (·.frame)) (fun id s => ackFrame id 1 s) s

/-- The acknowledgement and credit fields of a passing flit are taken (R295, R298). A port that is not ACTIVE resends when it
is ACTIVE again. -/
def takeAck (p : PortIdx) (a : AckFields) (s : State) : State :=
  let out := if a.ackValid then ackedFlits a.ackSeq (port p s).unacked else []
  let s := ackFrames out (modPort p (fun x => { x with
    unacked := if a.ackValid then ackFlits a.ackSeq x.unacked else x.unacked
    credits := if h : a.pool.toNat < 8 then x.credits.set a.pool.toNat (x.credits[a.pool.toNat] + a.credit.toNat)
      else x.credits
    sharedCr := if a.pool = 8 then x.sharedCr + a.credit.toNat else x.sharedCr }) s)
  pumpPort p (if a.nak && portActive p s then resendAll p s else s)

/-- A NAK for the last flit received in order (R297). -/
def sendNak (p : PortIdx) (s : State) : State :=
  if (port p s).nakSent then s
  else linkDo p (.nak ((port p s).rxNext - 1)) (modPort p (fun x => { x with nakSent := true }) s)

/-- `n` flits fail: PT_FLIT_ERR counts them and one NAK is sent (R293, R297). -/
def flitsFail (p : PortIdx) (n : Nat) (s : State) : State :=
  sendNak p (modPort p (fun x => { x with flitErr := satAdd x.flitErr n }) s)

/-- A flit in order enters the receive buffer and uses its credit (R296, R297). -/
def acceptFlit (p : PortIdx) (f : Flit) (s : State) : State :=
  let x := port p s
  let ok := if f.shared then 0 < x.farShared else 0 < x.farCredits[f.cls.toNat]
  if !ok then protocolFault p s
  else
    linkDo p (.ack x.rxNext) (setPort p { x with
      rxNext := x.rxNext + 1, nakSent := false, nakTwice := false
      farShared := if f.shared then x.farShared - 1 else x.farShared
      farCredits := if f.shared then x.farCredits else x.farCredits.set f.cls.toNat (x.farCredits[f.cls.toNat] - 1)
      rxBuf := x.rxBuf ++ [{ cls := f.cls, shared := f.shared, data := f.payload.take f.len.toNat }] } s)

/-- A passing DATA flit (R297). -/
def takeData (p : PortIdx) (f : Flit) (s : State) : State :=
  takeAck p f.ack (if f.seq = (port p s).rxNext then acceptFlit p f s else sendNak p s)

/-! ### Sparing (R305, R306) -/

/-- A DEGRADED direction with fewer than four healthy wavelengths is lost (R306). -/
def loseDegraded (p : PortIdx) (rx : Bool) (s : State) : State :=
  let x := port p s
  if (if rx then x.rxDeg else x.txDeg) && ones (~~~(if rx then x.rxFailed else x.txFailed)) < 4 then
    enterDown p Code.linkLost s
  else s

/-- Wavelength `k` of the receive direction fails; an active one is to be swapped. -/
def failLambda (p : PortIdx) (k : Nat) (s : State) : State :=
  let x := port p s
  if x.rxFailed.getLsbD k then s
  else
    let s := setPort p { x with rxFailed := x.rxFailed ||| lamBit k } s
    loseDegraded p true (if x.rxAct.getLsbD k then
        linkDo p (.swap true k) (modPort p (fun y => { y with swaps := y.swaps ++ [⟨true, k⟩] }) s)
      else s)

/-- The lane map of a direction whose wavelengths `failed` have failed: spares take their places while there are any, else
the four lowest-numbered healthy wavelengths carry the direction DEGRADED, else nothing does (R305, R306). -/
def spareMap (act failed : BitVec 9) (degraded : Bool) : Option (BitVec 9 × Bool) :=
  let healthy := ~~~failed
  let spare := healthy &&& ~~~act
  let bad := ones (act &&& failed)
  if !degraded && bad ≤ ones spare then some ((act &&& healthy) ||| lowest bad spare, false)
  else if 4 ≤ ones healthy then some (lowest 4 healthy, true)
  else none

/-- LAMBDA_SWAP_COMPLETE: the start codeword of a swap. Every wavelength of the direction that has failed before it is taken
into this swap (R306). -/
def completeSwap (p : PortIdx) (rx : Bool) (s : State) : State :=
  let x := port p s
  if !x.swaps.any (fun w => w.rx == rx) then s
  else
    let act := if rx then x.rxAct else x.txAct
    let failed := if rx then x.rxFailed else x.txFailed
    let rest := x.swaps.filter (fun w => w.rx != rx)
    if act &&& failed = 0 then setPort p { x with swaps := rest } s
    else
      match spareMap act failed (if rx then x.rxDeg else x.txDeg) with
      | none => enterDown p Code.linkLost s
      | some (m, deg) =>
        let x := if rx then { x with swaps := rest, rxAct := m, rxDeg := deg, rxSpare := !deg }
          else { x with swaps := rest, txAct := m, txDeg := deg, txSpare := !deg }
        report (ptBlk p) (if deg then Code.linkDegraded else Code.lambdaSpared) (setPort p x s)

/-- CODEWORD_RECEIVE on a port with codeword lock: corrected symbols count by wavelength; a codeword beyond correction fails
its five flits; codeword control may carry the far end's request to swap a wavelength (R292, R293, R305). -/
def takeCodeword (p : PortIdx) (correctable : Bool) (symbols : List Nat) (swap : Option (Fin 9)) (s : State) : State :=
  let st := (port p s).st
  if st = .active ∨ st = .retrain ∨ st = .param then
    if correctable then
      let s := if symbols = [] then s else modPort p (fun x => { x with
        fecCe := satInc x.fecCe
        sym := symbols.foldl (fun t k => tmod t 0 k (· + 1)) x.sym }) s
      match swap with
      | some k => loseDegraded p false
          (modPort p (fun x => { x with swaps := x.swaps ++ [⟨false, k⟩], txFailed := x.txFailed ||| lamBit k }) s)
      | none => s
    else flitsFail p 5 (modPort p (fun x => { x with fecUe := satInc x.fecUe }) s)
  else s

/-- Whether a port in a state has codeword lock, so that it receives codewords (R302). -/
def hasLock (st : LState) : Bool := st == .param || st == .active || st == .retrain

/-- SYMBOL_WINDOW_END: every active wavelength beyond the threshold fails (R305). -/
def endSymbols (p : PortIdx) (s : State) : State :=
  let x := port p s
  let bad := (List.range 9).filter (fun k => x.rxAct.getLsbD k && 2 ^ (x.spareThr.toNat + 8) < tget x.sym 0 k)
  let s := setPort p { x with symLast := x.sym, sym := [] } s
  if hasLock x.st then foldS bad (failLambda p) s else s

/-! ### Training (R302 to R304) -/

/-- Full training starts (R301, R302). -/
def startTraining (p : PortIdx) (s : State) : State :=
  modPort p (fun x => { x with
    st := .light, trains := satInc x.trains, rxFailed := 0, txFailed := 0, rxAct := 0, txAct := 0
    rxDeg := false, txDeg := false, rxSpare := false, txSpare := false }) s

/-- In LIGHT the laser input has been measured: +15.0 to +18.0 dBm on at least four wavelengths, or DOWN (R302, R308). -/
def laserDone (p : PortIdx) (dbm : List W16) (s : State) : State :=
  if (port p s).st ≠ .light then s
  else
    let good := (List.range 9).filter (fun k =>
      let v := (dbm.getD k 0).toInt
      150 ≤ v && v ≤ 180)
    let s := modPort p (fun x => { x with laser := (List.range 9).map (fun k => (k, dbm.getD k 0)) }) s
    if good.length < 4 then enterDown p Code.laserLow s else modPort p (fun x => { x with st := .lock }) s

/-- LOCK ends: eight wavelengths carry the direction, or four of them DEGRADED (R302, R306). -/
def toAlign (p : PortIdx) (locked : BitVec 9) (s : State) : State :=
  if 8 ≤ ones locked then
    let m := lowest 8 locked
    modPort p (fun x => { x with st := .align, rxAct := m, rxSpare := m.getLsbD 8 }) s
  else
    report (ptBlk p) Code.linkDegraded
      (modPort p (fun x => { x with st := .align, rxAct := lowest 4 locked, rxDeg := true }) s)

/-- WAVELENGTHS_LOCKED (R302). -/
def lambdasLocked (p : PortIdx) (locked : BitVec 9) (s : State) : State :=
  if (port p s).st = .lock ∧ (8 ≤ ones locked ∨ (4 ≤ ones locked ∧ (port p s).rxFailed = ~~~locked)) then
    toAlign p locked s
  else s

/-- LAMBDA_LOCK_TIMEOUT: what is not locked is FAILED (R302). -/
def lockTimeout (p : PortIdx) (unlocked : BitVec 9) (s : State) : State :=
  if (port p s).st ≠ .lock then s
  else
    let fails := foldS ((List.range 9).filter (fun k => unlocked.getLsbD k)) (fun _ => report (ptBlk p) Code.lambdaFail) s
    let t := modPort p (fun x => { x with rxFailed := x.rxFailed ||| unlocked }) fails
    firstOfCycle s (if ones (~~~unlocked) < 4 then enterDown p Code.linkTrainFail t else toAlign p (~~~unlocked) t)

/-- ALIGN_DONE: codeword control has agreed the lane maps; `m` is that of the transmit direction, `failed` the wavelengths
that the far receiver marks FAILED (R302). -/
def alignEnd (p : PortIdx) (m failed : BitVec 9) (s : State) : State :=
  if (port p s).st ≠ .align then s
  else linkDo p (.param (paramPayload (BitVec.ofNat 8 p.val) s)) (modPort p (fun x => { x with
    st := .param, txAct := m, txFailed := failed, txDeg := ones m == 4, txSpare := ones m == 8 && m.getLsbD 8 }) s)

/-- Whether the peer's port fits the role of this one (R304). -/
def roleOk (p : PortIdx) (peer : BitVec 8) (s : State) : Bool :=
  if isHostPort p s then peer == 0xFF else peer.toNat < 24

/-- A trained port becomes ACTIVE; one that has been ACTIVE before is fenced (R296, R318; log 24). -/
def enterActive (p : PortIdx) (s : State) : State :=
  let again := (port p s).wasActive
  let s := modPort p (fun x => { x.fresh with st := .active, wasActive := true }) s
  pumpPort p (suNote
    (if again then { s with route := { s.route with fence := s.route.fence ||| BitVec.ofNat 24 (2 ^ p.val) } } else s))

/-- The PARAM flit of the far end (R303, R304). -/
def takeParam (p : PortIdx) (f : ParamFlit) (s : State) : State :=
  if (port p s).st ≠ .param then s
  else
    let odd := p.val < 14 && f.port.toNat % 2 != p.val % 2
    let s := modPort p (fun x => { x with
      peerPort := f.port, peerSlot := f.qslot, peerHost := f.hostport, peerDev := f.dev, peerId := f.idTag
      parityBad := odd }) s
    let s := if odd then report (ptBlk p) Code.linkParityMismatch s else s
    if roleOk p f.port s then enterActive p s else enterDown p Code.linkRoleMismatch s

/-- The fields that R295 takes from a passing flit of types 0x1 to 0x3, whatever else is wrong with it. -/
def takeFields (p : PortIdx) (f : Flit) (s : State) : State :=
  if 1 ≤ f.typ.toNat ∧ f.typ.toNat ≤ 3 then takeAck p f.ack s else s

/-- A flit arrives: one that fails is counted and answered with a NAK; a passing one acts by its TYPE, and a reserved value is
a protocol fault (R293 to R299, R303). In PARAM and in RETRAIN no DATA flit is accepted; the fields of R295 are taken (log 24).
An IDLE flit changes nothing: R295 takes acknowledgements and credits from types 0x1 to 0x3 (log 24). `delayNs` is the delay that
a KEEPALIVE round trip has measured. -/
def takeFlit (p : PortIdx) (bs : List Byte) (delayNs : W32) (s : State) : State :=
  let st := (port p s).st
  if st ≠ .active ∧ st ≠ .param ∧ st ≠ .retrain then s
  else
    match readFlit bs with
    | none => flitsFail p 1 s
    | some f =>
      if badFields f.ack ∨ 5 ≤ f.typ.toNat then protocolFault p (takeFields p f s)
      else if f.typ = 4 then takeParam p (paramFields f.payload) s
      else if st ≠ .active then takeFields p f s
      else
        match f.typ.toNat with
        | 1 => takeData p f s
        | 2 => takeAck p f.ack s
        | 3 => takeAck p f.ack (modPort p (fun x => { x with kaSeen := true, delayNs := delayNs }) s)
        | _ => s

/-- A port that has not become ACTIVE in time (R302). -/
def trainExpire (p : PortIdx) (s : State) : State :=
  let st := (port p s).st
  if st = .light ∨ st = .lock ∨ st = .align ∨ st = .param then enterDown p Code.linkTrainFail s else s

/-- A write of PT_CFG: OFF becomes LIGHT with MODE TRAIN; with MODE OFF a port leaves through DOWN (R302; log 24). -/
def putPtCfg (p : PortIdx) (v : W32) (s : State) : WRes :=
  if 2 ≤ fld v 0 2 then .error Code.configRefused
  else
    let s := modPort p (fun x => { x with mode := v.extractLsb' 0 2, spareThr := v.extractLsb' 4 4 }) s
    let st := (port p s).st
    if v.getLsbD 0 then .ok (if st = .off then startTraining p s else s)
    else
      let s := if st = .active ∨ st = .retrain then enterDown p Code.linkLost s else s
      .ok (suNote (modPort p (fun x => { x.discard with st := .off }) s))

/-! ### Keepalives (R299) -/

/-- KA_WINDOW_END: a window without a KEEPALIVE is a miss; the fourth in a row loses the link. -/
def endWindow (p : PortIdx) (s : State) : State :=
  let x := port p s
  if x.st ≠ .active then s
  else if x.kaSeen then setPort p { x with kaSeen := false, missRow := 0 } s
  else
    let s := setPort p { x with kaMiss := satInc x.kaMiss, missRow := x.missRow + 1 } s
    if 4 ≤ x.missRow + 1 then enterDown p Code.linkLost s else s

/-- FAST_RETRAIN_END: back to ACTIVE, then a resend from the oldest flit (R300). -/
def endRetrain (p : PortIdx) (s : State) : State :=
  if (port p s).st ≠ .retrain then s
  else pumpPort p (resendAll p (suNote (report (ptBlk p) Code.linkRetrain (modPort p (fun x => { x with st := .active }) s))))

/-! ### Seams (R307, R310) -/

def seam (c k : Nat) (s : State) : Seam := tget s.seams {} (c * 3 + k)
def setSeam (c k : Nat) (x : Seam) (s : State) : State := { s with seams := tset s.seams {} (c * 3 + k) x }

/-- The compute die across a seam: CD0 and CD2, CD1 and CD3 share a vertical seam, CD0 and CD1, CD2 and CD3 a horizontal one; a
pier seam leads to a pier die (R12, R14). -/
def seamPeer (c k : Nat) : Option Nat :=
  match k with
  | 1 => some ((c + 2) % 4)
  | 2 => some (c + 1 - 2 * (c % 2))
  | _ => none

/-- The pier die at a compute die's pier seam: 0 for CD0 and CD1, 1 for CD2 and CD3 (R12). -/
def seamPier (c : Nat) : Nat := c / 2

/-- The berth that berth `b` faces across seam `k` of its die, and the number of their pair: a vertical seam keeps the column
of row 7, a horizontal one the row of column 7 (R13, R14, R310). -/
def faces (k : Nat) (b : BerthIdx) : Option (BerthIdx × Nat) :=
  let row := b.toNat / 8 % 8
  let col := b.toNat % 8
  match k with
  | 1 => if row = 7 then (seamPeer (b.toNat / 64) 1).map (fun c => (BitVec.ofNat 8 (c * 64 + b.toNat % 64), col)) else none
  | 2 => if col = 7 then (seamPeer (b.toNat / 64) 2).map (fun c => (BitVec.ofNat 8 (c * 64 + b.toNat % 64), row)) else none
  | _ => none

/-- A direction of a facing pair: outward is even, inward odd. -/
def seamWay (pair : Nat) (inward : Bool) : Nat := 2 * pair + b2n inward

/-- The end of a seam that holds the groups of its facing pairs: of two compute dies the lower. -/
def seamHome (c k : Nat) : Nat := min c ((seamPeer c k).getD c)

/-- A direction as it is numbered at the end that holds the groups: what leaves one end enters the other. -/
def homeWay (c k way : Nat) : Nat := if seamHome c k = c then way else way + 1 - 2 * (way % 2)

/-- A group of a direction of a facing pair of seam `k` of die `c`: one record for the two ends of the pair (R14, R307). -/
def seamGroup (c k way g : Nat) (s : State) : SeamGroup :=
  tget (seam (seamHome c k) k s).groups {} (homeWay c k way * 32 + g)

def setSeamGroup (c k way g : Nat) (y : SeamGroup) (s : State) : State :=
  let x := seam (seamHome c k) k s
  setSeam (seamHome c k) k { x with groups := tset x.groups {} (homeWay c k way * 32 + g) y } s

/-- Groups of a direction of a pair with at most one failed lane. -/
def usableGroups (c k way : Nat) (s : State) : Nat :=
  ((List.range 32).filter (fun g => (seamGroup c k way g s).lost.length ≤ 1)).length

/-- A lane of a group fails: the first is spared, a second shuts the group and degrades the pair, a lasting fault of the
device (R307, R347). -/
def laneFail (c k way g lane : Nat) (s : State) : State :=
  let y := seamGroup c k way g s
  let b : Blk := Blk.seam c k
  let pair : BitVec 8 := BitVec.ofNat 8 (2 ^ (way / 2))
  if y.lost.contains lane ∨ y.shut then s
  else if y.lost = [] then
    let s := setSeamGroup c k way g { y with lost := [lane] } s
    let x := seam c k s
    report b Code.seamLaneSpared (setSeam c k { x with spared := x.spared ||| pair } s)
  else
    let s := setSeamGroup c k way g { y with lost := y.lost ++ [lane], shut := true } s
    let x := seam c k s
    let s := lastingFault Code.seamDegraded 4 { page := Pg.cdie c, src := ownDev s }
      (report b Code.seamDegraded (setSeam c k { x with degraded := x.degraded ||| pair } s))
    if usableGroups c k way s < 16 then seamLoss (report b Code.seamFail s) else s

/-- SEAM_BEAT_FAIL: a beat is repeated; more than 16 failures of a lane within 1 ms fail the lane (R307). A vertical or
horizontal facing pair joins two compute dies, each with its own CDIE page; which of the two pages counts the beat and shows
the pair SPARED or DEGRADED the spec does not say: it is the page of the die the command names (DESIGN CHOICE, log 24). -/
def beatFail (c k way g lane : Nat) (newMs : Bool) (s : State) : State :=
  if 3 ≤ k then s
  else
    let y := seamGroup c k way g s
    let fails := tmod (if newMs then [] else y.fails) 0 lane (· + 1)
    let s := setSeamGroup c k way g { y with fails := fails } s
    let s := setSeam c k { seam c k s with replay := satInc (seam c k s).replay } s
    if 16 < tget fails 0 lane then laneFail c k way g lane s else s

/-! ### The PORT page (R309) -/

/-- The port of a PORT page. -/
def portOf (p : Nat) : Option PortIdx := if h : p < 24 then some ⟨p, h⟩ else none

/-- A write of a PORT register. -/
def putPort (p : PortIdx) (off : Nat) (v : W32) (s : State) : WRes :=
  let x := port p s
  match off with
  | 0x040 => putPtCfg p v s
  | 0x058 => .ok (setPort p { x with flitErr := clearBy x.flitErr v } s)
  | 0x05C => .ok (setPort p { x with replay := clearBy x.replay v } s)
  | 0x060 => .ok (setPort p { x with fecCe := clearBy x.fecCe v } s)
  | 0x064 => .ok (setPort p { x with fecUe := clearBy x.fecUe v } s)
  | 0x068 => .ok (setPort p { x with kaMiss := clearBy x.kaMiss v } s)
  | 0x06C => .ok (setPort p { x with
      trains := clearBy x.trains (v >>> 16), retrains := clearBy x.retrains (v &&& 0xFFFF) } s)
  | 0x070 => if fld v 0 4 < 9 then .ok (setPort p { x with lsel := v.extractLsb' 0 4 } s) else .error Code.configRefused
  | _ => .ok s

/-- Whether a write of a PORT register changes an RWL field. -/
def rwlPort (p : PortIdx) (off : Nat) (v : W32) (s : State) : Bool :=
  off == 0x040 && (v.extractLsb' 0 2 != (port p s).mode || v.extractLsb' 4 4 != (port p s).spareThr)

def LState.code (x : LState) : Nat :=
  match x with
  | .off => 0
  | .light => 1
  | .lock => 2
  | .align => 3
  | .param => 4
  | .active => 5
  | .retrain => 6
  | .down => 7

/-- PT_STATUS (R309). -/
def ptStatus (p : PortIdx) (s : State) : W32 :=
  let x := port p s
  w32 ((lastErr (ptBlk p) s).toNat * 2 ^ 16 + x.st.code * 2 ^ 8 + b2n x.rxDeg * 4 + b2n x.txDeg * 2 +
    b2n (x.rxSpare || x.txSpare))

/-- A read of a PORT register. -/
def getPort (p : PortIdx) (off : Nat) (s : State) : W32 × State :=
  let x := port p s
  let id := regKey (Pg.port p) 0x050
  match off with
  | 0x040 => (w32 (x.spareThr.toNat * 16 + x.mode.toNat), s)
  | 0x044 => (ptStatus p s, s)
  | 0x048 => (w32 ((x.rxFailed ||| x.txFailed).toNat * 2 ^ 18 + x.rxAct.toNat * 2 ^ 9 + x.txAct.toNat), s)
  | 0x04C => (w32 (x.peerDev.toNat * 2 ^ 16 + x.peerPort.toNat * 2 ^ 8 + b2n x.parityBad * 16 + b2n x.peerHost * 8 +
      x.peerSlot.toNat), s)
  | 0x050 => readLo id x.peerId s
  | 0x054 => readHi id x.peerId s
  | 0x058 => (x.flitErr, s)
  | 0x05C => (x.replay, s)
  | 0x060 => (x.fecCe, s)
  | 0x064 => (x.fecUe, s)
  | 0x068 => (x.kaMiss, s)
  | 0x06C => (w32 (x.trains.toNat * 2 ^ 16 + x.retrains.toNat), s)
  | 0x070 => (w32 x.lsel.toNat, s)
  | 0x074 => (w32 (tget x.symLast 0 x.lsel.toNat), s)
  | 0x078 => (w32 ((tget x.laser 0 x.lsel.toNat).toNat * 2 ^ 16 + (tget x.rxPwr 0 x.lsel.toNat).toNat), s)
  | _ => (0, s)

/-! ### The seam registers of a CDIE page (R310) -/

def seamStatus (c k : Nat) (s : State) : W32 :=
  w32 ((lastErr (Blk.seam c k) s).toNat * 2 ^ 16 + (seam c k s).degraded.toNat * 2 ^ 8 + (seam c k s).spared.toNat)

/-! ### Commands -/

/-- CODEWORD_RECEIVE (R293). -/
def execCodewordReceive (p : PortIdx) (correctable : Bool) (symbols : List Nat) (swap : Option (Fin 9)) (s : State) :
    Outcome := awake s (.next (takeCodeword p correctable symbols swap s))

/-- FLIT_DATA (R297). -/
def execFlitData (p : PortIdx) (bytes : List Byte) (s : State) : Outcome :=
  awake s (.next (takeFlit p bytes (port p s).delayNs s))

/-- FLIT_IDLE (R295). -/
def execFlitIdle (p : PortIdx) (bytes : List Byte) (s : State) : Outcome :=
  awake s (.next (takeFlit p bytes (port p s).delayNs s))

/-- FLIT_CTRL (R295). -/
def execFlitCtrl (p : PortIdx) (bytes : List Byte) (s : State) : Outcome :=
  awake s (.next (takeFlit p bytes (port p s).delayNs s))

/-- FLIT_KEEPALIVE (R299). -/
def execFlitKeepalive (p : PortIdx) (bytes : List Byte) (delayNs : W32) (s : State) : Outcome :=
  awake s (.next (takeFlit p bytes delayNs s))

/-- FLIT_PARAM (R303). -/
def execFlitParam (p : PortIdx) (bytes : List Byte) (s : State) : Outcome :=
  awake s (.next (takeFlit p bytes (port p s).delayNs s))

/-- A NAK that nothing has answered is sent once more (R297). -/
def nakAgain (p : PortIdx) (s : State) : State :=
  let x := port p s
  if portActive p s && x.nakSent && !x.nakTwice then
    linkDo p (.nak (x.rxNext - 1)) (modPort p (fun x => { x with nakTwice := true }) s)
  else s

/-- NAK_RETRY_TIMEOUT (R297). -/
def execNakRetryTimeout (p : PortIdx) (s : State) : Outcome :=
  awake s (.next (nakAgain p s))

/-- ACK_TIMEOUT (R298). -/
def execAckTimeout (p : PortIdx) (s : State) : Outcome := awake s (.next (if portActive p s then resendAll p s else s))

/-- KEEPALIVE_SEND (R299). -/
def execKeepaliveSend (p : PortIdx) (s : State) : Outcome := awake s (.next (if portActive p s then linkDo p .keepalive s else s))

/-- KA_WINDOW_END (R299). -/
def execKaWindowEnd (p : PortIdx) (s : State) : Outcome := awake s (.next (endWindow p s))

/-- FAST_RETRAIN_END (R300). -/
def execFastRetrainEnd (p : PortIdx) (s : State) : Outcome := awake s (.next (endRetrain p s))

/-- FAST_RETRAIN_TIMEOUT (R300). -/
def execFastRetrainTimeout (p : PortIdx) (s : State) : Outcome :=
  awake s (.next (if (port p s).st = .retrain then enterDown p Code.linkLost s else s))

/-- PORT_RETRAIN_TIMER (R301). -/
def execPortRetrainTimer (p : PortIdx) (s : State) : Outcome :=
  awake s (.next (if (port p s).st = .down ∧ (port p s).mode = 1 then startTraining p s else s))

/-- PT_CFG_WRITE (R302, R309). -/
def execPtCfgWrite (r : Req) (p : PortIdx) (v : W32) (s : State) : Outcome :=
  awake s (.next (regWrite r (ptBlk p) (rwlPort p 0x040 v s) (putPtCfg p v s) s))

/-- LASER_MEASURE_DONE (R302). -/
def execLaserMeasureDone (p : PortIdx) (dbm : List W16) (s : State) : Outcome := awake s (.next (laserDone p dbm s))

/-- LAMBDA_LOCK_TIMEOUT (R302). -/
def execLambdaLockTimeout (p : PortIdx) (unlocked : BitVec 9) (s : State) : Outcome := awake s (.next (lockTimeout p unlocked s))

/-- WAVELENGTHS_LOCKED (R302). -/
def execWavelengthsLocked (p : PortIdx) (locked : BitVec 9) (s : State) : Outcome := awake s (.next (lambdasLocked p locked s))

/-- ALIGN_DONE (R302). -/
def execAlignDone (p : PortIdx) (txMap : BitVec 9) (s : State) (txFailed : BitVec 9 := 0) : Outcome :=
  awake s (.next (alignEnd p txMap txFailed s))

/-- TRAIN_TIMEOUT (R302). -/
def execTrainTimeout (p : PortIdx) (s : State) : Outcome := awake s (.next (trainExpire p s))

/-- SYMBOL_WINDOW_END (R305). -/
def execSymbolWindowEnd (p : PortIdx) (s : State) : Outcome := awake s (.next (endSymbols p s))

/-- CLOCK_RECOVERY_LOST (R305). -/
def execClockRecoveryLost (p : PortIdx) (lam : Fin 9) (s : State) : Outcome :=
  awake s (.next (if hasLock (port p s).st then failLambda p lam s else s))

/-- A measured optical power: below −5.5 dBm on an active wavelength it is reported (R308, R311). -/
def takeRxPower (p : PortIdx) (lam : Fin 9) (dbm : W16) (s : State) : State :=
  let s := modPort p (fun x => { x with rxPwr := tput x.rxPwr lam dbm }) s
  if (port p s).rxAct.getLsbD lam && dbm.toInt < -55 then report (ptBlk p) Code.rxPowerLow s else s

/-- RX_POWER_LOW: below −5.5 dBm on an active wavelength (R308, R311). -/
def execRxPowerLow (p : PortIdx) (lam : Fin 9) (dbm : W16) (s : State) : Outcome :=
  awake s (.next (takeRxPower p lam dbm s))

/-- LAMBDA_SWAP_COMPLETE (R305, R306). -/
def execLambdaSwapComplete (p : PortIdx) (rx : Bool) (s : State) : Outcome := awake s (.next (completeSwap p rx s))

/-- SEAM_BEAT_FAIL (R307). -/
def execSeamBeatFail (die seam : BitVec 2) (pair : BitVec 3) (group lane : BitVec 5) (newMs : Bool) (s : State)
    (inward : Bool := false) : Outcome :=
  awake s (.next (beatFail die.toNat seam.toNat (seamWay pair.toNat inward) group.toNat lane.toNat newMs s))

end Sys2Proof.Machine
end

