-- ==== Sys2Proof/Machine/ObjTables.lean ====
section
/-! DEFINITION. The object and extent tables as the driver reads and changes them (R191, R194 to R198, R205), and moves
of extents (R199 to R204, R215). -/

namespace Sys2Proof.Machine
open Sys2Proof

def objBlk : Blk := ⟨Pg.object, 0⟩

/-! ### Entries as words (R194, R198) -/

def objWord (e : ObjEntry) : BitVec 128 :=
  BitVec.ofNat 128 (b2n e.valid * 2 ^ 127 + e.sclass.toNat * 2 ^ 125 + e.writer.toNat * 2 ^ 120 +
    e.owner.toNat * 2 ^ 112 + e.audit.toNat * 2 ^ 108 + e.privMap.toNat * 2 ^ 80 + e.sgroup.toNat * 2 ^ 64 +
    e.label.toNat * 2 ^ 32 + e.extCount.toNat)

def objOfWord (w : BitVec 128) : ObjEntry where
  valid := w.getLsbD 127
  sclass := w.extractLsb' 125 2
  writer := w.extractLsb' 120 5
  owner := w.extractLsb' 112 8
  audit := w.extractLsb' 108 4
  privMap := w.extractLsb' 80 16
  sgroup := w.extractLsb' 64 16
  label := w.extractLsb' 32 32
  extCount := w.extractLsb' 0 21

def ExtKind.code (k : ExtKind) : Nat :=
  match k with
  | .scratch => 0
  | .pool => 1
  | .object => 2

def ExtState.code (k : ExtState) : Nat :=
  match k with
  | .idle => 0
  | .fresh => 1
  | .promoting => 2
  | .evicting => 3
  | .poisoned => 4
  | .rebuilding => 5
  | .moved => 6

def extWord (x : Nat) (s : State) : BitVec 128 :=
  let e := ext x s
  if lastExt < x then 0
  else BitVec.ofNat 128 (e.kind.code * 2 ^ 126 + e.st.code * 2 ^ 123 + b2n e.pin * 2 ^ 122 + e.freshFd.toNat * 2 ^ 118 +
    b2n (s.mem.retired.contains x) * 2 ^ 117 + e.obj.toNat * 2 ^ 96 + e.ord.toNat * 2 ^ 64 + e.freshPhys.toNat * 2 ^ 43 +
    e.phys.toNat)

/-- A reserved value or bit of an object entry, or a reserved audit code (R194, R341). -/
def objReserved (w : BitVec 128) : Bool :=
  let e := objOfWord w
  fld w 96 12 != 0 || fld w 21 11 != 0 || e.sclass == 3 || 0x10 < e.writer.toNat || 14 ≤ e.audit.toNat

/-- What a registration's entry may not hold: a reserved value, a number of extents out of range, or a class that its WRITER
forbids (R194, R358). -/
def objBad (w : BitVec 128) : Bool :=
  let e := objOfWord w
  objReserved w || e.extCount == 0 || lastExt + 1 < e.extCount.toNat || (e.sclass == 1 && e.writer != 0x10) ||
    (e.sclass == 2 && e.writer == 0x10)

/-! ### Releases, registrations and changes (R195 to R198) -/

/-- Posts a move result (R199). -/
def postMove (tag code : W16) (s : State) : State :=
  raise Pg.object 0 (setMem { s.mem with moveRes := s.mem.moveRes ++ [(tag, code)] } s)

/-- A move ends without its switch: its destination's physical extent returns to the pool. -/
def abandonMove (m : Move) (code : W16) (s : State) : State :=
  let s := setMem { s.mem with moves := s.mem.moves.erase m } s
  postMove m.tag code (if m.waiting then s else freePhys m.dstPhys s)

/-- Releases object `o` at rank 5 with the entry `w` written (R194, R196). -/
def releaseObj (o : Nat) (w : BitVec 128) (s : State) : State :=
  let xs := (extsOf o s).filter (fun x => (ext x s).st != .moved)
  if !(obj o s).valid || objReserved w then refuse objBlk Code.objBadEntry s
  else if xs.any (fun x => (ext x s).st == .fresh || (ext x s).pin) then refuse objBlk Code.objBusy s
  else if busyMember o s then refuse objBlk Code.wsBusy s
  else
    let s := foldS (s.mem.moves.filter (fun m => xs.contains m.src)) (fun m s => abandonMove m Code.moveAbandoned s) s
    let s := foldS xs (fun x s =>
      let p := (ext x s).phys.toNat
      keepOld x p (openDoms s) (setExt x (ext x s).toPool s)) s
    setObj o {} (setMem { s.mem with
      keepsWrite := s.mem.keepsWrite.filter (fun p => p.1 != o)
      notYetWrite := s.mem.notYetWrite.filter (fun p => p.1 != o) } s)

/-- Makes the contents of a physical extent open (R195, R198). -/
def openPhys (p : Nat) (s : State) : State :=
  let (k, s) := nextFree s
  setMem (s.mem.openRange (p * extBytes) extBytes k) s

/-- The region of an extent number: a slice, or 256 for LPDDR5X (R189). -/
def regionOf (x : Nat) : Nat := if x < 65536 then x / 256 else 256

/-- Registers object `o` with the extents that the staged entries name (R195). -/
def registerObj (o : Nat) (w : BitVec 128) (es : List Staged) (s : State) : State :=
  let xs := es.map (·.index)
  let ords := es.map (fun e => fld e.data 64 21)
  let n := (objOfWord w).extCount.toNat
  let enough := xs.all (fun x => (xs.filter (fun y => regionOf y == regionOf x)).length ≤ regionFree x s)
  if 65535 < o || objBad w || xs.length != n || !(ords.all (· < n)) || !decide ords.Nodup || !decide xs.Nodup ||
      xs.any (fun x => lastExt < x || (ext x s).kind != .pool) || !enough then
    refuse objBlk Code.objBadEntry s
  else
    let s := foldS es (fun e s =>
      match takePhys e.index s with
      | none => s
      | some (p, s) =>
        openPhys p (setExt e.index
          { kind := .object, obj := w16 o, ord := BitVec.ofNat 21 (fld e.data 64 21), phys := BitVec.ofNat 21 p } s)) s
    let s := setObj o (objOfWord w) s
    foldS xs markStale s

/-- WRITER of object `o` becomes `new`: a frame of the old writer that is open keeps the object until it ends, and one of the
new writer that is open does not write it yet (R197). -/
def setWriter (o : Nat) (new : BitVec 5) (s : State) : State :=
  let e := obj o s
  let old := e.writer.toNat
  setObj o { e with writer := new } (setMem { s.mem with
    keepsWrite := s.mem.keepsWrite ++ (if isOpen old s && mayWrite old o s then [(o, old)] else [])
    notYetWrite := s.mem.notYetWrite ++
      (if isOpen new.toNat s && !s.mem.keepsWrite.contains (o, new.toNat) then [(o, new.toNat)] else []) } s)

/-- Changes WRITER of object `o` (R197). -/
def changeWriter (o : Nat) (w : BitVec 128) (es : List Staged) (s : State) : State :=
  let e := obj o s
  let wr : BitVec 5 := w.extractLsb' 120 5
  if es != [] || objWord { e with writer := wr } != w || 0x10 < wr.toNat || (e.sclass == 1 && wr != e.writer) then
    refuse objBlk Code.objBadEntry s
  else if wr = e.writer then s
  else if (extsOf o s).any (fun x => (ext x s).st == .fresh) then refuse objBlk Code.objBusy s
  else if busyMember o s then refuse objBlk Code.wsBusy s
  else setWriter o wr s

/-- A write of an SRAM extent's entry: its kind between SCRATCH and POOL, and the fields OBJ and ORD (R198). -/
def changeKind (x : Nat) (w : BitVec 128) (s : State) : State :=
  let e := { ext x s with obj := w16 (fld w 96 16), ord := BitVec.ofNat 21 (fld w 64 21) }
  let b := BitVec.ofNat 8 (x / 256)
  let free := !(List.range 16).any (fun d => (dom d s).en && holdsBerth d b s)
  let bad := refuse objBlk Code.objBadEntry s
  if lastExt < x ∨ x % 256 = 255 ∧ x < 65536 then bad
  else
    match e.kind, fld w 126 2 with
    | .scratch, 0 => setExt x e s
    | .pool, 1 => setExt x e s
    | .scratch, 1 => if free then freePhys e.phys.toNat (setExt x e.toPool s) else bad
    | .pool, 0 =>
      if free && x < 65536 then
        (match takePhys x s with
        | some (p, s) => openPhys p (setExt x { obj := e.obj, ord := e.ord, phys := BitVec.ofNat 21 p } s)
        | none => bad)
      else bad
    | _, _ => bad

/-- A list in rising order of index; entries of one index keep their order. -/
def insStaged (l : List Staged) (x : Staged) : List Staged :=
  match l with
  | [] => [x]
  | y :: r => if x.index < y.index then x :: y :: r else y :: insStaged r x

def isRelease (e : Staged) : Bool := !e.extTable && !e.data.getLsbD 127

/-- Rank 5: staged releases, by object index (R196, R32). -/
def stagedReleases (s : State) : State :=
  let l := (s.mem.staged.filter isRelease).foldl insStaged []
  let s := setMem { s.mem with staged := s.mem.staged.filter (fun e => !isRelease e) } s
  foldS l (fun e s => releaseObj e.index e.data s) s

/-- Rank 7: staged changes of kind, then registrations and changes of WRITER by object index (R195, R197, R198, R32). A write
of an OBJECT extent that keeps its KIND is refused where it changes OBJ or ORD (DESIGN CHOICE, log 42). -/
def stagedWrites (s : State) : State :=
  let st := s.mem.staged
  let objs := (st.filter (fun e => !e.extTable)).foldl insStaged []
  let exts := st.filter (·.extTable)
  let toObj := exts.filter (fun e => fld e.data 126 2 == 2)
  let s := setMem { s.mem with staged := [] } s
  let s := foldS (exts.filter (fun e => fld e.data 126 2 != 2)) (fun e s => changeKind e.index e.data s) s
  let s := foldS objs (fun e s =>
    let es := toObj.filter (fun y => fld y.data 96 16 == e.index)
    if (obj e.index s).valid then changeWriter e.index e.data es s else registerObj e.index e.data es s) s
  foldS (toObj.filter (fun y => !objs.any (fun e => e.index == fld y.data 96 16))) (fun y s =>
    if (ext y.index s).kind = .object ∧ (ext y.index s).obj.toNat = fld y.data 96 16 ∧
      (ext y.index s).ord.toNat = fld y.data 64 21 then s
    else refuse objBlk Code.objBadEntry s) s

/-! ### Moves (R199 to R204) -/

/-- MOVE_BAD and MOVE_WRITABLE of a promote or an evict (R200). A destination that a move in progress holds is still POOL, and R200
does not name it: it is refused with MOVE_BAD (DESIGN CHOICE, log 42). -/
def moveBadCode (promote : Bool) (x y : Nat) (s : State) : Option W16 :=
  if lastExt < x ∨ lastExt < y ∨ (ext x s).kind ≠ .object ∨ (ext y s).kind ≠ .pool ∨
      s.mem.moves.any (fun m => m.dst == y && !m.waiting) then some Code.moveBad
  else if promote ∧ (65536 ≤ y ∨ (x < 65536 ∧ x / 256 = y / 256)) then some Code.moveBad
  else if ¬ promote ∧ (65536 ≤ x ∨ y < 65536) then some Code.moveBad
  else if (obj (ext x s).obj.toNat s).writer ≠ 0x10 then some Code.moveWritable
  else none

/-- Starts a move: the destination takes a physical extent of its region (R201). What happens when the pool of that region is
empty no rule says: the move is refused with MOVE_BAD (DESIGN CHOICE, log 42). -/
def startMove (op : MoveOp) (x y : Nat) (tag : W16) (s : State) : State :=
  match takePhys y s with
  | none => postMove tag Code.moveBad s
  | some (p, s) =>
    let s := setExt x { ext x s with st := if op = .promote then .promoting else .evicting } s
    setMem { s.mem with moves := s.mem.moves ++
      [{ op := op, src := x, dst := y, dstPhys := p, tag := tag, waiting := false, copied := false }] } s

/-- A promote meets its source (R204). The table starts a move from IDLE only; a FRESH source, which a frame of a former WRITER
can hold, is refused as the other states of the table's last refusal are, and a pinned EVICTING source, which meets two rows
of the table, with MOVE_PINNED at once (DESIGN CHOICE, log 42). -/
def takePromote (r : MoveReq) (s : State) : State :=
  match moveBadCode true r.src r.dst s with
  | some c => postMove r.tag c s
  | none =>
    match (ext r.src s).st with
    | .promoting => postMove r.tag Code.moveDuplicate s
    | .fresh => postMove r.tag Code.moveBadState s
    | .poisoned => postMove r.tag Code.moveBadState s
    | .rebuilding => postMove r.tag Code.moveBadState s
    | .moved => postMove r.tag Code.moveBadState s
    | st =>
      if (ext r.src s).pin then postMove r.tag Code.movePinned s
      else if st = .evicting then
        setMem { s.mem with moves := s.mem.moves ++
          [{ op := .promote, src := r.src, dst := r.dst, dstPhys := 0, tag := r.tag, waiting := true, copied := false }] } s
      else startMove .promote r.src r.dst r.tag s

/-- An evict meets its source (R204). -/
def takeEvict (r : MoveReq) (s : State) : State :=
  match moveBadCode false r.src r.dst s with
  | some c => postMove r.tag c s
  | none =>
    match (ext r.src s).st with
    | .promoting => postMove r.tag Code.evictBusy s
    | .evicting => postMove r.tag Code.evictBusy s
    | .fresh => postMove r.tag Code.moveBadState s
    | .poisoned => postMove r.tag Code.moveBadState s
    | .rebuilding => postMove r.tag Code.moveBadState s
    | .moved => postMove r.tag Code.moveBadState s
    | _ => if (ext r.src s).pin then postMove r.tag Code.evictBusy s else startMove .evict r.src r.dst r.tag s

/-- PIN and UNPIN (R203). -/
def takePin (v : Bool) (r : MoveReq) (s : State) : State :=
  if lastExt < r.src ∨ (ext r.src s).kind ≠ .object then postMove r.tag Code.moveBad s
  else postMove r.tag 0 (setExt r.src { ext r.src s with pin := v } s)

/-- Gives a POISONED extent new backing: the code it is refused with, or the state with the extent REBUILDING (R215). -/
def remapExt (x : Nat) (s : State) : WRes :=
  if lastExt < x ∨ (ext x s).kind ≠ .object then .error Code.moveBad
  else if (ext x s).st ≠ .poisoned then .error Code.moveBadState
  else
    match takePhys x s with
    | none => .error Code.remapNoPool
    | some (p, s) =>
      let e := ext x s
      .ok (openPhys p (freePhys e.phys.toNat (setExt x { e with st := .rebuilding, phys := BitVec.ofNat 21 p } s)))

/-- REMAP (R215) names its extent in MOVE_SRC and ignores MOVE_DST, as PIN and UNPIN do; MOVE_WRITABLE is not for these three
(DESIGN CHOICE, log 42). -/
def takeRemap (r : MoveReq) (s : State) : State :=
  match remapExt r.src s with
  | .error c => postMove r.tag c s
  | .ok s => postMove r.tag 0 s

/-- LPDDR5X bytes that a copy between two extents moves (R284). -/
def moveLpxBytes (x y : Nat) : Nat := (if 65536 ≤ x then extBytes else 0) + (if 65536 ≤ y then extBytes else 0)

/-- Charges LPDDR5X bytes of work outside frames to a client (R284 to R286). -/
def chargeLpx (c : BitVec 8) (n : Nat) (s : State) : State := charge none c 0 n 0 0 s

/-- Whether the source of a move is still being copied. -/
def moveLive (m : Move) (s : State) : Bool := (ext m.src s).st == .promoting || (ext m.src s).st == .evicting

/-- Promotes that waited for a move of extent `x` meet their source, which is now `y` (R204). -/
def takeWaiting (x y : Nat) (s : State) : State :=
  let wait := s.mem.moves.filter (fun w => w.waiting && w.src == x)
  let s := setMem { s.mem with moves := s.mem.moves.filter (fun w => !(w.waiting && w.src == x)) } s
  foldS wait (fun w s => takePromote { op := .promote, src := y, dst := w.dst, tag := w.tag } s) s

/-- A move ends whose source has been POISONED or whose destination's physical extent has been retired (log 42). -/
def failMove (m : Move) (s : State) : State :=
  let s := abandonMove m (if m.dead then Code.moveAbandoned else Code.moveBadState) s
  takeWaiting m.src m.src (if moveLive m s then setExt m.src { ext m.src s with st := .idle } s else s)

/-- A checkpoint follows the extents of its objects: what it retains for extent `x` it retains for extent `y` (R366, R378). -/
def Ckpt.moved (x y : Nat) (c : Ckpt) : Ckpt :=
  { c with exts := c.exts.map (fun e => if e.1 = x then (y, e.2) else e) }

/-- Extent `x` has become extent `y`: the checkpoints follow. -/
def moveCkpts (x y : Nat) (s : State) : State :=
  let to_ (z : Nat) : Nat := if z = x then y else z
  setSurvive { s.survive with doms := s.survive.doms.map (fun e => (e.1, { e.2 with
    safe := e.2.safe.map (Ckpt.moved x y)
    newer := e.2.newer.map (Ckpt.moved x y)
    unacked := e.2.unacked.map (fun u => (to_ u.1, u.2))
    resent := e.2.resent.map to_ })) } s

/-- A move whose copy has completed switches (R202): frames that are open go on reading the source. A destination that has
been registered or made SCRATCH since the move began is overwritten all the same, and its physical extent is not freed: the
spec neither refuses those writes nor says what the switch then does (DESIGN CHOICE, log 42). -/
def switchMove (m : Move) (s : State) : State :=
  let e := ext m.src s
  if !moveLive m s || m.dead then failMove m s
  else
    let s := setMem { s.mem with moves := s.mem.moves.erase m } s
    let s := setExt m.dst { kind := .object, obj := e.obj, ord := e.ord, pin := e.pin, phys := BitVec.ofNat 21 m.dstPhys } s
    let s := if openDoms s = [] then freePhys e.phys.toNat (setExt m.src e.toPool s)
      else setExt m.src { e with st := .moved } (setMem { s.mem with old := s.mem.old ++
          [{ ext := m.src, phys := e.phys.toNat, readers := openDoms s, moved := true }] } s)
    let s := moveCkpts m.src m.dst (chargeLpx (obj e.obj.toNat s).owner (moveLpxBytes m.src m.dst) s)
    takeWaiting m.src m.dst (postMove m.tag 0 s)

/-- The moves of one operation whose copies have completed switch, and those that cannot complete end, in order. -/
def switchMoves (op : MoveOp) (s : State) : State :=
  foldS (s.mem.moves.filter (fun m => m.op == op && !m.waiting && (m.copied || m.dead || !moveLive m s))) switchMove s

/-- Rank 8: promotes switch, then PROMOTE, PIN, UNPIN and REMAP requests take effect in submission order (R199). -/
def movesRank8 (s : State) : State :=
  let s := switchMoves .promote s
  let reqs := s.mem.moveReqs.filter (fun r => r.op != .evict)
  let s := setMem { s.mem with moveReqs := s.mem.moveReqs.filter (fun r => r.op == .evict) } s
  foldS reqs (fun r s => match r.op with
    | .promote => takePromote r s
    | .pin => takePin true r s
    | .unpin => takePin false r s
    | .remap => takeRemap r s
    | .evict => s) s

/-- Rank 9: evictions switch, then EVICT requests take effect (R199). -/
def movesRank9 (s : State) : State :=
  let s := switchMoves .evict s
  let reqs := s.mem.moveReqs
  let s := setMem { s.mem with moveReqs := [] } s
  foldS reqs takeEvict s

/-- MOVE_COPY_COMPLETE: the tier mover has copied the committed version of extent `x`, unless its read meets an
error (R201, R213). -/
def moveCopied (x : Nat) (r : ReadEvent) (s : State) : State :=
  match s.mem.moves.find? (fun m => m.src == x && !m.waiting && !m.copied) with
  | none => s
  | some m =>
    let e := ext x s
    if e.st ≠ .promoting ∧ e.st ≠ .evicting then s
    else
      match moverRead x r none s with
      | (false, s) => s
      | (true, s) =>
        let mem := s.mem.copyExtent e.phys.toNat m.dstPhys
        setMem { mem with moves := mem.moves.map (fun y => if y = m then { m with copied := true } else y) } s

/-! ### The OBJECT page (R205) -/

def putWinCmd (v : W32) (s : State) : WRes :=
  let m := s.mem
  let i := fld m.winSel 0 21
  let t := m.winSel.getLsbD 31
  let m := if v.getLsbD 1 then
      { m with staged := m.staged ++
        [{ extTable := t, index := i, data := m.win3 ++ m.win2 ++ m.win1 ++ m.win0 }] }
    else m
  let w := if t then extWord i s else objWord (obj i s)
  .ok (setMem (if v.getLsbD 0 then
    { m with win0 := w.extractLsb' 0 32, win1 := w.extractLsb' 32 32, win2 := w.extractLsb' 64 32
             win3 := w.extractLsb' 96 32 } else m) s)

def moveOp (n : Nat) : Option MoveOp :=
  match n with
  | 1 => some .promote
  | 2 => some .evict
  | 3 => some .pin
  | 4 => some .unpin
  | 5 => some .remap
  | _ => none

/-- A write of MOVE_GO (R199). -/
def putMoveGo (v : W32) (s : State) : WRes :=
  match moveOp (fld v 0 3) with
  | none => .error Code.moveBad
  | some op =>
    let m := s.mem
    if 64 ≤ m.moveReqs.length then .error Code.moveFull
    else .ok (setMem { m with moveReqs := m.moveReqs ++
      [{ op := op, src := m.moveSrc.toNat, dst := m.moveDst.toNat, tag := v.extractLsb' 16 16 }] } s)

/-- A read of MOVE_RES (R205). -/
def readMoveRes (s : State) : W32 × State :=
  match s.mem.moveRes with
  | (t, c) :: r => (t ++ c, setMem { s.mem with moveRes := r } s)
  | [] =>
    let h := hdr Pg.object s
    (0, setHdr Pg.object { h with errCount := satInc h.errCount } s)

def putObject (off : Nat) (v : W32) (s : State) : WRes :=
  let m := s.mem
  match off with
  | 0x040 => .ok (setMem { m with winSel := v &&& 0x801FFFFF } s)
  | 0x044 => putWinCmd v s
  | 0x050 => .ok (setMem { m with win0 := v } s)
  | 0x054 => .ok (setMem { m with win1 := v } s)
  | 0x058 => .ok (setMem { m with win2 := v } s)
  | 0x05C => .ok (setMem { m with win3 := v } s)
  | 0x060 => .ok (setMem { m with moveSrc := v.extractLsb' 0 21 } s)
  | 0x064 => .ok (setMem { m with moveDst := v.extractLsb' 0 21 } s)
  | 0x068 => putMoveGo v s
  | 0x078 => .ok (setMem { m with poolSel := v.extractLsb' 0 8 } s)
  | _ => .ok s

/-- A read of the OBJECT page (R205). MOVE_RES_CNT shows 64 where more results wait, and POOL_LPX reads 0 while a controller
trains, at reset or later, or has failed: the spec settles neither (DESIGN CHOICE, log 21). -/
def getObject (off : Nat) (s : State) : W32 × State :=
  let m := s.mem
  match off with
  | 0x040 => (m.winSel, s)
  | 0x048 => (lastErr objBlk s ++ w16 (b2n (m.staged != [])), s)
  | 0x050 => (m.win0, s)
  | 0x054 => (m.win1, s)
  | 0x058 => (m.win2, s)
  | 0x05C => (m.win3, s)
  | 0x060 => (m.moveSrc.setWidth 32, s)
  | 0x064 => (m.moveDst.setWidth 32, s)
  | 0x06C => readMoveRes s
  | 0x070 => (w32 (min 64 m.moveRes.length), s)
  | 0x074 => (w32 (if m.training || (List.range 24).any (fun i => !(lpxDev i s).trained) then 0 else lpxFreeCount s), s)
  | 0x078 => (m.poolSel.setWidth 32, s)
  | 0x07C => (w32 (min 255 (sliceFree m.poolSel.toNat s).length), s)
  | _ => (0, s)

end Sys2Proof.Machine
end

