-- ==== Sys2Proof/Machine/MemCmds.lean ====
section
/-! DEFINITION. Memory requests from other devices and from the host (R500, R324, R325), second reads of a slice (R337),
the LPDDR5X controllers (R206 to R216), and the commands of the OBJECT and LPX pages. -/

namespace Sys2Proof.Machine
open Sys2Proof

/-! ### Requests from outside (R187, R189, R500) -/

/-- The code a request for `n` bytes at `a` is refused with. -/
def requestCode (a n : Nat) (s : State) : Option W16 :=
  if tierOf a s = .unmapped ∨ tierOf (a + n - 1) s ≠ tierOf a s then some Code.memRange
  else
    let ps := piecesOf a n
    if ps.any (fun p => (ext p.1 s).kind == .pool) then some Code.extentPool
    else if ps.any (fun p => (ext p.1 s).st == .poisoned || (ext p.1 s).st == .rebuilding) then some Code.extentPoisoned
    else none

def sendPutAck (q : MemReq) (status : W16) (s : State) : State :=
  send { dst := q.src, kind := 0x13, h := q.h, tag := q.tag, path := q.back.map pathBack
         body := pad8 (leBytes 2 status.toNat) } s

def sendMemResp (q : MemReq) (status : W16) (data : List Byte) (s : State) : State :=
  send { dst := q.src, kind := 0x12, h := q.h, tag := q.tag, path := q.back.map pathBack
         body := pad8 (leBytes 2 status.toNat) ++ data } s

/-- The domain whose open frame a request belongs to, if it is open here. -/
def reqDom (q : MemReq) (s : State) : Option Nat :=
  if !q.frame.noFrame && tagLive q.frame s then some q.frame.dom.toNat else none

/-- The client that a request is served for: that of its frame's domain, else the owner of the object accessed, else the
house (R271, R284; log 23). -/
def reqClient (q : MemReq) (s : State) : BitVec 8 :=
  match reqDom q s with
  | some d => (serveOf d s).client
  | none =>
    let e := ext (extOf q.addr.toNat).1 s
    if e.kind = .object then (obj e.obj.toNat s).owner else house

/-- Charges `n` bytes of memory that a request reads or writes, and the payload it sends or brings (R284 to R286). -/
def chargeReq (q : MemReq) (n tx rx : Nat) (s : State) : State :=
  charge (reqDom q s) (reqClient q s) 0 (if 65536 ≤ (extOf q.addr.toNat).1 then n else 0) tx rx s

/-- Answers a read with the bytes of its range. -/
def answerGet (q : MemReq) (n : Nat) (s : State) : State :=
  sendMemResp q 0 (readPieces (reqDom q s) (piecesOf q.addr.toNat n) s) (chargeReq q n n 0 s)

/-- Writes whose version-on-write copies have all completed are acknowledged (R70, R193). -/
def ackPuts (s : State) : State :=
  let fin (w : PutWait) : Bool := !w.exts.any (fun x => cowOn x s)
  foldS (s.mem.putWaits.filter fin) (fun w s => sendPutAck w.q 0 s)
    (setMem { s.mem with putWaits := s.mem.putWaits.filter (fun w => !fin w) } s)

/-- A write of a frame of another device waits for its copies before it is acknowledged. -/
def waitPut (q : MemReq) (ps : List (Nat × Nat × Nat)) (s : State) : State :=
  setMem { s.mem with putWaits := s.mem.putWaits ++ [⟨q, ps.map (·.1)⟩] } s

/-- A write by a frame of another device: the rules of a frame write hold (R41, R69, R192, R260, R279). A refused write has
brought its payload, and writes nothing (R284). -/
def framePut (q : MemReq) (data : List Byte) (s : State) : State :=
  let n := data.length
  let ps := piecesOf q.addr.toNat n
  if !tagLive q.frame s then s
  else if peerLast q.addr.toNat n then sendPutAck q Code.ltRange (chargeReq q 0 0 n s)
  else if ps.any (fun p => (ext p.1 s).kind == .scratch) then sendPutAck q Code.ltScratchForeign (chargeReq q 0 0 n s)
  else
    match prepWrites q.frame.dom.toNat ps (chargeReq q 0 0 n s) with
    | (.ok, s) => sendPutAck q 0 (landBytes ps data (chargeReq q n 0 0 s))
    | (.wait, s) => checkDone q.frame.dom.toNat (waitPut q ps (delayWrites ps data (chargeReq q n 0 0 s)))
    | (.refused c, s) => sendPutAck q c s
    | (.recalled, s) => sendPutAck q Code.recalled s

/-- MEM_PUT (R500). A write that belongs to no frame writes the committed version (R220, R274, R326). -/
def takeMemPut (q : MemReq) (data : List Byte) (s : State) : State :=
  match requestCode q.addr.toNat data.length s with
  | some c => sendPutAck q c (chargeReq q 0 0 data.length s)
  | none =>
    if data = [] then s
    else if !q.frame.noFrame then framePut q data s
    else
      let ps := piecesOf q.addr.toNat data.length
      let s := foldS (ps.map (·.1)) markStale (putCommitted ps data (chargeReq q data.length 0 data.length s))
      sendPutAck q 0 s

/-- The code that a frame's read is refused with: a lost position reads as a REBUILDING extent (R364), and a frame that opened
after the switch tick of a move may not read its source (R202). A request outside any frame is served from the source: the
spec is silent (DESIGN CHOICE, log 42). -/
def frameReadCode (q : MemReq) (a n : Nat) (s : State) : Option W16 :=
  match reqDom q s with
  | some d =>
    if (lostPosAt d (ownDev s) ((piecesOf a n).map (·.1)) s).isSome then some Code.extentPoisoned
    else if (piecesOf a n).any (fun p => (ext p.1 s).st == .moved && !movedReader d p.1 s) then some Code.extentMoved
    else none
  | none => none

/-- MEM_GET (R500). -/
def takeMemGet (q : MemReq) (n : Nat) (x : ReadEvent) (s : State) : State :=
  let a := q.addr.toNat
  if !tagLive q.frame s || n == 0 then s
  else
    match (requestCode a n s).orElse (fun _ => frameReadCode q a n s) with
    | some c => sendMemResp q c [] s
    | none =>
      let d := reqDom q s
      if 65536 ≤ (extOf a).1 then
        match lpxEvent d a x s with
        | (true, s) => answerGet q n s
        | (false, s) => sendMemResp q Code.memUncorrectable [] s
      else
        let b := BitVec.ofNat 8 (a / 0x10000000)
        match sliceEvent b ⟨Pg.lighter b, 0⟩ a x s with
        | (true, s) => answerGet q n s
        | (false, s) =>
          (match s.health.sramRetry.getLast? with
          | some (b, off) => setMem { s.mem with waitGets := s.mem.waitGets ++ [⟨b, off, q, n⟩] } s
          | none => s)

/-- The second read of a slice word (R337); requests that waited for it are answered (R500). -/
def secondRead (b : BerthIdx) (off : BitVec 28) (ok : Bool) (s : State) : State :=
  if !s.health.sramRetry.contains (b, off) then s
  else
    let s := setHealth { s.health with sramRetry := s.health.sramRetry.erase (b, off) } s
    let a := sliceBase b + off.toNat
    let at_ : FaultAt := { page := Pg.berth b, src := ownDev s, addr := a, dom := frameDom b s }
    let x := a / extBytes
    let wait := s.mem.waitGets.filter (fun w => w.b == b && w.off == off)
    let s := setMem { s.mem with waitGets := s.mem.waitGets.filter (fun w => !(w.b == b && w.off == off)) } s
    if ok then
      foldS wait (fun w s => answerGet w.q w.n s)
        (transientFault Code.sramRetryOk at_ s)
    else
      let s := lastingFault Code.sramUncorrectable 4 at_ s
      let s := if (ext x s).kind = .object then poisonExt x s else s
      foldS wait (fun w s => sendMemResp w.q Code.sramUncorrectable [] s) s

/-- SLICE_READ_RETRY, with its errors as one cycle (R337, R410). -/
def sliceRetry (b : BerthIdx) (off : BitVec 28) (ok : Bool) (s : State) : State := firstOfCycle s (secondRead b off ok s)

/-! ### Responses (R325, R326, R500) -/

def findReq (tag : BitVec 14) (src : W16) (s : State) : Option OutReq :=
  s.reqs.find? (fun r => r.tag == tag && r.dev == src)

def dropReq (r : OutReq) (s : State) : State := { s with reqs := s.reqs.erase r }

/-- A lighter's request has failed: a status of R500 recalls the frame, any other stops the lighter. -/
def ltFailed (src : W16) (b : BerthIdx) (n : BitVec 2) (c : W16) (s : State) : State :=
  if c = Code.extentPoisoned ∨ c = Code.memUncorrectable ∨ c = Code.sramUncorrectable then
    match frameDom b s with
    | some d => faultRecall d Code.extentPoisoned src s
    | none => stopLt b n c s
  else stopLt b n c s

/-- A response to a lighter: one fewer is outstanding. -/
def ltGot (b : BerthIdx) (n : BitVec 2) (got : List (Nat × List Byte)) (s : State) : State :=
  match (lighter b n s).run with
  | some r => setRun b n { r with wait := r.wait - 1, got := r.got ++ got } s
  | none => s

/-- A weight extent stays POISONED: step 5 of R240 applies at the next base tick. -/
def leavePoisoned (x : Nat) (s : State) : State :=
  let s := if (ext x s).st = .rebuilding then setExt x { ext x s with st := .poisoned } s else s
  setWeights { s.weights with noSource := s.weights.noSource ++ [x] } s

/-- A weight extent has no rebuild source, or has lost it (R240 step 3). -/
def loseSource (x : Nat) (s : State) : State := leavePoisoned x (report ⟨Pg.caravan, 0⟩ Code.cvNoSource s)

/-- Asks device `dev` for the extent at `addr` of another quay's copy, which rebuilds extent `x` here, with 16 requests (R240
step 3). -/
def askAlt (x : Nat) (dev : W16) (addr : Nat) (s : State) : State :=
  foldS (List.range 16) (fun i s =>
    let tag := newTag s
    let at_ := addr + 65536 * i
    send { dst := dev, kind := 0x11, tag := tag
           body := tagBytes ⟨0, 0, true, 0⟩ ++ List.replicate 6 0 ++ leBytes 8 at_ ++ leBytes 4 65536 ++ [0, 0, 0, 0] }
      { s with reqs := s.reqs ++ [⟨tag, dev, .altRead x (65536 * i)⟩] }) s

/-- The requests of extent `x` that wait for another quay's copy. -/
def altWaits (x : Nat) (s : State) : Bool :=
  s.reqs.any (fun r => match r.what with
    | .altRead y _ => y == x
    | _ => false)

/-- The read of another quay's copy of extent `x` has ended: its bytes wait for the base tick (R285). -/
def dropAlt (x : Nat) (s : State) : State :=
  let s := foldS (s.weights.alts.filter (fun a => a.ext == x))
    (fun a s => accrueLate house.toNat (·.bytes a.owed.lt a.owed.lpx a.owed.tx a.owed.rx) s) s
  { s with
    reqs := s.reqs.filter (fun r => match r.what with
      | .altRead y _ => y != x
      | _ => true)
    weights := { s.weights with alts := s.weights.alts.filter (fun a => a.ext != x) } }

/-- The checked read of another quay's copy is complete: on a digest mismatch it is asked for once more, and a second one
leaves the extent without a source (R240, R337). The spec gives the device no digest to compare with, so the outcome of the
comparison is an operand (log 18). -/
def altJudge (x : Nat) (src : W16) (bad : Bool) (s : State) : State :=
  match s.weights.alts.find? (fun a => a.ext == x) with
  | none => s
  | some a =>
    let f : FaultAt := { page := Pg.caravan, src := src, addr := extAddr x, port := lastPort src s }
    if !bad && !a.bad then
      dropAlt x (if a.again then transientFault Code.digestMismatch f s else s)
    else if a.again then
      loseSource x (dropAlt x (lastingFault Code.digestMismatch 0 f (report ⟨Pg.caravan, 0⟩ Code.digestMismatch s)))
    else
      askAlt x a.dev a.addr (setWeights { s.weights with
        alts := s.weights.alts.map (fun y => if y.ext = x then { a with again := true, bad := false } else y) } s)

/-- Bytes of the read of another quay's copy: the house is charged once it ends, the activity counts at once (R285). -/
def chargeAlt (x lpx rx : Nat) (s : State) : State :=
  addByteAct house.toNat 0 lpx 0 (setWeights { s.weights with
    alts := s.weights.alts.map (fun a => if a.ext = x then { a with owed := a.owed.bytes 0 lpx 0 rx } else a) } s)

/-- Part of a rebuild read from another quay's copy, the house's work (R240 step 3, R271). -/
def altGot (x off : Nat) (src status : W16) (data : List Byte) (bad : Bool) (s : State) : State :=
  if status ≠ 0 then loseSource x (dropAlt x s)
  else if (ext x s).st = .rebuilding then
    let s := chargeAlt x (if 65536 ≤ x then data.length else 0) data.length s
    let s := setMem (s.mem.setBytes ((ext x s).phys.toNat * extBytes + off) data) s
    if altWaits x s then
      setWeights { s.weights with
        alts := s.weights.alts.map (fun y => if y.ext = x then { y with bad := y.bad || bad } else y) } s
    else altJudge x src bad s
  else dropAlt x s

/-- MEM_RESP (R326); `bad` says that the digest of a checked read does not match. -/
def takeMemResp (tag : BitVec 14) (src : W16) (status : W16) (data : List Byte) (bad : Bool) (s : State) : State :=
  match findReq tag src s with
  | none => hostReply tag (rawResp src 0x12 tag (pad8 (leBytes 2 status.toNat) ++ data) s) s
  | some r =>
    match r.what with
    | .ltGet b n off =>
      let s := dropReq r s
      if status = 0 then ltGot b n [(off, data)] s else ltFailed src b n status s
    | .altRead x off => firstOfCycle s (altGot x off src status data bad (dropReq r s))
    | _ => s

/-- PUT_ACK (R326). -/
def takePutAck (tag : BitVec 14) (src : W16) (status : W16) (s : State) : State :=
  match findReq tag src s with
  | none => hostReply tag (rawResp src 0x13 tag (pad8 (leBytes 2 status.toNat)) s) s
  | some r =>
    match r.what with
    | .ltPut b n =>
      let s := dropReq r s
      if status = 0 then ltGot b n [] s else ltFailed src b n status s
    | _ => s

/-- MEM_PUT (R500). -/
def execMemPut (q : MemReq) (data : List Byte) (s : State) : Outcome := awake s (.next (takeMemPut q data s))

/-- MEM_GET (R500). -/
def execMemGet (q : MemReq) (n : Nat) (x : ReadEvent) (s : State) : Outcome := awake s (.next (takeMemGet q n x s))

/-- MEM_RESP (R326), which arrives on a port. -/
def execMemResp (tag : BitVec 14) (src status : W16) (data : List Byte) (s : State) (port : PortIdx := 0) (bad : Bool := false) :
    Outcome :=
  awake s (.next (takeMemResp tag src status data bad (noteArrival src port.val s)))

/-- PUT_ACK (R326). -/
def execPutAck (tag : BitVec 14) (src status : W16) (s : State) : Outcome := awake s (.next (takePutAck tag src status s))

/-- SLICE_READ_RETRY (R337). -/
def execSliceReadRetry (b : BerthIdx) (off : BitVec 28) (ok : Bool) (s : State) : Outcome :=
  awake s (.next (sliceRetry b off ok s))

/-! ### The OBJECT page -/

/-- OBJ_WIN_READ (R205). -/
def execObjWinRead (r : Req) (s : State) : Outcome := awake s (.next (regWrite r objBlk false (putWinCmd 1 s) s))

/-- OBJ_WIN_WRITE (R205). -/
def execObjWinWrite (r : Req) (s : State) : Outcome := awake s (.next (regWrite r objBlk false (putWinCmd 2 s) s))

/-- A copy for version-on-write ends: the writes that waited for it are acknowledged, and its frame may be finished (R37,
R193). -/
def cowEnds (x : Nat) (e : ReadEvent) (s : State) : State :=
  if cowOn x s then checkDone (ext x s).freshFd.toNat (ackPuts (cowCopied x e s)) else s

/-- COW_COPY_COMPLETE (R193). -/
def execCowCopyComplete (x : BitVec 21) (e : ReadEvent) (s : State) : Outcome := awake s (.next (cowEnds x.toNat e s))

/-- A write of MOVE_GO with an operation and a tag. -/
def moveGo (r : Req) (op : Nat) (tag : W16) (s : State) : State :=
  regWrite r objBlk false (putMoveGo (w32 (tag.toNat * 65536 + op)) s) s

/-- PROMOTE (R199). -/
def execPromote (r : Req) (tag : W16) (s : State) : Outcome := awake s (.next (moveGo r 1 tag s))

/-- EVICT (R199). -/
def execEvict (r : Req) (tag : W16) (s : State) : Outcome := awake s (.next (moveGo r 2 tag s))

/-- PIN (R203). -/
def execPin (r : Req) (tag : W16) (s : State) : Outcome := awake s (.next (moveGo r 3 tag s))

/-- UNPIN (R203). -/
def execUnpin (r : Req) (tag : W16) (s : State) : Outcome := awake s (.next (moveGo r 4 tag s))

/-- REMAP (R215). -/
def execRemap (r : Req) (tag : W16) (s : State) : Outcome := awake s (.next (moveGo r 5 tag s))

/-- MOVE_COPY_COMPLETE (R201). -/
def execMoveCopyComplete (x : BitVec 21) (e : ReadEvent) (s : State) : Outcome := awake s (.next (moveCopied x.toNat e s))

/-- MOVE_RES_READ (R205). -/
def execMoveResRead (r : Req) (s : State) : Outcome := awake s (.next (regRead r readMoveRes s))

/-! ### The LPDDR5X controllers -/

/-- A write of LPX_CFG of LPX[0]: every channel is retrained (R207, R211). -/
def putLpxRate (v : W32) (s : State) : WRes :=
  if (List.range 16).any (fun d => (dom d s).en) ∨ 8 ≤ fld v 0 4 then .error Code.configRefused
  else
    let s := foldS (List.range 24) (fun m s => setLpx m { lpxDev m s with trained := false } s) s
    let s := { s with startUp := { s.startUp with lpxEnded := [] } }
    .ok (setMem { s.mem with rate := v.extractLsb' 0 4, training := true } s)

def rwlLpxRate (v : W32) (s : State) : Bool := v.extractLsb' 0 4 != s.mem.rate

/-- The physical bytes of SRAM come first, one extent after another. -/
def sramBytes : Nat := 0x1000000000

/-- Every raw sector is zero (R211). -/
def zeroFill (s : State) : State :=
  setMem { s.mem with
    bytes := s.mem.bytes.filter (fun e => e.1 < sramBytes), unk := cutRange s.mem.unk sramBytes (2 ^ 48) } s

/-- Every channel that failed training is reported (R211). -/
def reportChannels (m : Nat) (chFail : BitVec 8) (s : State) : State :=
  foldS ((List.range 8).filter (fun c => chFail.getLsbD c)) (fun _ => report ⟨Pg.lpx m, 0⟩ Code.lpxTrainFail) s

/-- A controller has ended its training; once all have, the zero fill is complete and training is over (R211). -/
def endTraining (m : Nat) (s : State) : State :=
  let l := insNat s.startUp.lpxEnded m
  let s := { s with startUp := { s.startUp with lpxEnded := l } }
  if l.length = 24 then zeroFill (setMem { s.mem with training := false } s) else s

/-- The data bytes of one memory device (R210). -/
def lpxDevBytes : Nat := 75 * 2 ^ 30

/-- LPX_TRAINING_COMPLETE: one controller ends its training and its zero fill, which is the house's work (R211, R271). -/
def trainingDone (m : Nat) (chFail : BitVec 8) (s : State) : State :=
  let s := if chFail = 0 then charge none house 0 lpxDevBytes 0 0 s else s
  suNote (endTraining m (reportChannels m chFail (setLpx m { lpxDev m s with chFail := chFail, trained := chFail == 0 } s)))

/-- LPX_MR4_READ (R212, R480). -/
def mr4Read (m : Nat) (rate : BitVec 3) (hot : Bool) (s : State) : State :=
  let was := (lpxDev m s).hot
  let s := setLpx m { lpxDev m s with mr4Rate := rate, hot := hot } s
  if !hot then s
  else
    let s := report ⟨Pg.lpx m, 0⟩ Code.lpxHot s
    if was then s else raise Pg.power 3 (report ⟨Pg.power, 0⟩ Code.lpxHotLimit s)

/-- The window block that a data sector of a channel holds, and the physical extent it lies in (R209). -/
def scrubPhys (m c s : Nat) : Nat × Nat :=
  let a := (24 * s + m) * 4096 + c * 512
  (65536 + a / extBytes, a % extBytes)

/-- The reads that an event takes: one, or two where it was repeated (R213). -/
def eventReads (x : ReadEvent) : Nat :=
  match x with
  | .lpxRetryOk _ _ => 2
  | .lpxRetryFail _ _ => 2
  | .linkRepeated _ => 2
  | _ => 1

/-- PATROL_SCRUB_READ: patrol scrub reads a sector (R213). A check sector serves the data sector whose check bytes the
error lies in (R210). -/
def scrubRead (m : Nat) (c : Nat) (raw : Nat) (x : ReadEvent) (s : State) : State :=
  let k : Blk := ⟨Pg.lpx m, 0⟩
  let s := charge none house 0 (512 * eventReads x) 0 0 s
  let data (o : Nat) : Nat := raw / 16 * 15 + (if raw % 16 = 15 then min 14 (o / 32) else raw % 16)
  match x with
  | .linkRepeated _ => report k Code.lpxLinkEcc s
  | .linkCorrected _ => setLpx m { lpxDev m s with link := satInc (lpxDev m s).link } s
  | .lpxCorrected _ => setLpx m { lpxDev m s with ce := satInc (lpxDev m s).ce } s
  | .lpxRetryOk o link =>
    let s := if link then report k Code.lpxLinkEcc s else s
    let s := report k Code.memUncorrectable s
    let s := setLpx m { lpxDev m s with transient := satInc (lpxDev m s).transient } s
    let s := report k Code.memRetryOk s
    transientFault Code.memUncorrectable
      { page := Pg.lpx m, src := ownDev s, addr := extAddr (scrubPhys m c (data o)).1 + (scrubPhys m c (data o)).2 } s
  | .lpxRetryFail o link =>
    let s := if link then report k Code.lpxLinkEcc s else s
    let s := report k Code.memUncorrectable s
    let s := setLpx m { lpxDev m s with
      lasting := satInc (lpxDev m s).lasting, ueValid := true
      ueChan := BitVec.ofNat 3 c, ueSector := BitVec.ofNat 25 raw } s
    lpxLasting m (scrubPhys m c (data o)).1 none s
  | _ => s

/-- A write of a register of an LPX page (R216). A write of 0 clears every counter, whatever its access code (R498). -/
def putLpx (m off : Nat) (v : W32) (s : State) : WRes :=
  let x := lpxDev m s
  match off with
  | 0x040 => if m = 0 then putLpxRate v s else .ok s
  | 0x048 => .ok (setLpx m { x with ce := clearBy x.ce v } s)
  | 0x04C => .ok (setLpx m { x with
      lasting := if fld v 16 16 = 0 then 0 else x.lasting, transient := if fld v 0 16 = 0 then 0 else x.transient } s)
  | 0x050 => .ok (setLpx m { x with link := clearBy x.link v } s)
  | 0x054 => .ok (setLpx m { x with ueValid := x.ueValid && !v.getLsbD 31 } s)
  | 0x058 => .ok (setLpx m { x with scrub := clearBy x.scrub v } s)
  | _ => .ok s

def getLpx (m off : Nat) (s : State) : W32 :=
  let x := lpxDev m s
  match off with
  | 0x040 => s.mem.rate.setWidth 32
  | 0x044 => lastErr ⟨Pg.lpx m, 0⟩ s ++
      (x.chFail ++ BitVec.ofNat 8 (x.mr4Rate.toNat * 4 + b2n x.hot * 2 + b2n x.trained) : BitVec 16)
  | 0x048 => x.ce
  | 0x04C => x.lasting ++ x.transient
  | 0x050 => x.link
  | 0x054 => w32 (b2n x.ueValid * 2 ^ 31 + x.ueChan.toNat * 2 ^ 25 + x.ueSector.toNat)
  | 0x058 => x.scrub
  | _ => 0

/-- LPX_RATE_WRITE (R207). -/
def execLpxRateWrite (r : Req) (v : W32) (s : State) : Outcome :=
  awake s (.next (regWrite r ⟨Pg.lpx 0, 0⟩ (rwlLpxRate v s) (putLpxRate v s) s))

/-- LPX_TRAINING_COMPLETE (R211). -/
def execLpxTrainingComplete (m : MemIdx) (chFail : BitVec 8) (s : State) : Outcome := awake s (.next (trainingDone m chFail s))

/-- LPX_REFRESH (R212): a refresh only delays accesses. -/
def execLpxRefresh (m : MemIdx) (chan : BitVec 3) (bank : BitVec 4) (s : State) : Outcome :=
  let _ := (m, chan, bank)
  awake s (.next s)

/-- LPX_MR4_READ (R212). -/
def execLpxMr4Read (m : MemIdx) (rate : BitVec 3) (hot : Bool) (s : State) : Outcome := awake s (.next (mr4Read m rate hot s))

/-- LPX_WCK_OSC_READ (R212): the adjustment only delays accesses. -/
def execLpxWckOscRead (m : MemIdx) (s : State) : Outcome :=
  let _ := m
  awake s (.next s)

/-- PATROL_SCRUB_PASS (R213). -/
def execPatrolScrubPass (m : MemIdx) (s : State) : Outcome :=
  awake s (.next (setLpx m { lpxDev m s with scrub := satInc (lpxDev m s).scrub } s))

/-- PATROL_SCRUB_READ (R213). -/
def execPatrolScrubRead (m : MemIdx) (chan : BitVec 3) (sector : BitVec 25) (x : ReadEvent) (s : State) : Outcome :=
  awake s (.next (scrubRead m chan.toNat sector.toNat x s))

end Sys2Proof.Machine
end

