-- ==== Sys2Proof/Machine/Sha.lean ====
section
/-! DEFINITION. SHA-256, which boot, attestation and passwords use (R425 to R437): the function of FIPS 180-4 that the spec
names, its constants computed from the primes they stand for. -/

namespace Sys2Proof.Machine
open Sys2Proof

/-! ### Constants -/

/-- The primes below 312, which are the first 64. -/
def shaPrimes : List Nat :=
  (List.range 312).filter (fun n => 2 ≤ n && (List.range 18).all (fun d => d < 2 || n ≤ d || n % d != 0))

/-- The largest number of `bits` bits whose `k`-th power is at most `n`. -/
def rootBits (k n bits : Nat) : Nat :=
  match bits with
  | 0 => 0
  | i + 1 => upper (2 ^ i) i
where
  /-- The root from bit `i` down, with the bits above it in `r` decided but for bit `i` itself, which is set. -/
  upper (r i : Nat) : Nat :=
    let keep := if r ^ k ≤ n then r else r - 2 ^ i
    match i with
    | 0 => keep
    | j + 1 => upper (keep + 2 ^ j) j

/-- The first 32 bits of the fraction of the `k`-th root of `p`. -/
def rootFraction (k p : Nat) : W32 := w32 (rootBits k (p * 2 ^ (32 * k)) 37 % 2 ^ 32)

/-- A constant for each of the 64 rounds, from the cube roots. -/
def shaRoundKeys : List W32 := shaPrimes.map (rootFraction 3)

/-- The hash value before the first block, from the square roots of the first eight primes. -/
def shaStart : List W32 := (shaPrimes.take 8).map (rootFraction 2)

/-! ### A block -/

/-- Three rotations of a word, combined. -/
def turns (x : W32) (i j k : Nat) : W32 := x.rotateRight i ^^^ x.rotateRight j ^^^ x.rotateRight k

/-- Two rotations and a shift of a word, combined. -/
def blend (x : W32) (i j k : Nat) : W32 := x.rotateRight i ^^^ x.rotateRight j ^^^ x >>> k

/-- Bit by bit `y` where `x` is 1, `z` where it is 0. -/
def choose3 (x y z : W32) : W32 := z ^^^ (x &&& (y ^^^ z))

/-- Bit by bit what at least two of three words hold. -/
def most3 (x y z : W32) : W32 := (x &&& y) ||| (z &&& (x ||| y))

/-- Extends the words of a block by `n`; the newest stands first, so the word 16 places back is element 15. -/
def extendWords (n : Nat) (ws : List W32) : List W32 :=
  match n with
  | 0 => ws
  | n + 1 =>
    let back (i : Nat) : W32 := ws.getD (i - 1) 0
    extendWords n ((back 16 + blend (back 15) 7 18 3 + back 7 + blend (back 2) 17 19 10) :: ws)

/-- One round on the eight working words: each half moves down a place, and each takes a new first word. -/
def shaRound (v : List W32) (key : W32) : List W32 :=
  let at_ (i : Nat) : W32 := v.getD i 0
  let low := at_ 7 + key + choose3 (at_ 4) (at_ 5) (at_ 6) + turns (at_ 4) 6 11 25
  let high := low + most3 (at_ 0) (at_ 1) (at_ 2) + turns (at_ 0) 2 13 22
  [high] ++ v.take 3 ++ [low + at_ 3] ++ (v.drop 4).take 3

def beWord (bs : List Byte) : W32 := w32 (bs.foldl (fun n b => n * 256 + b.toNat) 0)
def beBytes (n v : Nat) : List Byte := (leBytes n v).reverse

/-- The hash value after one block of 64 bytes. -/
def shaBlock (v : List W32) (bs : List Byte) : List W32 :=
  let words := (List.range 16).map (fun i => beWord ((bs.drop (4 * i)).take 4))
  let keys := List.zipWith (· + ·) shaRoundKeys (extendWords 48 words.reverse).reverse
  List.zipWith (· + ·) v (keys.foldl shaRound v)

/-! ### The digest -/

/-- A message with its padding: a 1 bit, zeros, and the message's length in bits as the last 8 bytes of a block. -/
def shaPadded (bs : List Byte) : List Byte :=
  let fill := (64 - (bs.length + 9) % 64) % 64
  bs ++ 0x80 :: List.replicate fill 0 ++ beBytes 8 (8 * bs.length)

def sha256 (bs : List Byte) : List Byte :=
  let m := shaPadded bs
  let v := (List.range (m.length / 64)).foldl (fun v i => shaBlock v ((m.drop (64 * i)).take 64)) shaStart
  v.flatMap (fun w => beBytes 4 w.toNat)

/-- The bytes of a text in ASCII. -/
def ascii (t : String) : List Byte := t.toList.map (fun c => BitVec.ofNat 8 c.toNat)

end Sys2Proof.Machine
end

