-- ==== Sys2Proof/Machine/Boot.lean ====
section
/-! DEFINITION. The harbourmaster: the boot flash, the boot chain, identity, commands, debug scopes and the TAP (R424 to
R442), and start-up (R488 to R493). -/

namespace Sys2Proof.Machine
open Sys2Proof

def setHm (h : Hm) (s : State) : State := { s with hm := h }
def hmBlk : Blk := ⟨Pg.hmaster, 0⟩

/-! ### The boot flash (R424 to R427) -/

/-- `n` bytes of the flash from address `a`; a byte that nothing has programmed reads 0xFF (log 9). -/
def flashAt (h : Hm) (a n : Nat) : List Byte := (List.range n).map (fun i => tget h.flash 0xFF (a + i))

/-- Programs a range of the flash: it is erased, then the bytes are written from its start (R433). -/
def programFlash (h : Hm) (a n : Nat) (bs : List Byte) : Hm :=
  let es := ((List.range n).zip bs).map (fun e => (a + e.1, e.2))
  { h with flash := tsplice h.flash a n (es.filter (fun e => e.2 != 0xFF)) }

def slotAddr (k : Nat) : Nat := 0x01000000 * k
def cfgAddr (k : Nat) : Nat := 0x02000000 + 0x10000 * k
def ownAddr (k : Nat) : Nat := 0x02020000 + 0x10000 * k

def cfgSize : Nat := 24416
def ownSize : Nat := 16352
def hdrSize : Nat := 16280
def maxCode : Nat := 16744448

/-- An image header and its code pass the checks of R425 and R428 step 5, the SVN apart. -/
def imageOk (hd code : List Byte) : Bool :=
  leAt hd 0 4 == 0x314B564F && leAt hd 4 4 == 1 && decide (1 ≤ leAt hd 16 4) && decide (leAt hd 16 4 ≤ maxCode) &&
    sha256 code == bytesAt hd 24 32 && Config.vendorVerify (bytesAt hd 0 56) (bytesAt hd 56 16224)

def slotHdr (h : Hm) (k : Nat) : List Byte := flashAt h (slotAddr k) hdrSize

/-- The code of a slot; a LENGTH out of range is refused on its own. -/
def slotCode (h : Hm) (k : Nat) : List Byte :=
  let n := leAt (slotHdr h k) 16 4
  flashAt h (slotAddr k + 0x8000) (if n ≤ maxCode then n else 0)

def slotOk (h : Hm) (k : Nat) (minSvn : Nat) : Bool :=
  imageOk (slotHdr h k) (slotCode h k) && decide (minSvn ≤ leAt (slotHdr h k) 8 4)

/-- A configuration record is valid, ID_PK apart (R426). -/
def cfgOk (r : List Byte) : Bool :=
  leAt r 0 4 == 0x434B564F && leAt r 16 1 == 3 && leAt r 17 1 == 0 &&
    Config.vendorVerify (bytesAt r 0 8192) (bytesAt r 8192 16224)

def cfgRec (h : Hm) (k : Nat) : List Byte := flashAt h (cfgAddr k) cfgSize
def ownBlock (h : Hm) (k : Nat) : List Byte := flashAt h (ownAddr k) ownSize

/-- The record in use. -/
def cfgUsed (h : Hm) : List Byte := cfgRec h h.cfgCopy
def ownUsed (h : Hm) : List Byte := ownBlock h h.ownCopy

/-- The configuration record names an owner. -/
def namesOwner (r : List Byte) : Bool := bytesAt r 36 32 != List.replicate 32 0

/-- An owner block is valid for a record (R427). -/
def ownerOk (r o : List Byte) : Bool :=
  leAt o 0 4 == 0x4F4B564F && namesOwner r && sha256 (bytesAt o 16 48) == bytesAt r 36 32 &&
    leAt o 8 8 == leAt r 8 8 && Config.slhVerify (bytesAt o 16 48) (bytesAt o 0 128) (bytesAt o 128 16224)

/-- Of two copies the valid one with the higher SEQ, copy 0 when they are equal (R426, R427). -/
def pickCopy (ok0 ok1 : Bool) (seq0 seq1 : Nat) : Option Nat :=
  if ok0 && ok1 then some (if seq0 < seq1 then 1 else 0)
  else if ok0 then some 0
  else if ok1 then some 1
  else none

/-! ### The boot chain (R428 to R430) -/

/-- The ROM stops with a code (R428, R492). -/
def bootStop (c : W16) (s : State) : State :=
  enterFailed c (report hmBlk c (setHm { s.hm with stage := 0xF } s))

/-- Of two valid slots the higher SVN, then the higher VERSION, then slot 0 (R428 step 5). -/
def pickSlot (h : Hm) : Option Nat :=
  let m := h.minSvn.toNat
  let key (k : Nat) : Nat := leAt (slotHdr h k) 8 4 * 2 ^ 32 + leAt (slotHdr h k) 12 4
  pickCopy (slotOk h 0 m) (slotOk h 1 m) (key 0) (key 1)

/-- Steps 5 and 6 of the boot step table: an image is chosen and started. -/
def bootImage (s : State) : State :=
  let bad := [0, 1].filter (fun k => !slotOk s.hm k s.hm.minSvn.toNat)
  let s := foldS bad (fun _ => report hmBlk Code.hmImageBad) s
  match pickSlot s.hm with
  | none => bootStop Code.hmNoImage s
  | some k =>
    let hd := slotHdr s.hm k
    let s := setHm { s.hm with
      slot := k == 1, svn := w32 (leAt hd 8 4), version := w32 (leAt hd 12 4)
      codeHash := bytesAt hd 24 32, stage := 4 } s
    suNote (setStartUp { s.startUp with phase := .firmware } s)

/-- Step 4: the owner block. -/
def bootOwner (s : State) : State :=
  let h := s.hm
  let r := cfgUsed h
  if !namesOwner r then bootImage s
  else
    match pickCopy (ownerOk r (ownBlock h 0)) (ownerOk r (ownBlock h 1)) (leAt (ownBlock h 0) 4 4)
        (leAt (ownBlock h 1) 4 4) with
    | none => bootImage (report hmBlk Code.hmOwnerBad s)
    | some k => bootImage (setHm { h with owner := true, ownCopy := k } s)

/-- The public key that a seed gives (R430). -/
def derivePk (seed : List Byte) : List Byte :=
  let a := sha256 (ascii "OVK-ID-1" ++ seed)
  let b := sha256 (ascii "OVK-ID-2" ++ seed)
  Config.slhKeygen (bytesAt a 0 16) (bytesAt a 16 16) (bytesAt b 0 16)

/-- Step 3: the identity. -/
def bootIdentity (seed : Option (List Byte)) (s : State) : State :=
  let r := cfgUsed s.hm
  match seed with
  | none => bootStop Code.hmPufFail s
  | some x =>
    let pk := derivePk x
    if sha256 x ≠ bytesAt r 4196 32 ∨ pk ≠ bytesAt r 68 32 then bootStop Code.hmPufFail s
    else setHm { s.hm with seed := some x, idPk := pk, idTag := w64 (leAt (sha256 pk) 0 8), stage := 3 } s

/-- Step 2: the configuration record. -/
def bootConfig (s : State) : State :=
  let h := s.hm
  match pickCopy (cfgOk (cfgRec h 0)) (cfgOk (cfgRec h 1)) (leAt (cfgRec h 0) 4 4) (leAt (cfgRec h 1) 4 4) with
  | none => bootStop Code.hmCfgBad s
  | some k =>
    let r := cfgRec h k
    setHm { h with cfgCopy := k, serial := w64 (leAt r 8 8), minSvn := w32 (leAt r 20 4), stage := 2 } s

/-- The boot ROM runs the step that STAGE shows (R428); STAGE 0x3 is steps 4 to 6. -/
def romStep (s : State) : State :=
  if s.startUp.phase ≠ .boot then s
  else
    match s.hm.stage.toNat with
    | 0 => if s.hm.rom.flashOk then setHm { s.hm with stage := 1 } s else bootStop Code.hmFlashFail s
    | 1 => bootConfig s
    | 2 => bootIdentity s.hm.rom.seed s
    | 3 => bootOwner s
    | _ => s

/-- `n` steps of the boot ROM, at most up to STAGE 0x3. -/
def romSteps (n : Nat) (s : State) : State :=
  match n with
  | 0 => s
  | n + 1 => romSteps n (if s.hm.stage.toNat < 3 then romStep s else s)

/-- The boot ROM ends: it runs its steps that are left. -/
def bootRom (s : State) : State := romStep (romSteps 3 s)

/-- How far the boot ROM has come when something looks at it while it runs is open: a free number of its steps has run by
then (R428, log 6). -/
def romSeen (s : State) : State :=
  if s.startUp.phase = .boot then
    let (k, s) := nextFree s
    romSteps (Config.freeNat k % 4) s
  else s

/-- The firmware's bring-up: LPX_RATE, ACC_W and the locks (R429, R491). -/
def firmwareUp (s : State) : State :=
  let r := cfgUsed s.hm
  let w (i : Nat) : BitVec 8 := BitVec.ofNat 8 (leAt r (24 + 4 * (i / 4) + (3 - i % 4)) 1)
  let s := setMem { s.mem with rate := BitVec.ofNat 4 (leAt r 18 1) } s
  let s := { s with acct := { s.acct with
    w := #v[w 0, w 1, w 2, w 3, w 4, w 5, w 6, w 7, w 8], wVoxle := w 9 } }
  let s := setHdr Pg.hmaster { hdr Pg.hmaster s with lock := 2 } s
  let s := setHdr Pg.power { hdr Pg.power s with lock := 2 } s
  suNote (setStartUp { s.startUp with phase := .selftest } s)

/-- TRAINING begins: every Mmm_RESET_N is released, LPDDR5X trains and every port is set to TRAIN (R211, R302, R491). -/
def startTrainPhase (s : State) : State :=
  let s := setMem { s.mem with training := true } s
  let s := setStartUp { s.startUp with phase := .training, lpxEnded := [], memRelease := true } s
  suNote (foldS (List.range 24) (fun p s =>
    match portOf p with
    | some q => startTraining q (modPort p (fun x => { x with mode := 1 }) s)
    | none => s) s)

/-- The self-test ends: a failed SRAM layer fails start-up, failed seam lanes are spared (R491, R492). -/
def selftestEnd (fails : List (BitVec 4)) (lanes : List SeamLane)
    (s : State) : State :=
  let f (k : Nat) : BitVec 4 := fails.getD k 0
  let s := { s with dies := { s.dies with bistFail := #v[f 0, f 1, f 2, f 3], bistDone := true } }
  let s := foldS lanes (fun l s =>
    if l.seam.toNat < 3 then
      laneFail l.die.toNat l.seam.toNat (seamWay l.pair.toNat l.inward) l.group.toNat l.lane.toNat s
    else s) s
  if [0, 1, 2, 3].any (fun k => f k != 0) then enterFailed 0 s else startTrainPhase s

/-! ### Memory of commands (R432) -/

/-- A range that a command may use: from a multiple of 512, within one VALID object whose WRITER is 0x10. -/
def hmRange (a n : Nat) (s : State) : Option (List (Nat × Nat × Nat)) :=
  let ps := piecesOf a n
  let o := (ext (extOf a).1 s).obj
  let good (p : Nat × Nat × Nat) : Bool := (ext p.1 s).kind == .object && (ext p.1 s).obj == o
  if a % 512 = 0 ∧ 0 < n ∧ tierOf a s ≠ .unmapped ∧ tierOf (a + n - 1) s = tierOf a s ∧ ps.all good ∧
      (obj o.toNat s).valid ∧ (obj o.toNat s).writer = 0x10 then some ps
  else none

def hmRead (a n : Nat) (s : State) : Option (List Byte) :=
  match hmRange a n s with
  | none => none
  | some ps =>
    match prepReads none ps s with
    | (.ok, _) => some (readPieces none ps s)
    | _ => none

/-! ### Attestation (R434) -/

/-- Bytes 0 to 223 of the report. -/
def reportHead (nonce : List Byte) (s : State) : List Byte :=
  let h := s.hm
  leBytes 4 0x414B564F ++ leBytes 4 1 ++ leBytes 8 h.serial.toNat ++ leBytes 8 h.idTag.toNat ++
    leBytes 2 (ownDev s).toNat ++ [3, 0] ++ leBytes 4 h.svn.toNat ++ leBytes 4 h.version.toNat ++
    [BitVec.ofNat 8 (2 * b2n h.owner + b2n h.slot), h.scopes.setWidth 8, BitVec.ofNat 8 s.health.st.code, 0] ++
    leBytes 8 (if s.tick.locked then s.tick.num.toNat else 0) ++ bytesAt nonce 0 32 ++ bytesAt h.codeHash 0 32 ++
    sha256 (cfgUsed h) ++ (if h.owner then sha256 (ownUsed h) else List.replicate 32 0) ++
    leBytes 4 s.health.score.toNat ++ List.replicate 12 0 ++ bytesAt h.idPk 0 32

def runAttest (j : HmJob) (s : State) : W16 × State :=
  if s.hm.scopes.getLsbD 3 then (Code.hmAttDebug, s)
  else
    match hmRange (fld j.arg 0 48) 17312 s with
    | none => (Code.hmBadCmd, s)
    | some ps =>
      let m := reportHead j.nonce s
      (0, putCommitted ps (m ++ bytesAt (Config.slhSign (s.hm.seed.getD []) m) 0 17088) s)

/-! ### Debug scopes (R435 to R438) -/

/-- The bytes of the seed; once DIE_SCAN has opened it is erased and what stands in its place is open. -/
def seedBytes (s : State) : List Byte × State :=
  match s.hm.seed with
  | some x => (x, s)
  | none =>
    let (k, s) := nextFree s
    ((List.range 32).map (Config.freeByte k), s)

/-- CHALLENGE (R436). -/
def runChallenge (s : State) : W16 × State :=
  let (seed, s) := seedBytes s
  let n := s.hm.chalCtr
  let v := sha256 (ascii "OVK-CH" ++ seed ++ leBytes 8 (now s) ++ Config.counterBytes n)
  (0, setHm { s.hm with chal := some v, chalCtr := n + 1 } s)

/-- A failed unlock is counted and starts a wait of 2^(n − 1) s (R438). -/
def unlockFail (s : State) : W16 × State :=
  let n := s.hm.fails.toNat + 1
  (Code.unlockRefused, setHm { s.hm with fails := BitVec.ofNat 4 n, wait := w16 (2 ^ (n - 1)) } s)

/-- Scopes open; opening DIE_SCAN erases the seed and the identity key (R435). -/
def openScopes (m : BitVec 4) (s : State) : W16 × State :=
  let h := s.hm
  (0, setHm { h with scopes := h.scopes ||| m, seed := if m.getLsbD 3 then none else h.seed } s)

/-- The outcome of a signed unlock whose challenge is live and spent. -/
def signedUnlock (j : HmJob) (chal : List Byte) (s : State) : W16 × State :=
  let m : BitVec 4 := j.arg2.extractLsb' 0 4
  match hmRead (fld j.arg 0 48) 16224 s with
  | none => (Code.hmBadCmd, s)
  | some sig =>
    let msg := chal ++ leBytes 8 s.hm.serial.toNat ++ [m.setWidth 8]
    let o := ownUsed s.hm
    let ok :=
      if j.op = .unlockVendor then Config.vendorVerify msg sig
      else s.hm.owner && (m &&& ~~~(BitVec.ofNat 4 (leAt o 64 1 % 8))) == 0 &&
        Config.slhVerify (bytesAt o 16 48) msg sig
    if ok then openScopes m s else unlockFail s

/-- UNLOCK_VENDOR and UNLOCK_OWNER (R436): the challenge is spent whatever the outcome. -/
def runSigned (j : HmJob) (s : State) : W16 × State :=
  match s.hm.chal with
  | none => (Code.hmChalStale, s)
  | some c => signedUnlock j c (setHm { s.hm with chal := none } s)

def iterate {α : Type} (n : Nat) (f : α → α) (x : α) : α :=
  match n with
  | 0 => x
  | n + 1 => iterate n f (f x)

/-- PW_HASH of a password under a salt (R437). -/
def pwHash (salt pw : List Byte) : List Byte := iterate 65535 sha256 (sha256 (salt ++ pw))

/-- UNLOCK_PASSWORD (R437). -/
def runPassword (j : HmJob) (s : State) : W16 × State :=
  let m : BitVec 4 := j.arg2.extractLsb' 0 4
  let n := fld j.arg2 16 7
  if n < 16 ∨ 64 < n then (Code.hmBadCmd, s)
  else
    match hmRead (fld j.arg 0 48) n s with
    | none => (Code.hmBadCmd, s)
    | some pw =>
      let o := ownUsed s.hm
      if s.hm.owner && (m &&& ~~~(BitVec.ofNat 4 (leAt o 65 1 % 8))) == 0 &&
          pwHash (bytesAt o 68 16) pw == bytesAt o 84 32 then openScopes m s
      else unlockFail s

/-- Every unlock during a wait, or after eight failures, ends with UNLOCK_WAIT (R438). -/
def runUnlock (j : HmJob) (s : State) : W16 × State :=
  if s.hm.wait ≠ 0 ∨ 8 ≤ s.hm.fails.toNat then (Code.unlockWait, s)
  else if j.op = .unlockPassword then runPassword j s
  else runSigned j s

/-! ### Writes of the flash (R433) -/

/-- The range and the bytes that a command writes, or the code it ends with. -/
def flashJob (j : HmJob) (s : State) : Except W16 (Nat × Nat × List Byte) :=
  let h := s.hm
  let a := fld j.arg 0 48
  match j.op with
  | .updateImage =>
    (match hmRead a hdrSize s with
    | none => .error Code.hmBadCmd
    | some hd =>
      let n := leAt hd 16 4
      if leAt hd 8 4 < h.minSvn.toNat then .error Code.hmSvnLow
      else if n = 0 ∨ maxCode < n then .error Code.hmImageBad
      else
        match hmRange a (0x8000 + n) s, hmRead (a + 0x8000) n s with
        | some _, some code =>
          if imageOk hd code then .ok (slotAddr (1 - b2n h.slot), 0x01000000,
            hd ++ List.replicate (0x8000 - hdrSize) 0xFF ++ code)
          else .error Code.hmImageBad
        | _, _ => .error Code.hmBadCmd)
  | .installCfg =>
    (match hmRead a cfgSize s with
    | none => .error Code.hmBadCmd
    | some r =>
      let m := leAt r 20 4
      if cfgOk r && bytesAt r 68 32 == h.idPk && decide (leAt (cfgUsed h) 4 4 < leAt r 4 4) &&
          leAt r 8 8 == h.serial.toNat && decide (h.minSvn.toNat ≤ m) && (slotOk h 0 m || slotOk h 1 m) then
        .ok (cfgAddr (1 - h.cfgCopy), 0x10000, r)
      else .error Code.hmCfgBad)
  | .installOwner =>
    (match hmRead a ownSize s with
    | none => .error Code.hmBadCmd
    | some o =>
      if ownerOk (cfgUsed h) o then .ok (ownAddr (if h.owner then 1 - h.ownCopy else 0), 0x10000, o)
      else .error Code.hmOwnerBad)
  | _ => .error Code.hmBadCmd

def runFlash (j : HmJob) (s : State) : W16 × State :=
  match flashJob j s with
  | .error c => (c, s)
  | .ok (a, n, bs) => (0, setHm (programFlash s.hm a n bs) s)

/-! ### Commands (R432) -/

/-- A command's outcome and the state it leaves. -/
def runHm (j : HmJob) (s : State) : W16 × State :=
  match j.op with
  | .attest => runAttest j s
  | .challenge => runChallenge s
  | .unlockVendor => runUnlock j s
  | .unlockOwner => runUnlock j s
  | .unlockPassword => runUnlock j s
  | .updateImage => runFlash j s
  | .installCfg => runFlash j s
  | .installOwner => runFlash j s

/-- The command in progress ends: HM_RESULT, BUSY and CMD_DONE; an error code is reported (log 29). -/
def endHm (s : State) : State :=
  match s.hm.busy with
  | none => s
  | some j =>
    if s.hm.stage ≠ 4 then s
    else
      let (c, s) := runHm j s
      let s := setHm { s.hm with result := c, busy := none } s
      raise Pg.hmaster 0 (if c = 0 then s else report hmBlk c s)

def hmOpOf (n : Nat) : Option HmOp :=
  match n with
  | 1 => some .attest
  | 2 => some .challenge
  | 3 => some .unlockVendor
  | 4 => some .unlockOwner
  | 5 => some .unlockPassword
  | 6 => some .updateImage
  | 7 => some .installCfg
  | 8 => some .installOwner
  | _ => none

/-- A scope mask of an unlock is refused when it is 0, when bits of the written HM_ARG2 above it are set that do not read back, or names MEM_ACCESS or DIE_SCAN while a domain is
enabled (R435). LEN belongs to UNLOCK_PASSWORD. -/
def maskBad (op : HmOp) (s : State) : Bool :=
  let a := s.hm.arg2
  let enabled := (List.range 16).any (fun d => (dom d s).en)
  let bad (rest : Nat) : Bool := fld a 0 4 == 0 || rest != 0 || (fld a 2 2 != 0 && enabled)
  match op with
  | .unlockVendor => bad (fld a 4 28)
  | .unlockOwner => bad (fld a 4 28)
  | .unlockPassword => bad (fld a 4 12 + fld a 23 9)
  | _ => false

def nonceBytes (h : Hm) : List Byte := h.nonce.toList.flatMap (fun w => leBytes 4 w.toNat)

/-- A write of HM_CMD by a client (R432, R435). -/
def putHmCmd (client : BitVec 8) (v : W32) (s : State) : WRes :=
  let h := s.hm
  if client ≠ 0xFF then .error Code.claimDenied
  else if h.busy.isSome then .error Code.hmBusy
  else
    match hmOpOf (fld v 0 4) with
    | none => .error Code.hmBadCmd
    | some op =>
      if maskBad op s then .error Code.hmBadCmd
      else .ok (setHm { h with busy := some { op := op, arg := h.arg, arg2 := h.arg2, nonce := nonceBytes h } } s)

/-! ### The HMASTER page (R441, R493) -/

def hmArgKey : Nat := regKey Pg.hmaster 0x064

def putHmaster (client : BitVec 8) (off : Nat) (v : W32) (s : State) : WRes :=
  let h := s.hm
  match off with
  | 0x060 => putHmCmd client v s
  | 0x064 => .ok (holdLo hmArgKey v s)
  | 0x068 => .ok (putPair hmArgKey h.arg (v &&& 0xFFFF) (fun w s => setHm { s.hm with arg := w } s) s)
  | 0x06C => .ok (setHm { h with arg2 := v } s)
  | off =>
    if q : 0x080 ≤ off ∧ off < 0x0A0 then
      .ok (setHm { h with nonce := h.nonce.set ((off - 0x080) / 4) v (by omega) } s)
    else .ok s

def hmStatus (s : State) : W32 :=
  lastErr hmBlk s ++ w16 (s.hm.stage.toNat * 256 + b2n s.hm.owner * 32 + b2n s.hm.slot * 16 + b2n s.hm.busy.isSome)

/-- SU_STATUS (R493). -/
def suStatus (s : State) : W32 :=
  s.startUp.cause ++ w16 (b2n (lpxFail s) * 2048 + b2n (linksDone s) * 1024 + b2n (lpxDone s) * 512 +
    s.startUp.failStage.toNat * 16 + suState s)

/-- HM_DBG: the seconds left of a wait are a free value between 1 and its length (log 6). -/
def hmDbg (s : State) : W32 × State :=
  let h := s.hm
  let low := w16 (h.fails.toNat * 4096 + h.scopes.toNat)
  if h.wait = 0 then ((0 : W16) ++ low, s)
  else
    let (k, s) := nextFree s
    (w16 (1 + Config.freeNat k % h.wait.toNat) ++ low, s)

def getHmaster (off : Nat) (s : State) : W32 × State :=
  let h := s.hm
  match off with
  | 0x040 => let s := romSeen s
             (hmStatus s, s)
  | 0x044 => (h.svn, s)
  | 0x048 => (h.version, s)
  | 0x04C => (h.minSvn, s)
  | 0x050 => readLo (regKey Pg.hmaster 0x050) h.idTag s
  | 0x054 => readHi (regKey Pg.hmaster 0x050) h.idTag s
  | 0x058 => readLo (regKey Pg.hmaster 0x058) h.serial s
  | 0x05C => readHi (regKey Pg.hmaster 0x058) h.serial s
  | 0x064 => readLo hmArgKey h.arg s
  | 0x068 => readHi hmArgKey h.arg s
  | 0x06C => (h.arg2 &&& 0x007F000F, s)
  | 0x070 => (h.result.setWidth 32, s)
  | 0x074 => hmDbg s
  | 0x0C0 => (suStatus s, s)
  | 0x0C4 => (s.startUp.time, s)
  | off =>
    if 0x080 ≤ off ∧ off < 0x0A0 then (h.nonce.toList.getD ((off - 0x080) / 4) 0, s)
    else if 0x0A0 ≤ off ∧ off < 0x0C0 then (w32 (leAt (h.chal.getD []) (off - 0x0A0) 4), s)
    else (0, s)

def hmWrite (r : Req) (op : Nat) (s : State) : Outcome :=
  .next (regWrite r hmBlk false (putHmaster r.client 0x060 (w32 op) s) s)

/-! ### The TAP (R439) -/

/-- Whether the scope that a vendor instruction belongs to is open (R435, R439). -/
def vendorOpen (code : Nat) (s : State) : Bool := s.hm.scopes.getLsbD (Config.jtagScope (BitVec.ofNat 8 code) % 4)

/-- The instruction that a code selects. A code that is none of the TAP's selects the bypass register; so does a vendor code
whose scope is closed, since it does not act (R439; DEDUCED, log 29). -/
def tapIr (code : Nat) (s : State) : TapIr :=
  if code = 0x01 then .idcode
  else if code = 0x02 then .sample
  else if code = 0x00 then .extest
  else if 0x10 ≤ code ∧ code < 0x40 ∧ vendorOpen code s then .vendor (BitVec.ofNat 8 code)
  else .bypass

/-- IDCODE: version 0x0, part number 0x0256, manufacturer identity 0x4CA and bit 0 set (R439). -/
def idcodeWord : W32 := 0x00256995

/-- The TAP is supplied from VAUX (R453). With IDCODE selected it shifts out the identification register (R439). -/
def setTap (i : TapIr) (s : State) : State :=
  if s.board.vaux then
    let s := { s with board := { s.board with tap := i } }
    if i = .idcode then post (.tdo idcodeWord) s else s
  else s

/-- The scope that opens a debug access (the scope table of R435). -/
def debugScope (a : DebugAct) : Nat :=
  match a with
  | .memRead _ _ => 2
  | .memWrite _ _ => 2
  | _ => 1

/-- BERTH_DEBUG halts the pilot of a berth: it issues no word until it is stepped, or until a frame opens and starts it anew
(R129, R435). -/
def debugHalt (b : BerthIdx) (s : State) : State :=
  let be := berth b s
  if be.pl = .run ∨ be.pl = .stalled then setBerth b { be with pl := .held } s else s

/-- BERTH_DEBUG lets a halted pilot issue one word, or try again the one it waits with (R435). -/
def debugStep (b : BerthIdx) (s : State) : State :=
  let be := berth b s
  if be.pl ≠ .held then s
  else
    debugHalt b (if be.stall.isSome then retryStall b .clean (setBerth b { be with pl := .stalled } s)
      else pilotCycle b (setBerth b { be with pl := .run } s))

/-- A debug access (R435). Memory is reached in committed versions, where a request outside any frame may reach it; the spec
gives the accesses no other rule (DESIGN CHOICE, log 29). -/
def debugDo (a : DebugAct) (s : State) : State :=
  match a with
  | .none => s
  | .memRead addr n =>
    if (requestCode addr.toNat n s).isSome then s
    else post (.debugMem (readPieces none (piecesOf addr.toNat n) s)) s
  | .memWrite addr data =>
    let ps := piecesOf addr.toNat data.length
    if (requestCode addr.toNat data.length s).isSome then s
    else foldS (ps.map (·.1)) markStale (putCommitted ps data s)
  | .halt b => debugHalt b s
  | .step b => debugStep b s
  | .inspect b => post (.debugBerth b (berth b s)) s

/-- A vendor instruction is selected; where its scope is open and is the one that opens the access, the access is made (R435,
R439). -/
def vendorAct (code : Nat) (a : DebugAct) (s : State) : State :=
  let t := setTap (tapIr code s) s
  match tapIr code s with
  | .vendor c => if s.board.vaux && !inReset s && Config.jtagScope c % 4 == debugScope a then debugDo a t else t
  | _ => t

/-! ### Pins (R439, R440, R454, R457) -/

/-- What the device drives on a pin in its own function, none where the pin is undriven. In reset every Mmm_RESET_N is low,
and GPIO, PROCHOT_N and THERMTRIP_N are undriven but for a trip (R454, R457, R466). -/
def ownDrive (p : Pin) (s : State) : Option Bool :=
  if !s.board.vaux then none
  else
    match p with
    | .gpio n => gpioDrives n.toNat s
    | .prochotN => if s.power.throttle && !inReset s then some false else none
    | .thermtripN => if s.board.thermtripLow then some false else none
    | .smbAlertN => if topCode 2 s ≠ 0xFFFF then some false else none
    | .memResetN _ => some s.startUp.memRelease
    | .other _ => none

/-- What drives a pin: the boundary register while EXTEST is selected, else the pin's own function (R440). -/
def pinDrive (p : Pin) (s : State) : Option Bool := (takenOver p s).orElse (fun _ => ownDrive p s)

/-- The level at a pin: what the device drives, else what the board gives it; open-drain outputs are pulled up. The levels
of the other signals are open (log 29). -/
def pinAt (p : Pin) (s : State) : Bool × State :=
  match pinDrive p s with
  | some v => (v, s)
  | none =>
    match p with
    | .gpio n => ((gpio n.toNat s).input, s)
    | .prochotN => (!s.board.prochotLow, s)
    | .thermtripN => (true, s)
    | .smbAlertN => (true, s)
    | _ =>
      let (k, s) := nextFree s
      (Config.freeNat k % 2 == 1, s)

/-- The levels at some pins. -/
def pinsAt (ps : List Pin) (s : State) : List (Pin × Bool) × State :=
  match ps with
  | [] => ([], s)
  | p :: r =>
    let (v, s) := pinAt p s
    let (vs, s) := pinsAt r s
    ((p, v) :: vs, s)

/-- A scan of the boundary register: the levels of the named pins are captured and shifted out, and the levels shifted in take
their places (R439). -/
def scanCells (cells : List (Pin × Bool)) (s : State) : State :=
  let (vs, s) := pinsAt (cells.map (·.1)) s
  let keep := s.board.boundary.filter (fun c => !cells.any (fun d => d.1 == c.1))
  post (.scan vs) { s with board := { s.board with boundary := keep ++ cells } }

/-- SAMPLE/PRELOAD (R439). -/
def samplePins (cells : List (Pin × Bool)) (s : State) : State :=
  if s.board.vaux then setTap .sample (scanCells cells s) else s

/-- EXTEST: the boundary register drives its pins; a scan under it captures their levels and gives new ones (R439, R440). -/
def extestPins (cells : List (Pin × Bool)) (s : State) : State :=
  let s := setTap (tapIr 0x00 s) s
  if s.board.vaux && cells != [] then scanCells cells s else s

/-! ### The commands -/

/-- ATTEST (R434). -/
def execAttest (r : Req) (s : State) : Outcome := awake s (hmWrite r 1 s)

/-- CHALLENGE (R436). -/
def execChallenge (r : Req) (s : State) : Outcome := awake s (hmWrite r 2 s)

/-- UNLOCK_VENDOR (R436). -/
def execUnlockVendor (r : Req) (s : State) : Outcome := awake s (hmWrite r 3 s)

/-- UNLOCK_OWNER (R436). -/
def execUnlockOwner (r : Req) (s : State) : Outcome := awake s (hmWrite r 4 s)

/-- UNLOCK_PASSWORD (R437). -/
def execUnlockPassword (r : Req) (s : State) : Outcome := awake s (hmWrite r 5 s)

/-- UPDATE_IMAGE (R433). -/
def execUpdateImage (r : Req) (s : State) : Outcome := awake s (hmWrite r 6 s)

/-- INSTALL_CFG (R433). -/
def execInstallCfg (r : Req) (s : State) : Outcome := awake s (hmWrite r 7 s)

/-- INSTALL_OWNER (R433). -/
def execInstallOwner (r : Req) (s : State) : Outcome := awake s (hmWrite r 8 s)

/-- HM_CMD_DONE (R432). -/
def execHmCmdDone (s : State) : Outcome := awake s (.next (endHm s))

/-- CHALLENGE_EXPIRY (R436). -/
def execChallengeExpiry (s : State) : Outcome := awake s (.next (setHm { s.hm with chal := none } s))

/-- UNLOCK_WAIT_END (R438). -/
def execUnlockWaitEnd (s : State) : Outcome := awake s (.next (setHm { s.hm with wait := 0 } s))

/-- EXTEST (R439, R440): from now on the boundary register drives its pins (`takenOver`); `cells` are scanned. -/
def execExtest (s : State) (cells : List (Pin × Bool) := []) : Outcome := .next (extestPins cells s)

/-- SAMPLE_PRELOAD (R439): the levels of the scanned pins are shifted out, and the levels shifted in are preloaded. -/
def execSamplePreload (s : State) (cells : List (Pin × Bool) := []) : Outcome := .next (samplePins cells s)

/-- IDCODE (R439). -/
def execIdcode (s : State) : Outcome := .next (setTap (tapIr 0x01 s) s)

/-- BYPASS (R439). -/
def execBypass (s : State) : Outcome := .next (setTap (tapIr 0xFF s) s)

/-- JTAG_VENDOR_INSTRUCTION (R439): the instruction register takes the code while its scope is open, and the instruction
does what that scope opens. -/
def execJtagVendorInstruction (code : BitVec 8) (s : State) (act : DebugAct := .none) : Outcome :=
  .next (vendorAct code.toNat act s)

/-- TAP_RESET: test-logic reset selects IDCODE (R439). -/
def execTapReset (s : State) : Outcome := .next (setTap .idcode s)

/-- BOOT_ROM_DONE (R428): the steps that are left meet what `x` says. -/
def execBootRomDone (x : BootIn) (s : State) : Outcome :=
  awake s (.next (if s.startUp.phase = .boot then bootRom (setHm { s.hm with rom := x } s) else s))

/-- FIRMWARE_BRINGUP_DONE (R429, R491). -/
def execFirmwareBringupDone (s : State) : Outcome := awake s (.next (if s.startUp.phase = .firmware then firmwareUp s else s))

/-- CLOCK_LOCK_TIMEOUT (R492). -/
def execClockLockTimeout (s : State) : Outcome := awake s (.next (if s.startUp.phase = .firmware then enterFailed 0 s else s))

/-- SELFTEST_DONE (R491, R492). -/
def execSelftestDone (layersFail : List (BitVec 4))
    (lanes : List SeamLane) (s : State) : Outcome :=
  awake s (.next (if s.startUp.phase = .selftest then selftestEnd layersFail lanes s else s))

/-- LINK_TRAIN_DEADLINE (R492). -/
def execLinkTrainDeadline (s : State) : Outcome :=
  awake s (.next (if s.startUp.phase = .training ∧ !linksDone s then enterFailed Code.linkTrainFail s else s))

/-- READY_TOGGLE: one edge of READY's square wave (R488, R489). -/
def execReadyToggle (s : State) : Outcome :=
  awake s (.next (if [5, 6, 7, 15].contains (suState s) then setStartUp { s.startUp with wave := !s.startUp.wave } s else s))

end Sys2Proof.Machine
end

