-- ==== Sys2Proof/Machine/Weights.lean ====
section
/-! DEFINITION. Weight-set slots: the window's commands, latches, switches and drains (R218 to R225, R241). -/

namespace Sys2Proof.Machine
open Sys2Proof

def cvPage : Blk := ⟨Pg.caravan, 0⟩

/-! ### The slot entry (R218) -/

def slotWord (w : WsSlot) : BitVec 128 :=
  BitVec.ofNat 128 (w.st.code * 2 ^ 125 + w.owner.toNat * 2 ^ 112 + w.refs.toNat * 2 ^ 96 + w.firstObj.toNat * 2 ^ 80 +
    w.nObj.toNat * 2 ^ 64 + w.gen.toNat * 2 ^ 32 + w.altDev.toNat * 2 ^ 16)

def winData (s : State) : BitVec 128 := s.weights.data3 ++ s.weights.data2 ++ s.weights.data1 ++ s.weights.data0

/-- The set and the slot that WS_SEL selects. -/
def selSet (s : State) : Nat := fld s.weights.sel 0 6
def selSlot (s : State) : Bool := s.weights.sel.getLsbD 6

/-! ### LOAD, READY and CLEAR (R219, R221): all take effect at rank 7, in the order submitted (log 16) -/

/-- The code LOAD is refused with. -/
def loadCode (set : Nat) (slot : Bool) (w : BitVec 128) (s : State) : Option W16 :=
  let first := fld w 80 16
  let n := fld w 64 16
  let other := wsSlot (slotKey set !slot) s
  let objs := (List.range n).map (first + ·)
  if (wsSlot (slotKey set slot) s).st ≠ .free then some Code.wsBusy
  else if n = 0 ∨ 4096 < n then some Code.wsBad
  else if objs.any (fun o => !(obj o s).valid || busyMember o s) then some Code.wsBad
  else if other.st ≠ .free ∧ fld w 32 32 ≤ other.gen.toNat then some Code.wsBad
  else if objs.any (fun o => (obj o s).writer != 0x10) then some Code.wsWritable
  else none

def takeLoad (set : Nat) (slot : Bool) (w : BitVec 128) (s : State) : State :=
  match loadCode set slot w s with
  | some c => refuse cvPage c s
  | none => setSlot (slotKey set slot)
      { st := .loading
        owner := w.extractLsb' 112 8
        firstObj := w.extractLsb' 80 16
        nObj := w.extractLsb' 64 16
        gen := w.extractLsb' 32 32
        altDev := w.extractLsb' 16 16 } s

def takeReady (set : Nat) (slot : Bool) (s : State) : State :=
  let w := wsSlot (slotKey set slot) s
  if w.st ≠ .loading then refuse cvPage Code.wsBusy s
  else if w.legsOut ≠ 0 ∨ w.legsFailed ≠ 0 then refuse cvPage Code.wsLoadIncomplete s
  else setSlot (slotKey set slot) { w with st := .ready } s

/-- Drops what this device holds of the legs of a slot's load caravan. -/
def dropLegs (key : Nat) (s : State) : State :=
  setWeights { s.weights with legs := s.weights.legs.filter (fun l => l.key != key) } s

/-- The bytes of a load caravan that has completed, or goes, wait for the base tick (R285). -/
def settleLoad (k : Nat) (s : State) : State :=
  let w := wsSlot k s
  if w.owed = {} then s
  else accrueLate w.owner.toNat (·.bytes w.owed.lt w.owed.lpx w.owed.tx w.owed.rx)
    (setSlot k { w with owed := {} } s)

/-- Bytes of the load caravan of slot `k`: its client is charged once no leg is outstanding; the activity counts at once
(R285, R286). -/
def chargeLoad (k written lpx tx rx : Nat) (s : State) : State :=
  let w := wsSlot k s
  let s := addByteAct w.owner.toNat written lpx tx (setSlot k { w with owed := w.owed.bytes written lpx tx rx } s)
  if w.legsOut = 0 then settleLoad k s else s

/-- A slot becomes FREE; the fields that only LOAD writes read back as they were (R218). -/
def freeSlot (k : Nat) (s : State) : State :=
  let s := settleLoad k s
  let w := wsSlot k s
  dropLegs (16 + k) (setSlot k
    { owner := w.owner, firstObj := w.firstObj, nObj := w.nObj, gen := w.gen, altDev := w.altDev } s)

def takeClear (set : Nat) (slot : Bool) (s : State) : State :=
  let k := slotKey set slot
  match (wsSlot k s).st with
  | .free => s
  | .loading => freeSlot k s
  | .ready =>
    if s.weights.switches.any (fun x => x.set == set && x.slot == slot) then refuse cvPage Code.wsBusy s
    else freeSlot k s
  | _ => refuse cvPage Code.wsBusy s

/-- Rank 7: the commands submitted since the last base tick. -/
def slotCmds (s : State) : State :=
  let l := s.weights.cmds
  let s := setWeights { s.weights with cmds := [] } s
  foldS l (fun c s => match c.op with
    | .load => takeLoad c.set c.slot c.data s
    | .ready => takeReady c.set c.slot s
    | .clear => takeClear c.set c.slot s) s

/-! ### Latches (R222, R223) -/

/-- The slot of a set that is CURRENT. -/
def currentSlot (set : Nat) (s : State) : Option Bool :=
  if (wsSlot (slotKey set false) s).st = .current then some false
  else if (wsSlot (slotKey set true) s).st = .current then some true
  else none

def fullSlot (set : Nat) (slot : Bool) (s : State) : Bool := (wsSlot (slotKey set slot) s).refs == 0xFFFF

def addRef (l : BitVec 6 × Bool) (s : State) : State :=
  modSlot (slotKey l.1.toNat l.2) (fun w => { w with refs := satInc w.refs }) s

def dropRef (l : BitVec 6 × Bool) (s : State) : State :=
  modSlot (slotKey l.1.toNat l.2) (fun w => { w with refs := if w.refs = 0 then 0 else w.refs - 1 }) s

/-! ### Switches and drains (R224, R225) -/

/-- A late switch at the write: reported, and the frames open now are recalled. -/
def lateSwitch (mask : W16) (s : State) : State :=
  foldS ((List.range 16).filter (fun d => mask.getLsbD d)) (fun d s => recallNamed d Code.eventLate s)
    (report cvPage Code.eventLate s)

/-- The frames of domains that are open once the tick's ranks are done are recalled (R30, R224). -/
def recallLater (ds : List Nat) (c : W16) (s : State) : State :=
  setWeights { s.weights with recallNow := s.weights.recallNow ++ ds.map (fun d => (d, c)) } s

/-- The same for the domains of a mask. -/
def recallAfter (mask : W16) (c : W16) (s : State) : State :=
  recallLater ((List.range 16).filter (fun d => mask.getLsbD d)) c s

/-- A switch at rank 6 of its effective tick. -/
def takeSwitch (x : Switch) (s : State) : State :=
  let k := slotKey x.set x.slot
  let o := slotKey x.set !x.slot
  let w := wsSlot k s
  if w.st = .current ∧ w.gen = x.gen then s
  else if w.st = .ready ∧ w.gen = x.gen then
    let s := setSlot k { w with st := .current } s
    if (wsSlot o s).st = .current then
      modSlot o (fun y => { y with st := .draining, drainMask := x.mask, drainTick := x.tick }) s
    else s
  else recallAfter x.mask Code.wsNotReady (report cvPage Code.wsNotReady s)

/-- Rank 6: switches whose tick has come, in the order submitted; one whose tick has passed is late. -/
def switchSets (s : State) : State :=
  let l := s.weights.switches.filter (fun x => x.tick ≤ now s)
  let s := setWeights { s.weights with switches := s.weights.switches.filter (fun x => !(x.tick ≤ now s)) } s
  foldS l (fun x s =>
    if x.tick = now s then takeSwitch x s
    else recallAfter x.mask Code.eventLate (report cvPage Code.eventLate s)) s

/-- Whether a frame of domain `d` opened before tick `t` and still runs (R225). -/
def stillReads (d t : Nat) (s : State) : Bool :=
  let x := dom d s
  x.opening < t && (isOpen d s || (x.st == .recalling && !x.abortDone))

/-- Rank 5: DRAINING slots that nothing holds or reads become FREE. -/
def drainSlots (s : State) : State :=
  foldS (s.weights.slots.filter (fun e => e.2.st == .draining && e.2.refs == 0)) (fun e s =>
    if (List.range 16).any (fun d => e.2.drainMask.getLsbD d && stillReads d e.2.drainTick s) then s
    else freeSlot e.1 s) s

/-- After the ranks: the recalls that switches asked for. -/
def takeRecallNow (s : State) : State :=
  let l := s.weights.recallNow
  foldS l (fun e s => recallNamed e.1 e.2 s) (setWeights { s.weights with recallNow := [] } s)

/-- SW_GO: a switch that names the slot in WS_SEL (R224). -/
def putSwGo (v : W32) (s : State) : WRes :=
  let w := s.weights
  if !v.getLsbD 0 then .ok s
  else if w.swTick.toNat ≤ now s then .ok (lateSwitch w.swDomains s)
  else .ok (setWeights { w with switches := w.switches ++
    [{ set := selSet s, slot := selSlot s, gen := w.swGen, tick := w.swTick.toNat, mask := w.swDomains }] } s)

end Sys2Proof.Machine
end

