-- ==== Sys2Proof/Machine/Caravan.lean ====
section
/-! DEFINITION. Caravans (R229 to R238): leg lists and landing tables, sending, receiving and landing, and the CARAVAN page
(R241). -/

namespace Sys2Proof.Machine
open Sys2Proof

def caravan (d : Nat) (s : State) : Caravan := tget s.weights.cv {} d
def setCaravan (d : Nat) (c : Caravan) (s : State) : State :=
  setWeights { s.weights with cv := tset s.weights.cv {} d c } s

/-! ### Leg lists and landing tables (R230, R231) -/

structure Leg where
  src : Nat
  mc : Nat
  fmt : Nat
  kind : Nat
  ntiles : Nat
  ext : Nat
  first : Nat
  digest : Nat
  ok : Bool
  deriving DecidableEq, Repr

/-- Leg `l` of a list, with whether its bits are as R230 gives them. -/
def legAt (list l : Nat) (s : State) : Leg :=
  let a := objNum list (32 * l) 8 none s
  let b := objNum list (32 * l + 8) 8 none s
  let f := a / 2 ^ 28 % 16
  let n := a % 2 ^ 16
  let first := b / 2 ^ 16 % 2 ^ 16
  { src := a / 2 ^ 48
    mc := a / 2 ^ 32 % 2 ^ 16
    fmt := f
    kind := a / 2 ^ 24 % 16
    ntiles := n
    ext := b / 2 ^ 32 % 2 ^ 21
    first := first
    digest := objNum list (32 * l + 24) 8 none s
    ok := f ≤ 9 && 1 ≤ n && first + n ≤ tilesPerExtent f && a / 2 ^ 16 % 256 == 0 && b / 2 ^ 53 == 0 && b % 2 ^ 16 == 0 &&
      objNum list (32 * l + 16) 8 none s == 0 }

structure Landing where
  form : Nat
  berth : Nat
  ext : Nat
  tile : Nat
  off : Nat
  ok : Bool
  deriving DecidableEq, Repr

/-- Landing entry `e` of a table whose list has `n` legs. -/
def landingAt (land n e : Nat) (s : State) : Landing :=
  let w := objNum land (8 * (n + e)) 8 none s
  let form := w / 2 ^ 62
  let off := w % 2 ^ 28
  { form := form
    berth := w / 2 ^ 48 % 256
    ext := w / 2 ^ 32 % 2 ^ 21
    tile := w / 2 ^ 16 % 2 ^ 16
    off := off
    ok := w / 2 ^ 56 % 64 == 0 &&
      ((form == 1 && w / 2 ^ 28 % 2 ^ 20 == 0 && off % 512 == 0) || (form == 2 && w / 2 ^ 53 % 8 == 0 && w % 2 ^ 16 == 0)) }

/-- COUNT and FIRST of leg `l`, and whether the header's reserved bits and its count are as R230 gives them. -/
def landHead (land l : Nat) (s : State) : Nat × Nat × Bool :=
  let w := objNum land (8 * l) 8 none s
  (w / 2 ^ 32 % 2 ^ 16, w % 2 ^ 32, w / 2 ^ 48 == 0 && w / 2 ^ 32 % 2 ^ 16 ≤ 64)

def landings (land n l : Nat) (s : State) : List Landing :=
  let (c, f, _) := landHead land l s
  (List.range (min c 64)).map (fun i => landingAt land n (f + i) s)

/-- Whether a stream landing is accepted (R231); a POOL extent has no bytes to land in (R189). -/
def streamLandOk (g : Leg) (e : Landing) (s : State) : Bool :=
  let n := g.ntiles * tileBytes g.fmt
  e.ok && e.form == 1 && clearRange e.berth e.off n s &&
    (piecesOf (e.berth * 0x10000000 + e.off) n).all (fun p => (ext p.1 s).kind == .scratch)

/-- Whether a load landing is accepted: an extent of a member of slot `k`. -/
def loadLandOk (k : Nat) (g : Leg) (e : Landing) (s : State) : Bool :=
  let x := ext e.ext s
  e.ok && e.form == 2 && x.kind == .object && x.st != .moved && (wsSlot k s).has x.obj.toNat &&
    e.tile + g.ntiles ≤ tilesPerExtent g.fmt

/-- Whether a leg of the caravan under `key` may run and land here: below 16 a stream, above a load (R231). -/
def legOk (key : Nat) (list land n l : Nat) (s : State) : Bool :=
  let g := legAt list l s
  let es := landings land n l s
  g.ok && (landHead land l s).2.2 && g.kind == (if key < 16 then 1 else 2) &&
    es.all (fun e => if key < 16 then streamLandOk g e s else loadLandOk (key - 16) g e s)

/-! ### Staging partitions (R236) -/

/-- The partitions that a client has claimed, PD1 in bits 15 to 8. -/
def heldParts (c : BitVec 8) (s : State) : W16 :=
  w16 (((List.range 16).filter (fun i => (ledgerEntry (0x18 + i) s).owner == some c)).map (2 ^ ·)).sum

/-- Whether a client holds a partition on each pier die. -/
def partsOk (m : W16) : Bool := fld m 0 8 != 0 && fld m 8 8 != 0

/-- SP_USE: the partitions of enabled stream caravans and of load caravans with legs outstanding (log 17). -/
def spUse (s : State) : W16 :=
  s.weights.slots.foldl (fun m e => m ||| e.2.parts)
    (s.weights.cv.foldl (fun m e => m ||| e.2.parts) 0)

/-! ### Sending (R229, R233 to R235, R238) -/

/-- The kind header of CV_TILE and CV_LEGREQ up to the tile number (R326). -/
def cvHeader (t : CvTag) (l : Nat) : List Byte :=
  (match t with
  | .stream f => bytesAt (tagBytes f) 0 16
  | .load gen set slot =>
    bytesAt (leBytes 4 gen.toNat ++ [0, 0, 0, 0, BitVec.ofNat 8 (b2n slot * 64 + set.toNat), 0x40]) 0 16) ++ leBytes 2 l

/-- Sends a message under a caravan tag: a stream leg's belongs to its frame (R37). -/
def sendTag (t : CvTag) (m : OutMsg) (s : State) : State :=
  match t with
  | .stream f => sendFrame f m s
  | .load .. => send m s

/-- Sends the tiles of a leg; `d` is the domain whose frame reads its source, none for a load leg. -/
def sendTiles (t : CvTag) (d : Option Nat) (l : Nat) (g : Leg) (s : State) : State :=
  let n := tileBytes g.fmt
  foldS (List.range g.ntiles) (fun k s =>
    let m : OutMsg :=
      { dst := w16 g.mc
        mc := true
        kind := 0x30
        body := pad8 (cvHeader t l ++ [BitVec.ofNat 8 k, BitVec.ofNat 8 g.fmt]) ++
          s.mem.bytesFrom (readPhys g.ext d s * extBytes + (g.first + k) * n) n }
    sendTag t m s) s

/-- Whether the source of a leg lies in memory that exists. -/
def srcExists (x : Nat) (s : State) : Bool := x ≤ lastExt && (x < 65536 || lpxOpen s)

/-- What the memories report while the source of a leg is read (R66, R213): whether its data comes. -/
def legEvent (d : Option Nat) (k : Blk) (g : Leg) (x : ReadEvent) (s : State) : Bool × State :=
  let a := extAddr g.ext + g.first * tileBytes g.fmt
  if 65536 ≤ g.ext then lpxEvent d a x s else sliceEvent (BitVec.ofNat 8 (g.ext / 256)) k a x s

/-- The event that a list of reads gives for leg `l`. -/
def readOf (reads : List (W16 × ReadEvent)) (l : Nat) : ReadEvent :=
  ((reads.find? (fun r => r.1.toNat == l)).map (·.2)).getD .clean

/-- A leg's read has brought no data: where its extent is POISONED now, the frame that reads it is recalled (R214, R240). -/
def legLost (d : Option Nat) (x : Nat) (s : State) : State :=
  match d with
  | some d => if (ext x s).st = .poisoned then poisonRecall d x s else s
  | none => s

/-- Charges bytes of a leg of the caravan that a tag names: a stream's to the frame of domain `d` (R285). -/
def chargeLeg (t : CvTag) (d : Option Nat) (c : BitVec 8) (written lpx tx rx : Nat) (s : State) : State :=
  match t with
  | .stream _ => charge d c written lpx tx rx s
  | .load _ set slot => chargeLoad (slotKey set.toNat slot) written lpx tx rx s

/-- Sends leg `l`: false where it was not sent. A read of its source is a read by the frame (R229), which meets `x`. -/
def sendLeg (t : CvTag) (d : Option Nat) (c : BitVec 8) (k : Blk) (l : Nat) (g : Leg) (x : ReadEvent) (s : State) :
    Bool × State :=
  if !srcExists g.ext s then (false, report k Code.memRange s)
  else
    match prepRead d g.ext s with
    | (.ok, s) =>
      match legEvent d k g x s with
      | (true, s) =>
        let n := g.ntiles * tileBytes g.fmt
        (true, chargeLeg t d c 0 (if 65536 ≤ g.ext then n else 0) n 0 (sendTiles t d l g s))
      | (false, s) => (false, legLost d g.ext s)
    | (.refused e, s) => (false, report k e s)
    | (_, s) => (false, s)

/-- The legs of a list that fall to this device. -/
def ownLegs (list n : Nat) (s : State) : List Nat :=
  (List.range n).filter (fun l => (legAt list l s).src == (ownDev s).toNat)

/-- Sends legs of the open frame one after another; a leg that R231 refuses is skipped, one whose source may not be read or
brings no data stops the caravan. R229 says so for EXTENT_MOVED; that a source outside memory (MEM_RANGE) or in a POOL extent
stops it too is the model's choice (DESIGN CHOICE, log 15). -/
def sendLegs (d : Nat) (t : CvTag) (reads : List (W16 × ReadEvent)) (ls : List Nat) (s : State) : State :=
  match ls with
  | [] => setCaravan d { caravan d s with allSent := true } s
  | l :: r =>
    let c := caravan d s
    if !legOk d c.list.toNat c.land.toNat c.nlegs.toNat l s then sendLegs d t reads r (report (Blk.cv d) Code.cvBadLeg s)
    else
      match sendLeg t (some d) (serveOf d s).client (Blk.cv d) l (legAt c.list.toNat l s) (readOf reads l) s with
      | (true, s) =>
        let c := caravan d s
        sendLegs d t reads r (setCaravan d { c with legsSent := satInc c.legsSent } s)
      | (false, s) => setCaravan d { caravan d s with stopped := true } s

/-- At an opening tick of `d`, after the ranks that move and rebuild extents: the legs of the frame that opens (R229, R234).
An extent that a leg's read poisons is remapped at the next base tick (R240). Legs sent ahead are not sent again, except at a
replay. -/
def openCaravan (reads : List LegRead) (d : Nat) (s : State) : State :=
  let c := caravan d s
  let x := dom d s
  if !c.en || !isOpen d s then s
  else
    let own := ownLegs c.list.toNat c.nlegs.toNat s
    let gone := c.ahead == some x.num && x.replays == 0
    let todo := if gone then c.aheadLeft else own
    let before := if gone then (own.filter (fun l => !c.aheadLeft.contains l &&
      legOk d c.list.toNat c.land.toNat c.nlegs.toNat l s)).length else 0
    let c := { c with ahead := if x.replays = 0 then none else c.ahead, aheadLeft := if x.replays = 0 then [] else c.aheadLeft
                      stopped := false, allSent := false, legsSent := w16 before }
    let mine := (reads.filter (fun r => r.dom.toNat == d)).map (fun r => (r.leg, r.x))
    sendLegs d (.stream (runTag d s)) mine todo (setCaravan d c s)

/-- Legs `ls` of the next frame are sent ahead one after another: one that R231 refuses is not sent. One whose source may not
be read now, or brings no data, stops the caravan until the next opening tick: it and the legs after it are left for that tick
(R229). -/
def sendAhead (d : Nat) (t : CvTag) (reads : List (W16 × ReadEvent)) (ls : List Nat) (s : State) : State :=
  match ls with
  | [] => s
  | l :: r =>
    let c := caravan d s
    let g := legAt c.list.toNat l s
    let leave (s : State) : State := setCaravan d { caravan d s with aheadLeft := ls } s
    if !legOk d c.list.toNat c.land.toNat c.nlegs.toNat l s then sendAhead d t reads r (report (Blk.cv d) Code.cvBadLeg s)
    else if !srcExists g.ext s || (prepRead (some d) g.ext s).1 != .ok then leave s
    else
      match legEvent (some d) (Blk.cv d) g (readOf reads l) s with
      | (true, s) => sendAhead d t reads r (sendLeg t (some d) (serveOf d s).client (Blk.cv d) l g .clean s).2
      | (false, s) => leave s

/-- CARAVAN_PREFETCH (R235): the legs of the next frame go once all legs of the open one have. -/
def prefetchLegs (d : Nat) (reads : List (W16 × ReadEvent)) (s : State) : State :=
  let c := caravan d s
  let x := dom d s
  let f := x.num + 1
  if !c.en || !c.prefetch || !isOpen d s || !c.allSent || c.ahead == some f || x.offReq || x.marks.any (fun m => m.f == f) then s
  else
    firstOfCycle s (sendAhead d (.stream { f := f, replays := 0, noFrame := false, dom := BitVec.ofNat 4 d }) reads
      (ownLegs c.list.toNat c.nlegs.toNat s) (setCaravan d { c with ahead := some f, aheadLeft := [] } s))

/-- What was sent or has landed ahead for a domain no longer counts: it is disabled, or its leg list is written anew (R229). -/
def forgetAhead (d : Nat) (s : State) : State :=
  dropLegs d (setCaravan d { caravan d s with ahead := none, aheadLeft := [] } s)

/-! ### Receiving (R232, R233, R237) -/

def legIn (key f l : Nat) (s : State) : LegIn :=
  (s.weights.legs.find? (fun x => x.key == key && x.f == f && x.leg == l)).getD { key := key, f := f, leg := l }

def setLegIn (x : LegIn) (s : State) : State :=
  let rest := s.weights.legs.filter (fun y => !(y.key == x.key && y.f == x.f && y.leg == x.leg))
  setWeights { s.weights with legs := rest ++ [x] } s

/-- Whether tiles of a stream tag land: its frame is open in that run, or it is the next frame of a domain that has opened
one, HELD domains and those that RESUME has armed among them, and has not been recalled (R233, R235). -/
def tileLive (t : FrameTag) (s : State) : Bool :=
  let d := t.dom.toNat
  let x := dom d s
  let ahead := t.replays == 0 && !x.offReq && !x.marks.any (fun m => m.f == t.f)
  if t.noFrame || !x.en then false
  else if t.f = x.num then (isOpen d s && x.replays == t.replays) || (ahead && x.ran &&
    ((x.st == .held && !x.heldRecalled) || (x.st == .armed && x.nextRun == .fresh)))
  else t.f == x.num + 1 && ahead && (isOpen d s || x.st == .recalling || (x.st == .held && x.heldRecalled) ||
    (x.st == .armed && x.nextRun == .replay))

/-- Writes the tiles of one landing, in tile order. -/
def putCopies (e : Landing) (n : Nat) (tiles : List (List Byte)) (s : State) : State :=
  foldS tiles.zipIdx (fun p s =>
    landBytes (piecesOf (e.berth * 0x10000000 + e.off + p.2 * n) n) p.1 s) s

/-- Adds copies to the landing word of berth `b` for frame `f` (R232). -/
def countCopies (b f k : Nat) (s : State) : State :=
  let a := landWord (BitVec.ofNat 8 b) (w64 f)
  putLast a (leBytes 8 (leVal (s.mem.bytesFrom a 8) + k)) s

/-- The tiles of a leg in order. -/
def legTiles (x : LegIn) (n : Nat) : List (List Byte) :=
  (List.range n).map (fun k => ((x.got.find? (fun g => g.1 == k)).map (·.2)).getD [])

/-- Berths a leg of the list lands at. -/
def legBerths (land n l : Nat) (s : State) : List Nat := ((landings land n l s).map (·.berth)).eraseDups

/-- Whether every lower leg that lands at berth `b` has landed there. -/
def lowerLanded (d f land n l b : Nat) (s : State) : Bool :=
  (List.range l).all (fun i => !(legBerths land n i s).contains b || (legIn d f i s).landed.contains b)

/-- Lands leg `l` at one berth once its turn has come (R232). -/
def landLeg (d f list land n l b : Nat) (s : State) : State :=
  let x := legIn d f l s
  if !x.done || x.landed.contains b || !lowerLanded d f land n l b s then s
  else
    let g := legAt list l s
    let sz := tileBytes g.fmt
    let es := (landings land n l s).filter (·.berth == b)
    let s := foldS es (fun e s => putCopies e sz (legTiles x g.ntiles) s) s
    let s := charge (some d) (serveOf d s).client (es.length * g.ntiles * sz) 0 0 0 s
    setLegIn { x with landed := x.landed ++ [b] } (countCopies b f (es.length * g.ntiles) s)

/-- Lands, in leg order, whatever can land. -/
def landStream (d f : Nat) (s : State) : State :=
  let c := caravan d s
  let land := c.land.toNat
  let n := c.nlegs.toNat
  foldS ((List.range n).filter (fun l => (legIn d f l s).done)) (fun l s =>
    foldS (legBerths land n l s) (fun b s => landLeg d f c.list.toNat land n l b s) s) s

/-- At the opening of a frame its scratch has become open: what was landed ahead is there again (R232, R235). -/
def relandLegs (d : Nat) (s : State) : State :=
  let c := caravan d s
  let n := c.nlegs.toNat
  foldS (s.weights.legs.filter (fun x => x.key == d && x.f == (dom d s).num.toNat)) (fun x s =>
    let g := legAt c.list.toNat x.leg s
    foldS ((landings c.land.toNat n x.leg s).filter (fun e => x.landed.contains e.berth)) (fun e s =>
      putCopies e (tileBytes g.fmt) (legTiles x g.ntiles) s) s) s

/-- Legs of frame `f` of domain `d` are forgotten once the frame is over. -/
def forgetLegs (d f : Nat) (s : State) : State :=
  setWeights { s.weights with legs := s.weights.legs.filter (fun l => !(l.key == d && l.f == f)) } s

/-- One leg of a load caravan is done or has failed. -/
def endLoadLeg (k : Nat) (failed : Bool) (s : State) : State :=
  let w := wsSlot k s
  let out := if w.legsOut = 0 then 0 else w.legsOut - 1
  let s := setSlot k { w with legsOut := out, legsFailed := if failed then satInc w.legsFailed else w.legsFailed
                              parts := if out = 0 then 0 else w.parts } s
  if out = 0 ∧ w.legsOut ≠ 0 then raise Pg.caravan 0 (settleLoad k s) else s

/-- Lands a load leg in the committed versions of its extents (R238). -/
def landLoad (k l : Nat) (s : State) : State :=
  let w := wsSlot k s
  let g := legAt w.loadList.toNat l s
  let sz := tileBytes g.fmt
  let x := legIn (16 + k) w.gen.toNat l s
  let es := landings w.loadLand.toNat w.loadLegs.toNat l s
  let s := foldS es (fun e s =>
    foldS (legTiles x g.ntiles).zipIdx (fun p s =>
      setMem (s.mem.setBytes ((ext e.ext s).phys.toNat * extBytes + (e.tile + p.2) * sz) p.1) s)
      (markStale e.ext (ownVersion e.ext [] s))) s
  let lpx := (es.filter (fun e => 65536 ≤ e.ext)).length * g.ntiles * sz
  endLoadLeg k false (chargeLoad k (es.length * g.ntiles * sz) lpx 0 0 s)

/-- A second digest mismatch of a stream leg from `src`: the frame that its tag names is recalled (R237); one not yet open
is marked recalled (R47.2). The data last arrived on the port of the tile that completed the leg (R338). -/
def recallTagged (d : Nat) (f : W64) (src : W16) (s : State) : State :=
  let s := noteLostData d f Code.digestMismatch src (lastPort src s)
    (report (Blk.cv d) Code.digestMismatch s)
  if isOpen d s && (dom d s).num == f then recallNamed d Code.digestMismatch s
  else
    let (t, s) := replayTickNow d s
    takeRecall d f 0 Code.digestMismatch t (sendRecall d f 0 Code.digestMismatch t s)

/-- A leg is complete here: its digest decides (R237). -/
def legComplete (t : CvTag) (x : LegIn) (g : Leg) (s : State) : State :=
  let at_ : FaultAt := { page := Pg.caravan, src := w16 g.src, dom := if x.key < 16 then some x.key else none
                         port := lastPort (w16 g.src) s }
  if (crc64 (legTiles x g.ntiles).flatten).toNat = g.digest then
    let s := if x.retried then transientFault Code.digestMismatch at_ s else s
    let s := setLegIn { x with done := true } s
    if x.key < 16 then landStream x.key x.f s else landLoad (x.key - 16) x.leg s
  else if !x.retried then
    sendTag t { dst := w16 g.src, kind := 0x31, body := pad8 (cvHeader t x.leg) }
      (setLegIn { x with got := [], retried := true } s)
  else
    let s := lastingFault Code.digestMismatch 0 at_ (setLegIn { x with got := [], bad := true } s)
    if x.key < 16 then recallTagged x.key (w64 x.f) (w16 g.src) s
    else endLoadLeg (x.key - 16) true (report cvPage Code.digestMismatch s)

/-- A tile of leg `l` of the caravan under `key` (R232). -/
def takeTile (t : CvTag) (key f : Nat) (c : BitVec 8) (list land n l k fmt : Nat) (data : List Byte) (s : State) : State :=
  let g := legAt list l s
  let x := legIn key f l s
  if n ≤ l || x.done || x.bad || (landHead land l s).1 == 0 then s
  else if !legOk key list land n l s then
    let s := report (if key < 16 then Blk.cv key else cvPage) Code.cvBadLeg (setLegIn { x with bad := true } s)
    if key < 16 then s else endLoadLeg (key - 16) true s
  else if g.ntiles ≤ k || fmt != g.fmt || data.length != tileBytes g.fmt then s
  else
    let x := { x with got := x.got.filter (fun e => e.1 != k) ++ [(k, data)] }
    let s := chargeLeg t (some key) c 0 0 0 data.length (setLegIn x s)
    if x.got.length = g.ntiles then legComplete t x g s else s

/-- CV_TILE (R232, R233), which arrives on a port. -/
def takeCvTile (t : CvTag) (l k fmt : Nat) (data : List Byte) (port : PortIdx) (s : State) : State :=
  let from_ (list : W16) (s : State) : State := noteArrival (w16 (legAt list.toNat l s).src) port.val s
  match t with
  | .stream f =>
    let d := f.dom.toNat
    let c := caravan d s
    if !tileLive f s || !c.en then s
    else takeTile t d f.f.toNat (serveOf d s).client c.list.toNat c.land.toNat c.nlegs.toNat l k fmt data (from_ c.list s)
  | .load gen set slot =>
    let q := slotKey set.toNat slot
    let w := wsSlot q s
    if w.st ≠ .loading ∨ w.gen ≠ gen then s
    else takeTile t (16 + q) gen.toNat w.owner w.loadList.toNat w.loadLand.toNat w.loadLegs.toNat l k fmt data (from_ w.loadList s)

/-- A leg of a load caravan cannot be sent: it fails, and where it was to land here it is no longer outstanding (R238). -/
def failLoadLeg (k l : Nat) (s : State) : State :=
  let w := wsSlot k s
  let x := legIn (16 + k) w.gen.toNat l s
  if x.bad then s
  else if (landHead w.loadLand.toNat l s).1 = 0 ∨ x.done then modSlot k (fun w => { w with legsFailed := satInc w.legsFailed }) s
  else endLoadLeg k true (setLegIn { x with bad := true } s)

/-- A leg of a load caravan that falls to this device is sent; one that is not sent has failed. -/
def sendLoadLeg (k : Nat) (l : Nat) (x : ReadEvent) (s : State) : State :=
  let w := wsSlot k s
  match sendLeg (.load w.gen (BitVec.ofNat 6 (k / 2)) (k % 2 == 1)) none w.owner cvPage l (legAt w.loadList.toNat l s) x s with
  | (true, s) => s
  | (false, s) => failLoadLeg k l s

/-- CV_LEGREQ (R237): the source sends the leg once more. -/
def takeLegreq (t : CvTag) (l : Nat) (x : ReadEvent) (s : State) : State :=
  match t with
  | .stream f =>
    let d := f.dom.toNat
    let c := caravan d s
    let g := legAt c.list.toNat l s
    if !tileLive f s || !c.en || c.nlegs.toNat ≤ l || g.src != (ownDev s).toNat ||
        !legOk d c.list.toNat c.land.toNat c.nlegs.toNat l s then s
    else (sendLeg t (some d) (serveOf d s).client (Blk.cv d) l g x s).2
  | .load gen set slot =>
    let q := slotKey set.toNat slot
    let w := wsSlot q s
    if w.st ≠ .loading ∨ w.gen ≠ gen ∨ w.loadLegs.toNat ≤ l ∨ (legAt w.loadList.toNat l s).src ≠ (ownDev s).toNat ∨
        !legOk (16 + q) w.loadList.toNat w.loadLand.toNat w.loadLegs.toNat l s then s
    else sendLoadLeg q l x s

/-! ### LOAD_GO (R238) -/

/-- Starts the load caravan of slot `k`. Legs that land here are outstanding; a refused one has failed (log 18). -/
def startLoad (k : Nat) (reads : List (W16 × ReadEvent)) (s : State) : State :=
  let p := s.weights
  let list := fld p.loadCv 0 16
  let land := fld p.loadCv 16 16
  let n := p.loadLegs.toNat
  let s := dropLegs (16 + k) (settleLoad k s)
  let good := (List.range n).filter (fun l => legOk (16 + k) list land n l s)
  let bad := (List.range n).filter (fun l => !good.contains l)
  let here := good.filter (fun l => (landHead land l s).1 != 0)
  let w := wsSlot k s
  let s := setSlot k { w with
    loadList := w16 list
    loadLand := w16 land
    loadLegs := p.loadLegs
    legsOut := w16 here.length
    legsFailed := w16 bad.length
    parts := if here = [] then 0 else heldParts w.owner s } s
  let s := foldS bad (fun l s => report cvPage Code.cvBadLeg (setLegIn { key := 16 + k, f := w.gen.toNat, leg := l, bad := true } s)) s
  let s := if here = [] then raise Pg.caravan 0 s else s
  foldS (good.filter (fun l => (ownLegs list n s).contains l)) (fun l => sendLoadLeg k l (readOf reads l)) s

def putLoadGo (reads : List (W16 × ReadEvent)) (s : State) : WRes :=
  let k := slotKey (selSet s) (selSlot s)
  let w := wsSlot k s
  if w.st ≠ .loading then .error Code.wsBusy
  else if !partsOk (heldParts w.owner s) then .error Code.cvUnclaimed
  else .ok (startLoad k reads s)

/-! ### The CARAVAN page (R241) -/

/-- A write of WS_CMD; `reads` is what the memories report while LOAD_GO's legs are read. -/
def putWsCmd (v : W32) (reads : List (W16 × ReadEvent)) (s : State) : WRes :=
  let w := s.weights
  let wait (op : WsOp) : WRes :=
    .ok (setWeights { w with cmds := w.cmds ++ [{ op := op, set := selSet s, slot := selSlot s, data := winData s }] } s)
  match fld v 0 3 with
  | 1 =>
    let e := slotWord (wsSlot (slotKey (selSet s) (selSlot s)) s)
    .ok (setWeights { w with data0 := e.extractLsb' 0 32, data1 := e.extractLsb' 32 32, data2 := e.extractLsb' 64 32
                             data3 := e.extractLsb' 96 32 } s)
  | 2 => wait .load
  | 3 => wait .ready
  | 4 => wait .clear
  | 5 => putLoadGo reads s
  | _ => .error Code.wsBad

/-- A write of CV_CFG of domain `d`; `free` takes it out of the CONFIG_REFUSED conditions (R372). -/
def putCvCfg (d : Nat) (free : Bool) (v : W32) (s : State) : WRes :=
  let n := v.extractLsb' 0 16
  let p := heldParts (serveOf d s).client s
  if v.getLsbD 31 && n == 0 && !free then .error Code.configRefused
  else if v.getLsbD 31 && !partsOk p then .error Code.cvUnclaimed
  else
    let s := forgetAhead d s
    .ok (setCaravan d { caravan d s with
      en := v.getLsbD 31, prefetch := v.getLsbD 30, nlegs := n, parts := if v.getLsbD 31 then p else 0 } s)

/-- Registers of a domain are closed while it is enabled and not HELD. -/
def domClosed (d : Nat) (s : State) : Bool := (dom d s).en && (dom d s).st != .held

/-- The domain and register of an offset of the per-domain groups of this page. -/
def cvGroup (off : Nat) : Option (Nat × Nat) :=
  if 0x100 ≤ off ∧ off < 0x200 then some ((off - 0x100) / 16, off % 16) else none

def blkCaravan (off : Nat) : Blk :=
  match cvGroup off with
  | some (d, _) => Blk.cv d
  | none => cvPage

/-- A write of a register of a domain's group. -/
def putCvGroup (d r : Nat) (free : Bool) (v : W32) (s : State) : WRes :=
  if (r = 0 ∨ r = 4) ∧ domClosed d s ∧ !free then .error Code.configRefused
  else if r = 0 then
    let s := forgetAhead d s
    .ok (setCaravan d { caravan d s with list := v.extractLsb' 0 16, land := v.extractLsb' 16 16 } s)
  else if r = 4 then putCvCfg d free v s
  else .ok s

def swTickKey : Nat := regKey Pg.caravan 0x070

def putCaravan (off : Nat) (v : W32) (s : State) : WRes :=
  let w := s.weights
  match cvGroup off with
  | some (d, r) => putCvGroup d r false v s
  | none =>
    match off with
    | 0x040 => .ok (setWeights { w with sel := v &&& 0x7F } s)
    | 0x044 => putWsCmd v [] s
    | 0x050 => .ok (setWeights { w with data0 := v } s)
    | 0x054 => .ok (setWeights { w with data1 := v } s)
    | 0x058 => .ok (setWeights { w with data2 := v } s)
    | 0x05C => .ok (setWeights { w with data3 := v } s)
    | 0x060 => .ok (setWeights { w with loadCv := v } s)
    | 0x064 => .ok (setWeights { w with loadLegs := v.extractLsb' 0 16 } s)
    | 0x068 => .ok (setWeights { w with swDomains := v.extractLsb' 0 16 } s)
    | 0x06C => .ok (setWeights { w with swGen := v } s)
    | 0x070 => .ok (holdLo swTickKey v s)
    | 0x074 => .ok (putPair swTickKey w.swTick v (fun t s => setWeights { s.weights with swTick := t } s) s)
    | 0x078 => putSwGo v s
    | _ => .ok s

/-- Whether a write changes an RWL field: EN, PREFETCH or NLEGS. -/
def rwlCaravan (off : Nat) (v : W32) (s : State) : Bool :=
  match cvGroup off with
  | some (d, 4) =>
    let c := caravan d s
    v.getLsbD 31 != c.en || v.getLsbD 30 != c.prefetch || v.extractLsb' 0 16 != c.nlegs
  | _ => false

/-- Legs of the open frame that have landed in full here. -/
def legsLanded (d : Nat) (s : State) : Nat :=
  let c := caravan d s
  if isOpen d s then
    (s.weights.legs.filter (fun x => x.key == d && x.f == (dom d s).num.toNat && x.done &&
      (legBerths c.land.toNat c.nlegs.toNat x.leg s).all (fun b => x.landed.contains b))).length
  else 0

def getCaravan (off : Nat) (s : State) : W32 × State :=
  let w := s.weights
  let slot := wsSlot (slotKey (selSet s) (selSlot s)) s
  match cvGroup off with
  | some (d, r) =>
    let c := caravan d s
    (match r with
    | 0 => c.land ++ c.list
    | 4 => w32 (b2n c.en * 2 ^ 31 + b2n c.prefetch * 2 ^ 30 + c.nlegs.toNat)
    | 8 => w16 (legsLanded d s) ++ c.legsSent
    | 12 => lastErr (Blk.cv d) s ++ (0 : W16)
    | _ => 0, s)
  | none =>
    match off with
    | 0x040 => (w.sel, s)
    | 0x048 => (lastErr cvPage s ++ w16 (b2n (w.cmds != [])), s)
    | 0x04C => (slot.legsOut ++ slot.legsFailed, s)
    | 0x050 => (w.data0, s)
    | 0x054 => (w.data1, s)
    | 0x058 => (w.data2, s)
    | 0x05C => (w.data3, s)
    | 0x060 => (w.loadCv, s)
    | 0x064 => (w.loadLegs.setWidth 32, s)
    | 0x068 => (w.swDomains.setWidth 32, s)
    | 0x06C => (w.swGen, s)
    | 0x070 => readLo swTickKey w.swTick s
    | 0x074 => readHi swTickKey w.swTick s
    | 0x07C => ((spUse s).setWidth 32, s)
    | _ => (0, s)

/-! ### The commands -/

/-- WS_READ (R241). -/
def execWsRead (r : Req) (s : State) : Outcome := awake s (.next (regWrite r cvPage false (putWsCmd 1 [] s) s))

/-- WS_LOAD (R219). -/
def execWsLoad (r : Req) (s : State) : Outcome := awake s (.next (regWrite r cvPage false (putWsCmd 2 [] s) s))

/-- WS_READY (R221). -/
def execWsReady (r : Req) (s : State) : Outcome := awake s (.next (regWrite r cvPage false (putWsCmd 3 [] s) s))

/-- WS_CLEAR (R221). -/
def execWsClear (r : Req) (s : State) : Outcome := awake s (.next (regWrite r cvPage false (putWsCmd 4 [] s) s))

/-- LOAD_GO (R238). -/
def execLoadGo (r : Req) (s : State) (reads : List (W16 × ReadEvent) := []) : Outcome :=
  awake s (.next (regWrite r cvPage false (putWsCmd 5 reads s) s))

/-- SW_GO (R224). -/
def execSwGo (r : Req) (v : W32) (s : State) : Outcome := awake s (.next (regWrite r cvPage false (putSwGo v s) s))

/-- CARAVAN_PREFETCH (R235). -/
def execCaravanPrefetch (d : DomIdx) (s : State) (reads : List (W16 × ReadEvent) := []) : Outcome :=
  awake s (.next (prefetchLegs d.toNat reads s))

/-- CV_TILE (R232). -/
def execCvTile (t : CvTag) (leg : W16) (tile : BitVec 8) (fmt : BitVec 4) (data : List Byte) (s : State)
    (port : PortIdx := 0) : Outcome :=
  awake s (.next (takeCvTile t leg.toNat tile.toNat fmt.toNat data port s))

/-- CV_LEGREQ (R237). -/
def execCvLegreq (src : W16) (t : CvTag) (leg : W16) (s : State) (x : ReadEvent := .clean) : Outcome :=
  let _ := src
  awake s (.next (takeLegreq t leg.toNat x s))

end Sys2Proof.Machine
end

