-- ==== Sys2Proof/Machine/Reduce.lean ====
section
/-! DEFINITION. Reductions on this device: items, combining, results, statistics and the REDUCE page (R253 to R262, R328,
R329). -/

namespace Sys2Proof.Machine
open Sys2Proof

/-! ### Elements and Q values (R185, R259, R329) -/

/-- The FP32 words of bytes. -/
def wordsOf (bs : List Byte) (n : Nat) : List Nat := (List.range n).map (fun i => leAt bs (4 * i) 4)

/-- rne(a + b) of FP32 words, the left child first. -/
def addW (a b : Nat) : Nat := (roundVal fp32 .rne (vAdd (decodeNum fp32 a) (decodeNum fp32 b))).1

def minW (a b : Nat) : Nat := (roundVal fp32 .rne (vMin (decodeNum fp32 a) (decodeNum fp32 b))).1
def maxW (a b : Nat) : Nat := (roundVal fp32 .rne (vMax (decodeNum fp32 a) (decodeNum fp32 b))).1

/-- Whether a word is an infinity or a NaN. -/
def nonfiniteW (a : Nat) : Bool := a / 2 ^ 23 % 256 == 255

/-- Adds two tiles element by element. -/
def addTiles (x y : List Byte) : List Byte :=
  ((wordsOf x 16384).zip (wordsOf y 16384)).flatMap (fun p => leBytes 4 (addW p.1 p.2))

def nonfiniteTile (x : List Byte) : Bool := (wordsOf x 16384).any nonfiniteW

/-- The squared norm of a run of tiles as a SUMSQ (R124, R259). -/
def sumSq (bs : List Byte) (ntiles : Nat) : W32 :=
  let n := 16384 * ntiles
  let sq (a : Nat) : Nat := (roundVal fp32 .rne (vMul (decodeNum fp32 a) (decodeNum fp32 a))).1
  w32 ((treeGo addW (treeDepth n) ((wordsOf bs n).map (fun a => some (sq a)))).getD 0)

/-! ### Items (R329) -/

/-- The item of a node from its children's. -/
def joinItems (a b : RedNode) : RedNode :=
  let d := addTiles a.data b.data
  { level := a.level + 1
    node := a.node / 2
    tile := a.tile
    nf := a.nf || b.nf || nonfiniteTile d
    qSum := if a.tile = 0 then w32 (addW a.qSum.toNat b.qSum.toNat) else 0
    qMin := if a.tile = 0 then w32 (minW a.qMin.toNat b.qMin.toNat) else 0
    qMax := if a.tile = 0 then w32 (maxW a.qMax.toNat b.qMax.toNat) else 0
    data := d }

def liftItem (a : RedNode) : RedNode := { a with level := a.level + 1, node := a.node / 2 }

/-- The items left under node `n` of level `l` once siblings have combined, by first leaf. A node whose right child covers
only leaves of `g` or more takes its left child's item; with `skip`, so does one whose other child has no item (R177). -/
def combine (g : Nat) (skip : Bool) (l n : Nat) (items : List RedNode) : List RedNode :=
  let here := items.filter (fun i => i.level ≤ l && i.node / 2 ^ (l - i.level) == n)
  match here with
  | [] => []
  | i :: r =>
    if i.level = l ∧ i.node = n then [i]
    else
      match l with
      | 0 => []
      | l + 1 =>
        let a := combine g skip l (2 * n) (i :: r)
        let b := combine g skip l (2 * n + 1) (i :: r)
        match a, b with
        | [x], [y] =>
          if x.level = l ∧ y.level = l then [joinItems x y] else [x, y]
        | [x], [] => if x.level = l ∧ (skip ∨ g ≤ (2 * n + 1) * 2 ^ l) then [liftItem x] else [x]
        | [], [y] => if skip ∧ y.level = l then [liftItem y] else [y]
        | a, b => a ++ b

/-- The device's own items of reduction `r` (R257): one for each entry and tile. -/
def ownItems (c r : Nat) (s : State) : List RedNode :=
  let x := redCtx c s
  let t := x.tableObj.toNat
  let h := redHead t r s
  (redEntries t h s).flatMap (fun e =>
    let a := e.berth * 0x10000000 + e.src
    let bytes := readPieces none (piecesOf a (65536 * h.ntiles)) s
    let q := sumSq bytes h.ntiles
    (List.range h.ntiles).map (fun k =>
      let d := (bytes.drop (65536 * k)).take 65536
      { level := 0
        node := e.leaf
        tile := k
        nf := x.marks.contains (e.berth, r) || nonfiniteTile d
        qSum := if k = 0 then q else 0
        qMin := if k = 0 then q else 0
        qMax := if k = 0 then q else 0
        data := d }))

/-- PARENT, NCHILD and RES_MC of a context (R314). -/
def ctxParent (c : Nat) (s : State) : W16 := w16 (fld (tget (activeBank s).ctx0 0 c) 16 16)
def ctxChildren (c : Nat) (s : State) : Nat := fld (tget (activeBank s).ctx0 0 c) 8 8
def ctxResMc (c : Nat) (s : State) : W16 := w16 (fld (tget (activeBank s).ctx1 0 c) 16 12)

/-- The kind header of RED_ITEM and RED_RESULT (R328). -/
def redHeader (t : FrameTag) (c r tile : Nat) (last : Bool) (level word16 : Nat) (q1 q2 q3 : W32) : List Byte :=
  tagBytes t ++ [BitVec.ofNat 8 c, BitVec.ofNat 8 (tile + 128 * b2n last)] ++ leBytes 2 r ++
    [BitVec.ofNat 8 level, 0] ++ leBytes 4 word16 ++ leBytes 4 q1.toNat ++ leBytes 4 q2.toNat ++ leBytes 4 q3.toNat

/-- Charges fabric payload to the open frame of a domain and its client's activity (R284 to R286). -/
def chargeFabric (d tx rx : Nat) (s : State) : State := charge (some d) (serveOf d s).client 0 0 tx rx s

/-- Sends items to the parent, item by item and tile by tile, LAST on the final one (R329 step 4). -/
def sendItems (c r : Nat) (items : List RedNode) (s : State) : State :=
  let d := (redCtx c s).dom.toNat
  let s := chargeFabric d (65536 * items.length) 0 s
  foldS items.zipIdx (fun p s =>
    let i := p.1
    let m : OutMsg :=
      { dst := ctxParent c s
        kind := 0x40
        nf := i.nf
        epoch := (member d s).epoch
        body := redHeader (runTag d s) c r i.tile (p.2 + 1 == items.length) i.level i.node i.qSum i.qMin i.qMax ++ i.data }
    sendFrame (runTag d s) m s) s |> checkDone d

/-- One RED_RESULT for each tile (R329 step 5). -/
def sendResults (c r : Nat) (items : List RedNode) (flag : Bool) (q : W32) (s : State) : State :=
  let d := (redCtx c s).dom.toNat
  let s := chargeFabric d (65536 * items.length) 0 s
  foldS items (fun i s =>
    let m : OutMsg :=
      { dst := ctxResMc c s
        mc := true
        kind := 0x41
        nf := flag
        epoch := (member d s).epoch
        body := redHeader (runTag d s) c r i.tile (i.tile + 1 == items.length) 0 (if i.tile = 0 then q.toNat else 0)
          i.qSum i.qMin i.qMax ++ i.data }
    sendFrame (runTag d s) m s) s

/-! ### Delivery (R257 to R259) -/

/-- CHECK of a step: the digest of tile 0 of the check reduction's root result (R369). -/
def noteCheck (c r tile : Nat) (data : List Byte) (s : State) : State :=
  let d := (redCtx c s).dom.toNat
  let x := surv d s
  if x.en && x.chkCtx.toNat == c && x.chkRed.toNat == r && tile == 0 then setSurv d { x with check := crc64 data } s else s

/-- Lands one tile of a result at each entry. -/
def landResult (c r tile : Nat) (data : List Byte) (s : State) : State :=
  let t := (redCtx c s).tableObj.toNat
  let s := noteCheck c r tile data s
  foldS (redEntries t (redHead t r s) s) (fun e s =>
    let a := e.rberth * 0x10000000 + e.dst + 65536 * tile
    if clearRange e.rberth e.dst (65536 * (redHead t r s).ntiles) s then landBytes (piecesOf a 65536) data s else s) s

/-- Whether a run of a context is of a FINAL reduction that has delivered (R254, R258). -/
def finalRun (k : RedCtx) (s : State) (x : RedRun) : Bool := x.delivered && (redHead k.tableObj.toNat x.red s).final

/-- The committed NF_STEP of the domain's contexts ORed with the own flags of the FINAL reductions delivered so far (R258;
log 19). -/
def finalFlags (d : Nat) (s : State) : Bool :=
  s.redctx.any (fun e => e.2.en && e.2.dom.toNat == d && (e.2.nfStep || e.2.runs.any (fun x => finalRun e.2 s x && x.flag)))

/-- The flag a reduction delivers (R258): its own; for a FINAL one ORed with `finalFlags`. -/
def deliveredFlag (c r : Nat) (own : Bool) (s : State) : Bool :=
  let x := redCtx c s
  if (redHead x.tableObj.toNat r s).final then own || finalFlags x.dom.toNat s else own

/-- Adds `n` to the result word of a berth and sets its bit 63 with the flag (R257). -/
def bumpResult (b n : Nat) (flag : Bool) (s : State) : State :=
  let a := resultWord (BitVec.ofNat 8 b)
  let v := leVal (s.mem.bytesFrom a 8)
  let top := if flag then 2 ^ 63 else v / 2 ^ 63 * 2 ^ 63
  putLast a (leBytes 8 (top + (v % 2 ^ 63 + n) % 2 ^ 63)) s

/-- The statistics record, a persistent write of the frame (R259). -/
def writeStats (c r : Nat) (x : RedRun) (flag : Bool) (s : State) : State :=
  let k := redCtx c s
  let d := k.dom.toNat
  let off := 32 * r
  let bs := leBytes 4 x.qsum.toNat ++ leBytes 4 x.qroot.toNat ++ leBytes 4 x.qmin.toNat ++ leBytes 4 x.qmax.toNat ++
    leBytes 8 (member d s).step.toNat ++ leBytes 4 (b2n flag) ++ leBytes 4 0
  match objExt k.statsObj.toNat (off / extBytes) s with
  | none => s
  | some e =>
    let ps := [(e, off % extBytes, 32)]
    match prepWrites d ps s with
    | (.ok, s) => landBytes ps bs s
    | (.wait, s) => delayWrites ps bs s
    | (.refused code, s) => report (Blk.rc c) code s
    | (.recalled, s) => s

/-- A flag that a FINAL reduction has just delivered is ORed into those of the FINAL reductions of the frame delivered
before it: into the result words and the statistics records (R258; log 19). -/
def flagFinals (d : Nat) (s : State) : State :=
  foldS (s.redctx.filter (fun e => e.2.en && e.2.dom.toNat == d)) (fun e s =>
    foldS (e.2.runs.filter (finalRun e.2 s)) (fun x s =>
      let t := e.2.tableObj.toNat
      let s := foldS (redEntries t (redHead t x.red s) s) (fun y s => bumpResult y.rberth 0 true s) s
      writeStats e.1 x.red x true s) s) s

/-- Reduction `r` has delivered its result here. -/
def deliverRed (c r : Nat) (own : Bool) (s : State) : State :=
  let k := redCtx c s
  let t := k.tableObj.toNat
  let flag := deliveredFlag c r own s
  let s := if own ∧ (redHead t r s).final then flagFinals k.dom.toNat s else s
  let es := redEntries t (redHead t r s) s
  let s := foldS es (fun e s => bumpResult e.rberth 1 flag s) s
  let s := setRedRun c { redRun c r s with delivered := true, flag := own } s
  let s := modRedCtx c (fun y => { y with delivered := y.delivered + 1 }) s
  let s := writeStats c r (redRun c r s) flag s
  checkDone k.dom.toNat s

/-! ### Sending (R257, R329) -/

/-- Combines and sends once every child has sent its last item; the root delivers (R329 steps 3 to 5). -/
def finishRed (c r : Nat) (s : State) : State :=
  let k := redCtx c s
  let x := redRun c r s
  let h := redHead k.tableObj.toNat r s
  if x.bad || x.sent || (!x.own && h.ncon != 0) || x.lasts < ctxChildren c s then s
  else
    let g := k.g.toNat
    let root := ctxParent c s == 0xFFFF
    let tile (t : Nat) : List RedNode := combine g root (treeDepth g) 0 (x.items.filter (·.tile == t))
    let items := (List.range h.ntiles).flatMap tile
    let s := modRedCtx c (fun y => { y with sent := y.sent + 1 }) s
    if !root then
      let order := items.filter (·.tile == 0)
      let all := order.flatMap (fun i => items.filter (fun j => j.level == i.level && j.node == i.node))
      sendItems c r all (setRedRun c { x with sent := true, items := [] } s)
    else
      let flag := items.any (·.nf)
      let q := sumSq (items.flatMap (·.data)) h.ntiles
      let first := items.head?
      let x := { x with
        sent := true
        items := []
        qsum := (first.map (·.qSum)).getD 0
        qmin := (first.map (·.qMin)).getD 0
        qmax := (first.map (·.qMax)).getD 0
        qroot := q
        tilesIn := List.range h.ntiles }
      let s := sendResults c r items flag q (setRedRun c x s)
      let s := foldS items (fun i s => landResult c r i.tile i.data s) s
      deliverRed c r flag s

/-- What the slice of berth `b` reports while a contribution in it is read (R66, R257): whether its data comes. -/
def ownEvent (c r : Nat) (b : BerthIdx) (e : ReadEvent) (s : State) : Bool × State :=
  let t := (redCtx c s).tableObj.toNat
  match (redEntries t (redHead t r s) s).find? (fun y => y.berth == b.toNat) with
  | some y => sliceEvent b (Blk.rc c) (sliceBase b + y.src) e s
  | none => (true, s)

/-- REDUCTION_SEND (R257): every berth named in the entries has a count above `r`. A contribution that cannot be read is never
sent, so the reduction does not take place here and the frame overruns (R66). -/
def sendReduction (c r : Nat) (b : BerthIdx) (e : ReadEvent) (s : State) : State :=
  let k := redCtx c s
  let t := k.tableObj.toNat
  let x := redRun c r s
  let posted := (redEntries t (redHead t r s) s).all (fun e => r < tget k.counts 0 e.berth)
  if !k.en || !isOpen k.dom.toNat s || nred t s ≤ r || x.own || x.bad || !posted then s
  else
    let s := if x.checked then s else checkReds c r 1 s
    let x := redRun c r s
    if x.bad then s
    else
      match ownEvent c r b e s with
      | (true, s) => finishRed c r (setRedRun c { x with own := true, items := x.items ++ ownItems c r s } s)
      | (false, s) => setRedRun c { x with bad := true } s

/-- Whether the node of an item lies in the tree over `g` leaves: it covers a leaf below `g`, and its level is at most the
root's (R177, R328). A message carries no G: an item outside the tree is one whose G does not match (R329). -/
def inTree (g level node : Nat) : Bool := level ≤ treeDepth g && node * 2 ^ level < g

/-- The context of a message is enabled for its domain, an item's node is one of its tree, and the run it names is open
(R233, R263, R329). -/
def redAccept (item : Bool) (m : RedMsg) (s : State) : Bool × State :=
  let d := m.tag.dom.toNat
  let c := m.ctx.toNat
  match epochOk d m.epoch s with
  | (false, s) => (false, s)
  | (true, s) =>
    let k := redCtx c s
    if !k.en || k.dom.toNat != d || (item && !inTree k.g.toNat m.level.toNat (fld m.word16 0 20)) then (false, report (Blk.rc c) Code.redOrphan s)
    else (!m.tag.noFrame && tagLive m.tag s, s)

/-- RED_ITEM (R329). -/
def takeRedItem (m : RedMsg) (s : State) : State :=
  match redAccept true m s with
  | (false, s) => s
  | (true, s) =>
    let c := m.ctx.toNat
    let r := m.r.toNat
    let x := redRun c r s
    if x.sent then s
    else
      let i : RedNode :=
        { level := m.level.toNat
          node := fld m.word16 0 20
          tile := m.tile.toNat
          nf := m.nf
          qSum := m.qSum
          qMin := m.qMin
          qMax := m.qMax
          data := m.data }
      let s := setRedRun c { x with items := x.items ++ [i], lasts := x.lasts + b2n m.last } s
      let s := chargeFabric m.tag.dom.toNat 0 m.data.length s
      finishRed c r s

/-- RED_RESULT (R257). It reaches every member with its flag, one without an entry of its own too (R185). -/
def takeRedResult (m : RedMsg) (s : State) : State :=
  match redAccept false m s with
  | (false, s) => s
  | (true, s) =>
    let c := m.ctx.toNat
    let r := m.r.toNat
    let t := m.tile.toNat
    let x := redRun c r s
    let h := redHead (redCtx c s).tableObj.toNat r s
    if x.delivered || x.bad || h.ntiles ≤ t || x.tilesIn.contains t then s
    else
      let x := { x with tilesIn := x.tilesIn ++ [t] }
      let x := if t = 0 then { x with qsum := m.qSum, qmin := m.qMin, qmax := m.qMax, qroot := m.word16 } else x
      let s := chargeFabric m.tag.dom.toNat 0 m.data.length (landResult c r t m.data (setRedRun c x s))
      if x.tilesIn.length = h.ntiles then deliverRed c r m.nf s else s

/-! ### Frames (R256, R258, R261) -/

/-- The contexts enabled for a domain. -/
def domCtxs (d : Nat) (s : State) : List Nat :=
  (s.redctx.filter (fun e => e.2.en && e.2.dom.toNat == d)).map (·.1)

/-- A frame opens: counts and reductions start anew. -/
def openReductions (d : Nat) (s : State) : State := dropReductions d s

/-- Whether a reduction of the open frame, FINAL or not, has delivered its flag set. -/
def otherFlags (d : Nat) (s : State) : Bool :=
  (domCtxs d s).any (fun c => (redCtx c s).runs.any (fun x => x.delivered && x.flag))

/-- Whether the open frame delivered a FINAL reduction, and whether the step's flag skips it: it counts every reduction of the
step, those of this frame that are not FINAL among them (R44, R185, R258; log 19). -/
def finalOutcome (d : Nat) (s : State) : Bool × Bool :=
  let final := (domCtxs d s).any (fun c => (redCtx c s).runs.any (finalRun (redCtx c s) s))
  (final, final && (finalFlags d s || otherFlags d s))

/-- NF_STEP at rank 4 of a commit (R258). -/
def commitReductions (d : Nat) (s : State) : State :=
  let final := (finalOutcome d s).1
  foldS (domCtxs d s) (fun c s =>
    modRedCtx c (fun y => { y with
      nfStep := if final then false else y.nfStep || y.runs.any (fun x => x.delivered && x.flag)
      runs := [], counts := [], marks := [], delivered := 0, sent := 0 }) s) s

/-- Adds 1 to STEP, and to SKIPS with NONFINITE_SKIP, in the committed version of the step-control object (R261). -/
def bumpStep (d : Nat) (skip : Bool) (s : State) : State :=
  let o := (member d s).stepObj
  if o = 0xFFFF then s
  else
    let s := objPut o.toNat 0 (leBytes 8 (objNum o.toNat 0 8 none s + 1)) s
    if skip then objPut o.toNat 40 (leBytes 8 (objNum o.toNat 40 8 none s + 1)) s else s

/-- Whether nothing has written STEP of an object since its extent was registered. -/
def stepUnset (o : Nat) (s : State) : Bool :=
  match objExt o 0 s with
  | some x => (List.range 8).all (fun i => (unkAt s.mem.unk ((ext x s).phys.toNat * extBytes + i)).isSome)
  | none => false

/-- The step counter of a job starts at 0: the spec names no event that sets it, so a STEP that nothing has written since
the step-control object was registered becomes 0 when the domain first opens a frame with it (R173; DESIGN CHOICE, log 41). -/
def startStep (d : Nat) (s : State) : State :=
  let o := (member d s).stepObj
  if o ≠ 0xFFFF ∧ stepUnset o.toNat s then objPut o.toNat 0 (leBytes 8 0) s else s

/-- STEP and the run mode word as committed at an opening tick (R261). -/
def readStep (d : Nat) (s : State) : State :=
  let s := startStep d s
  let o := (member d s).stepObj
  if o = 0xFFFF then modMember d (fun m => { m with step := 0, mode := 0 }) s
  else
    let step := objNum o.toNat 0 8 none s
    let mode := w64 (objNum o.toNat 8 8 none s)
    modMember d (fun m => { m with
      step := w64 step, mode := if step < objNum o.toNat 16 8 none s then mode ||| 1 else mode }) s

/-! ### The REDUCE page (R253, R269, R418) -/

def busyState (d : Nat) (s : State) : Bool := isOpen d s || (dom d s).st == .recalling

/-- GD × GS of the map in effect of a domain, 0 for none (R269). -/
def leafCount (d : Nat) (s : State) : Nat :=
  let m := member d s
  if m.st = .none then 0 else (mapCounts m.map.toNat s).gd * (mapCounts m.map.toNat s).gs

/-- The context and the register at an offset. -/
def redGroup (off : Nat) : Option (Nat × Nat) :=
  if 0x100 ≤ off ∧ off < 0x500 then some ((off - 0x100) / 16, off % 16) else none

def blkReduce (off : Nat) : Blk :=
  match redGroup off with
  | some (c, _) => Blk.rc c
  | none => ⟨Pg.reduce, 0⟩

/-- The code a client's write to a context's registers is refused with for ownership (R253, R418). -/
def ctxClaim (c : Nat) (client : BitVec 8) (s : State) : Option W16 :=
  match (ledgerEntry (0x40 + c) s).owner with
  | none => some Code.rcUnclaimed
  | some o => if o = client then none else some Code.claimDenied

def putReduceGroup (client : BitVec 8) (free : Bool) (off : Nat) (v : W32) (s : State) : WRes :=
  match redGroup off with
  | none => .ok s
  | some (c, r) =>
    match ctxClaim c client s with
    | some e => .error e
    | none =>
      if r ≠ 0 ∧ r ≠ 4 then .ok s
      else
        let x := redCtx c s
        if busyState x.dom.toNat s && !free then .error Code.configRefused
        else if r = 4 then
          .ok (setRedCtx c { x with tableObj := v.extractLsb' 0 16, statsObj := v.extractLsb' 16 16 } s)
        else if v.getLsbD 31 && (fld v 0 20 == 0 || fld v 0 20 != leafCount (fld v 20 4) s) then .error Code.mapBad
        else .ok (setRedCtx c { x with en := v.getLsbD 31, dom := v.extractLsb' 20 4, g := v.extractLsb' 0 20 } s)

def putReduce (client : BitVec 8) (off : Nat) (v : W32) (s : State) : WRes := putReduceGroup client false off v s

def cfgWord (x : RedCtx) : W32 := w32 (b2n x.en * 2 ^ 31 + x.dom.toNat * 2 ^ 20 + x.g.toNat)

def rwlReduce (off : Nat) (v : W32) (s : State) : Bool :=
  match redGroup off with
  | some (c, 0) => v &&& 0x80FFFFFF != cfgWord (redCtx c s)
  | _ => false

def getReduce (off : Nat) (s : State) : W32 :=
  match redGroup off with
  | none => 0
  | some (c, r) =>
    let x := redCtx c s
    match r with
    | 0 => cfgWord x
    | 4 => x.statsObj ++ x.tableObj
    | 8 => x.delivered ++ x.sent
    | 12 => lastErr (Blk.rc c) s ++ w16 (2 * b2n x.nfStep + b2n (x.runs.any (fun y => y.sent && !y.delivered)))
    | _ => 0

/-! ### The commands -/

/-- REDUCTION_SEND (R257). -/
def execReductionSend (ctx : BitVec 6) (red : W16) (s : State) (b : BerthIdx := 0) (e : ReadEvent := .clean) : Outcome :=
  awake s (.next (sendReduction ctx.toNat red.toNat b e s))

/-- RED_ITEM (R329). -/
def execRedItem (m : RedMsg) (s : State) : Outcome := awake s (.next (takeRedItem m s))

/-- RED_RESULT (R257). -/
def execRedResult (m : RedMsg) (s : State) : Outcome := awake s (.next (takeRedResult m s))

end Sys2Proof.Machine
end

