-- ==== Sys2Proof/Machine/Member.lean ====
section
/-! DEFINITION. Membership epochs, re-mooring and shard moves, and the MEMBER page (R248, R249, R263 to R268). -/

namespace Sys2Proof.Machine
open Sys2Proof

def MState.code (m : MState) : Nat :=
  match m with
  | .none => 0
  | .run => 1
  | .drainArmed => 2
  | .draining => 3
  | .drained => 4
  | .activated => 5

/-! ### Activation (R249, R264 step 5) -/

def MapCounts.size (c : MapCounts) : Nat := c.gd * c.gt * c.gp * c.gs * c.ge

/-- Whether a map passes the checks of R249. -/
def mapOk (d m : Nat) (s : State) : Bool :=
  let o := obj m s
  let c := mapCounts m s
  let x := member d s
  o.valid && o.writer == 0x10 && c.size != 0 && c.size ≤ 1048575 &&
    (x.st == .none || c == mapCounts x.map.toNat s) &&
    (List.range c.size).all (fun g => mapDev m g s != 0xFFFF)

/-- ACTIVATE takes effect; the new map clears LOST and EXPOSED (R249, R264, R384). -/
def activate (d : Nat) (s : State) : State :=
  let x := member d s
  let s := setMember d { x with actPending := false } s
  if mapOk d x.nextMap.toNat s then
    modSurv d (fun v => { v with lost := [], exposed := false, adopted := [] })
      (setMember d { x with actPending := false, epoch := x.epoch + 1, map := x.nextMap, st := .activated } s)
  else report (Blk.mb d) Code.mapBad s

/-- Rank 3: activations whose tick has come; one whose tick has passed is late (R30). -/
def activations (s : State) : State :=
  foldS (List.range 16) (fun d s =>
    let x := member d s
    if !x.actPending || now s < x.act.toNat then s
    else if x.act.toNat = now s then activate d s
    else
      recallLater [d] Code.eventLate (report (Blk.mb d) Code.eventLate (setMember d { x with actPending := false } s))) s

/-- Whether a flit of a reduction of the domain's epoch waits in a port or in its replay buffer (R264 step 3, R298). -/
def redInPorts (d : Nat) (s : State) : Bool :=
  let mine (f : TxFlit) : Bool := f.red == some (d, (member d s).epoch)
  s.ports.any (fun p => p.2.waiting.any mine || p.2.unacked.any mine)

/-- DRAIN_COMPLETE (R264 step 3). -/
def drainComplete (d : Nat) (s : State) : State :=
  if (member d s).st = .draining ∧ !redInFlight d s ∧ !redInPorts d s then
    modMember d (fun m => { m with st := .drained }) s
  else s

/-- A shard move has ended: what it has read goes to the owners of the objects moved, and what it has sent to the client of
the domain (R284, R285). -/
def chargeShard (x : ShardMove) (s : State) : State :=
  charge none (serveOf x.dom.toNat s).client 0 0 x.tx 0
    (foldS x.lpx (fun e s => chargeLpx (BitVec.ofNat 8 e.1) e.2 s) s)

/-- A request as it stands once the moves `l` of domain `d` are abandoned (R264). -/
def OutReq.abandon (d : Nat) (l : List ShardMove) (r : OutReq) : OutReq :=
  match r.what with
  | .shard t x => if l.any (fun m => m.tag == t && m.dev == r.dev && m.dst + m.done == x) then { r with what := .gone d } else r
  | _ => r

/-- Ends shard moves of a domain with a code (R264). Their requests no longer belong to a move: an acknowledgement that comes
has the old epoch, and one that does not come fails no later move (R263, R265). -/
def endShards (d : Nat) (c : W16) (s : State) : State :=
  let l := s.members.moves.filter (fun x => x.dom.toNat == d && !x.ended)
  let s := foldS l chargeShard s
  let s := { s with reqs := s.reqs.map (OutReq.abandon d l) }
  let m := s.members
  { s with members := { m with moves := m.moves.map (fun x =>
      if x.dom.toNat = d ∧ !x.ended then { x with failed := some c, ended := true } else x) } }

/-- A membership change by recovery (R264): it cancels a re-mooring before its activation, and it abandons every
unfinished shard move of the domain, also once the domain is RUN. -/
def cancelRemoor (d : Nat) (s : State) : State :=
  let x := member d s
  let s := endShards d Code.moveAbandoned s
  setMember d { x with st := if x.st = .none then .none else .run, nextMap := 0, actPending := false } s

/-! ### Shard moves (R265) -/

def setMembers (m : MemberBlk) (s : State) : State := { s with members := m }

/-- Whether a submitted move may run: its domain is ACTIVATED, its source extents belong to objects that the domain
writes. -/
def shardOk (x : ShardMove) (s : State) : Bool :=
  (member x.dom.toNat s).st == .activated &&
    (List.range x.count).all (fun i =>
      let e := ext (x.src + i) s
      x.src + i ≤ lastExt && e.kind == .object && e.st != .moved && (obj e.obj.toNat s).valid &&
        (obj e.obj.toNat s).writer.toNat == x.dom.toNat)

/-- The byte count of one SHARD_DATA piece. -/
def shardPiece : Nat := 65536

/-- The kind header of SHARD_DATA. -/
def shardHeader (d x off : Nat) (last : Bool) (digest : W64) : List Byte :=
  leBytes 2 d ++ [0, 0] ++ leBytes 4 x ++ leBytes 4 off ++ [BitVec.ofNat 8 (b2n last), 0, 0, 0] ++
    leBytes 8 (if last then digest.toNat else 0)

def setShard (x y : ShardMove) (s : State) : State :=
  setMembers { s.members with moves := s.members.moves.map (fun z => if z = x then y else z) } s

/-- The move with the bytes that sending extent `i` of this device once reads and sends (R284). -/
def ShardMove.sentExt (x : ShardMove) (i : Nat) (owner : BitVec 8) : ShardMove := { x with
  tx := x.tx + extBytes
  lpx := if 65536 ≤ i then tset x.lpx 0 owner.toNat (tget x.lpx 0 owner.toNat + extBytes) else x.lpx }

/-- Sends the committed version of one extent of a move. -/
def sendShard (x : ShardMove) (s : State) : State :=
  let d := x.dom.toNat
  let e := ext (x.src + x.done) s
  let s := setShard x (x.sentExt (x.src + x.done) (obj e.obj.toNat s).owner) s
  let tag := newTag s
  let bytes := s.mem.bytesFrom (e.phys.toNat * extBytes) extBytes
  let digest := crc64 bytes
  let s := { s with reqs := s.reqs ++ [⟨tag, x.dev, .shard x.tag (x.dst + x.done)⟩] }
  foldS (List.range 16) (fun i s =>
    send { dst := x.dev
           kind := 0x14
           tag := tag
           epoch := (member d s).epoch
           body := shardHeader d (x.dst + x.done) (shardPiece * i) (i == 15) digest ++
             (bytes.drop (shardPiece * i)).take shardPiece } s) s

/-- Starts or goes on with a move: its next extent is sent; a source that may not be read fails it, and so does a domain
that is no longer ACTIVATED, since a move copies only while it is (R265; the code is the model's choice, log 20). -/
def nextShard (x : ShardMove) (s : State) : State :=
  if x.count ≤ x.done ∨ x.failed.isSome then s
  else
    let e := ext (x.src + x.done) s
    if (member x.dom.toNat s).st ≠ .activated ∨ e.st = .poisoned ∨ e.st = .rebuilding ∨ e.kind ≠ .object then
      setShard x { x with failed := some Code.shardMoveFail } s
    else sendShard x s

/-- Rank 8: moves submitted since the last base tick start; a refused one has ended. -/
def startShards (s : State) : State :=
  foldS (s.members.moves.filter (fun x => !x.started)) (fun x s =>
    let y := { x with started := true }
    let s := setShard x y s
    if x.failed.isSome then s else nextShard y s) s

/-- Results of ended moves are posted (R265). -/
def postShards (s : State) : State :=
  let m := s.members
  let done := m.moves.filter (·.ended)
  if done = [] then s
  else
    raise Pg.member 0 (setMembers { m with
      moves := m.moves.filter (fun x => !x.ended)
      results := m.results ++ done.map (fun x => (x.tag, x.failed.getD 0)) } s)

/-- SHARD_MOVE_COMPLETE: a move whose extents are all acknowledged, or that has failed, ends (R265). -/
def shardComplete (tag : W16) (s : State) : State :=
  match s.members.moves.find? (fun x => x.tag == tag && x.started && !x.ended &&
      (x.count ≤ x.done || x.failed.isSome)) with
  | some x => chargeShard x (setShard x { x with ended := true } s)
  | none => s

/-- The move that a request tag belongs to. -/
def shardOf (tag : BitVec 14) (src : W16) (s : State) : Option (OutReq × ShardMove) :=
  match findReq tag src s with
  | some r =>
    (match r.what with
    | .shard t x => (s.members.moves.find? (fun m => m.tag == t && m.dev == src && m.started && !m.ended &&
        m.dst + m.done == x)).map (fun m => (r, m))
    | _ => none)
  | none => none

/-- The request of an abandoned move that a tag belongs to, with the move's domain (R264). -/
def goneReq (tag : BitVec 14) (src : W16) (s : State) : Option (OutReq × Nat) :=
  match findReq tag src s with
  | some r =>
    (match r.what with
    | .gone d => some (r, d)
    | _ => none)
  | none => none

/-- SHARD_ACK at the sender (R265); that of an abandoned move is judged by its epoch alone (R263). -/
def takeShardAck (src : W16) (tag : BitVec 14) (epoch : W32) (status : W16) (x : Nat) (s : State) : State :=
  match shardOf tag src s with
  | none =>
    match goneReq tag src s with
    | some (r, d) => (epochOk d epoch (dropReq r s)).2
    | none => hostReply tag { rawResp src 0x15 tag (leBytes 2 status.toNat ++ [0, 0] ++ leBytes 4 x) s with epoch := epoch } s
  | some (r, m) =>
    match epochOk m.dom.toNat epoch s with
    | (false, s) => s
    | (true, s) =>
      if m.dst + m.done ≠ x then s
      else
        let s := dropReq r s
        if status = 0 then
          let y := { m with done := m.done + 1, retried := false }
          nextShard y (setShard m y s)
        else if status = Code.digestMismatch ∧ !m.retried then
          let y := { m with retried := true }
          nextShard y (setShard m y s)
        else setShard m { m with failed := some Code.shardMoveFail } s

/-- Where the acknowledgement of an extent of a shard move goes: the sender, its tag, and for path-routed bytes the ports
back (R321). -/
structure ShardFrom where
  src : W16
  tag : BitVec 14
  back : Option (List (BitVec 5))

/-- The acknowledgement of an extent of a shard move. -/
def sendShardAck (w : ShardFrom) (d x : Nat) (status : W16) (s : State) : State :=
  send { dst := w.src
         kind := 0x15
         h := w.back.isSome
         tag := w.tag
         path := w.back.map pathBack
         epoch := (member d s).epoch
         body := leBytes 2 status.toNat ++ [0, 0] ++ leBytes 4 x } s

/-- Whether this device takes shard bytes for extent `x` from domain `d`. -/
def shardTarget (d x : Nat) (s : State) : Bool :=
  let e := ext x s
  (member d s).st == .activated && x ≤ lastExt && e.kind == .object && e.st != .moved &&
    (obj e.obj.toNat s).valid && (obj e.obj.toNat s).writer.toNat == d

/-- The last piece of an extent has come: its digest decides (R265, R337). -/
def judgeShard (w : ShardFrom) (d x : Nat) (digest : W64) (s : State) : State :=
  let e := ext x s
  let at_ : FaultAt := { page := Pg.member, src := w.src, addr := extAddr x, dom := some d, port := lastPort w.src s }
  let again := s.members.shardIn.any (fun i => i.ext == x && i.src == w.src)
  let s := setMembers { s.members with shardIn := s.members.shardIn.filter (fun i => !(i.ext == x && i.src == w.src)) } s
  let s := if 65536 ≤ x then chargeLpx (obj e.obj.toNat s).owner extBytes s else s
  let s := charge none (serveOf d s).client 0 0 0 extBytes s
  if crc64 (s.mem.bytesFrom (e.phys.toNat * extBytes) extBytes) = digest then
    sendShardAck w d x 0 (if again then transientFault Code.digestMismatch at_ s else s)
  else if again then
    sendShardAck w d x Code.digestMismatch
      (lastingFault Code.digestMismatch 0 at_ (report (Blk.mb d) Code.digestMismatch s))
  else
    sendShardAck w d x Code.digestMismatch
      (setMembers { s.members with shardIn := s.members.shardIn ++ [{ ext := x, src := w.src }] } s)

/-- SHARD_DATA at the target (R265). -/
def takeShardData (w : ShardFrom) (d : Nat) (epoch : W32) (x off : Nat) (last : Bool) (digest : W64)
    (data : List Byte) (s : State) : State :=
  match epochOk d epoch s with
  | (false, s) => s
  | (true, s) =>
    if !shardTarget d x s || extBytes < off + data.length then
      if last then sendShardAck w d x Code.shardMoveFail s else s
    else
      let s := ownVersion x [] s
      let s := markStale x (setMem (s.mem.setBytes ((ext x s).phys.toNat * extBytes + off) data) s)
      if last then judgeShard w d x digest s else s

/-! ### The MEMBER page (R268) -/

/-- A write of SM_GO. -/
def putSmGo (v : W32) (s : State) : WRes :=
  let n := fld v 0 12
  if n = 0 then .error Code.shardMoveFail
  else
    let m := s.members
    let x : ShardMove :=
      { tag := v.extractLsb' 16 16
        dom := v.extractLsb' 12 4
        src := m.src.toNat
        dst := m.dst.toNat
        dev := m.dev
        count := n }
    let x := if shardOk x s then x else { x with failed := some Code.shardMoveFail, ended := true, started := true }
    .ok (setMembers { m with moves := m.moves ++ [x] } s)

/-- A write of MB_CTRL (R264). -/
def putMbCtrl (d : Nat) (v : W32) (s : State) : WRes :=
  let x := member d s
  let drain := v.getLsbD 0
  let act := v.getLsbD 1
  if drain && (x.st != .run || x.drain.toNat < (dom d s).num.toNat) then .error Code.remoorRefused
  else if act && ((x.st != .drained && x.st != .none) || x.act.toNat < now s + 2) then .error Code.remoorRefused
  else .ok (setMember d { x with st := if drain then .drainArmed else x.st, actPending := x.actPending || act } s)

/-- A read of SM_RES removes the oldest result. -/
def readSmRes (s : State) : W32 × State :=
  match s.members.results with
  | (t, c) :: r => (t ++ c, setMembers { s.members with results := r } s)
  | [] => (0, s)

/-- The domain and the register of an offset: MB_STEPOBJ as register 0x20. -/
def memberGroup (off : Nat) : Option (Nat × Nat) :=
  if 0x100 ≤ off ∧ off < 0x300 then some ((off - 0x100) / 32, off % 32)
  else if 0x300 ≤ off ∧ off < 0x340 then some ((off - 0x300) / 4, 0x20)
  else none

def blkMember (off : Nat) : Blk :=
  match memberGroup off with
  | some (d, _) => Blk.mb d
  | none => ⟨Pg.member, 0⟩

def drainKey (d : Nat) : Nat := regKey Pg.member (0x108 + 32 * d)
def actKey (d : Nat) : Nat := regKey Pg.member (0x110 + 32 * d)

/-- Whether NEXT_MAP and MB_DRAIN are closed (R268). -/
def remoorClosed (d : Nat) (s : State) : Bool :=
  let st := (member d s).st
  st == .drainArmed || st == .draining || st == .activated

def putMemberGroup (d r : Nat) (v : W32) (s : State) : WRes :=
  let x := member d s
  if (r = 4 ∨ r = 8 ∨ r = 12) ∧ remoorClosed d s then .error Code.configRefused
  else if (r = 16 ∨ r = 20 ∨ r = 32) ∧ busyState d s then .error Code.configRefused
  else
    match r with
    | 4 => .ok (setMember d { x with nextMap := v.extractLsb' 16 16 } s)
    | 8 => .ok (holdLo (drainKey d) v s)
    | 12 => .ok (putPair (drainKey d) x.drain v (fun t => modMember d (fun x => { x with drain := t })) s)
    | 16 => .ok (holdLo (actKey d) v s)
    | 20 => .ok (putPair (actKey d) x.act v (fun t => modMember d (fun x => { x with act := t })) s)
    | 28 => putMbCtrl d v s
    | 32 => .ok (setMember d { x with stepObj := v.extractLsb' 0 16 } s)
    | _ => .ok s

def putMember (off : Nat) (v : W32) (s : State) : WRes :=
  let m := s.members
  match memberGroup off with
  | some (d, r) => putMemberGroup d r v s
  | none =>
    match off with
    | 0x040 => .ok (setMembers { m with src := v.extractLsb' 0 21 } s)
    | 0x044 => .ok (setMembers { m with dst := v.extractLsb' 0 21 } s)
    | 0x048 => .ok (setMembers { m with dev := v.extractLsb' 0 16 } s)
    | 0x04C => putSmGo v s
    | _ => .ok s

def getMember (off : Nat) (s : State) : W32 × State :=
  let m := s.members
  match memberGroup off with
  | some (d, r) =>
    let x := member d s
    (match r with
    | 0 => (x.epoch, s)
    | 4 => (x.nextMap ++ x.map, s)
    | 8 => readLo (drainKey d) x.drain s
    | 12 => readHi (drainKey d) x.drain s
    | 16 => readLo (actKey d) x.act s
    | 20 => readHi (actKey d) x.act s
    | 24 => (lastErr (Blk.mb d) s ++ w16 x.st.code, s)
    | 32 => (x.stepObj.setWidth 32, s)
    | _ => (0, s))
  | none =>
    match off with
    | 0x040 => (m.src.setWidth 32, s)
    | 0x044 => (m.dst.setWidth 32, s)
    | 0x048 => (m.dev.setWidth 32, s)
    | 0x050 => readSmRes s
    | 0x054 => (w32 (min 64 m.results.length), s)
    | _ => (0, s)

/-! ### The commands -/

/-- MB_DRAIN (R264). -/
def execMbDrain (r : Req) (d : DomIdx) (s : State) : Outcome :=
  awake s (.next (regWrite r (Blk.mb d.toNat) false (putMbCtrl d.toNat 1 s) s))

/-- DRAIN_COMPLETE (R264). -/
def execDrainComplete (d : DomIdx) (s : State) : Outcome := awake s (.next (drainComplete d.toNat s))

/-- MB_ACTIVATE (R264). -/
def execMbActivate (r : Req) (d : DomIdx) (s : State) : Outcome :=
  awake s (.next (regWrite r (Blk.mb d.toNat) false (putMbCtrl d.toNat 2 s) s))

/-- SM_GO (R265). -/
def execSmGo (r : Req) (v : W32) (s : State) : Outcome :=
  awake s (.next (regWrite r ⟨Pg.member, 0⟩ false (putSmGo v s) s))

/-- SHARD_DATA (R265). -/
def execShardData (src : W16) (tag : BitVec 14) (d : DomIdx) (epoch : W32) (x : BitVec 21) (off : W32) (last : Bool)
    (digest : W64) (data : List Byte) (s : State) (back : Option (List (BitVec 5)) := none) (port : PortIdx := 0) :
    Outcome :=
  awake s (.next (takeShardData ⟨src, tag, back⟩ d.toNat epoch x.toNat off.toNat last digest data
    (noteArrival src port.val s)))

/-- SHARD_ACK (R265). -/
def execShardAck (src : W16) (tag : BitVec 14) (epoch : W32) (status : W16) (x : BitVec 21) (s : State) : Outcome :=
  awake s (.next (takeShardAck src tag epoch status x.toNat s))

/-- SHARD_MOVE_COMPLETE (R265). -/
def execShardMoveComplete (tag : W16) (s : State) : Outcome := awake s (.next (shardComplete tag s))

/-- SM_RES_READ (R268). -/
def execSmResRead (r : Req) (s : State) : Outcome := awake s (.next (regRead r readSmRes s))

end Sys2Proof.Machine
end

