-- ==== Sys2Proof/Machine/Route.lean ====
section
/-! DEFINITION. Routing of messages, the host bridge and the ROUTE and HOSTBR pages (R312 to R325, R332 to R336). -/

namespace Sys2Proof.Machine
open Sys2Proof

def rtBlk : Blk := ⟨Pg.route, 0⟩

/-! ### Classes and checks (R322, R323, R326, R343, R380) -/

/-- The class of a kind; none for a reserved one. -/
def kindClass (k : Nat) : Option (BitVec 3) :=
  if k = 0x50 then some 0
  else if k = 0x51 ∨ k = 0x52 then some 1
  else if k = 0x01 ∨ k = 0x02 ∨ k = 0x03 ∨ k = 0x60 ∨ k = 0x70 then some 2
  else if k = 0x12 ∨ k = 0x13 ∨ k = 0x15 then some 3
  else if k = 0x40 ∨ k = 0x41 then some 4
  else if k = 0x30 ∨ k = 0x31 then some 5
  else if k = 0x20 ∨ k = 0x21 then some 6
  else if k = 0x10 ∨ k = 0x11 ∨ k = 0x14 ∨ (0x90 ≤ k ∧ k ≤ 0x9A) ∨ k = 0xA0 ∨ k = 0xA1 then some 7
  else none

def classOf (m : RawMsg) : BitVec 3 := (kindClass m.kind.toNat).getD 0

/-- A message that is dropped with MSG_BAD wherever it arrives (R322). -/
def msgBad (m : RawMsg) : Bool :=
  (kindClass m.kind.toNat).isNone || m.resv != 0 || m.path.any (·.resv != 0) || !m.lenOk

/-- The reserved values of SUBTYPE and ETYPE, which the destination finds (R326). -/
def subtypeBad (m : RawMsg) : Bool :=
  (m.kind == 0x52 && !(leAt m.body 8 1 == 1 || leAt m.body 8 1 == 2)) ||
    (m.kind == 0x60 && !(leAt m.body 0 1 == 1 || leAt m.body 0 1 == 2))

def dropMsg (c : W16) (s : State) : State :=
  report rtBlk c { s with route := { s.route with drop := satInc s.route.drop } }

/-! ### Forwarding (R316 to R321) -/

/-- The frame's message of this device that a message of its own units is (R37). -/
def frameMsg (m : RawMsg) (s : State) : Option Nat :=
  (s.frameOut.find? (fun e => e.left.isNone && e.m.dst == m.dst && e.m.mc == m.mc && e.m.kind == m.kind && e.m.tag == m.tag &&
    e.m.body == m.body)).map (·.id)

/-- `n` more flits of a frame's message wait for their acknowledgement (R37). -/
def awaitAcks (id : Option Nat) (n : Nat) (s : State) : State :=
  { s with frameOut := s.frameOut.map (fun x => if some x.id = id then { x with left := some (x.left.getD 0 + n) } else x) }

/-- A message leaves on a port; `id` is its number where it is a frame's. -/
def sendOn (p : PortIdx) (id : Option Nat) (m : RawMsg) (s : State) : State :=
  let fs := flitsOf id (classOf m) m
  pumpPort p (post (.port p m) (awaitAcks id fs.length (modPort p (fun x => { x with waiting := x.waiting ++ fs }) s)))

/-- A frame's message that needs no hop has nothing left to acknowledge (R37). -/
def noHop (id : Option Nat) (s : State) : State :=
  match id with
  | some id => ackFrame id 0 s
  | none => s

/-- A message that this device did not send lowers TTL (R319). -/
def hopTtl (a : Arrival) (m : RawMsg) : RawMsg := if a.isSome then { m with ttl := m.ttl - 1 } else m

/-- Whether the TTL of a message that must go on is used up (R319). -/
def hopLimit (a : Arrival) (m : RawMsg) : Bool := a.isSome && m.ttl == 0

/-- What reaches its destination here: its kind's own command gives its effect (log 7); responses to the host's requests
go on to the host. -/
def deliver (m : RawMsg) (s : State) : State :=
  if subtypeBad m then report rtBlk Code.msgBad s
  else if m.kind = 0x03 ∨ m.kind = 0x12 ∨ m.kind = 0x13 ∨ m.kind = 0x15 ∨ (m.kind = 0x70 ∧ m.body ≠ []) then
    hostReply m.tag m s
  else s

/-- Forwarding by path (R321). -/
def forwardPath (a : Arrival) (m : RawMsg) (b : PathBlock) (s : State) : State :=
  if !m.h || 16 < b.nhops || b.nhops < b.hop then report rtBlk Code.pathBad s
  else if b.hop = b.nhops then deliver m s
  else if hopLimit a m then dropMsg Code.hopLimit s
  else
    let ret : BitVec 5 := match a with
      | some p => BitVec.ofNat 5 p.val
      | none => 0
    match portOf (b.ports.getD b.hop 0).toNat with
    | none => report rtBlk Code.pathBad s
    | some p =>
      if portActive p s then
        let rets := (List.range 16).map (fun i => if i = b.hop then ret else b.rets.getD i 0)
        sendOn p none { hopTtl a m with path := some { b with rets := rets, hop := b.hop + 1 } } s
      else report rtBlk Code.pathBad s

/-- Multicast (R320): copies on every port of the group but the one the message came on, and local delivery. A copy waits at
a port that is not ACTIVE; a DOWN port receives none; a fenced port, the host adapter's and one joined to the other parity are
no table routes (R315, R318, R332). -/
def forwardGroup (a : Arrival) (id : Option Nat) (m : RawMsg) (s : State) : State :=
  let e := mcEntry (fld m.dst 0 12) s
  if !e.getLsbD 31 then report rtBlk Code.mcBad s
  else
    let ps := (List.finRange 24).filter (fun p => e.getLsbD p.val && a != some p && !isHostPort p s)
    let s := if e.getLsbD 30 then deliver m s else s
    if ps = [] then noHop id s
    else if hopLimit a m then dropMsg Code.hopLimit s
    else
      foldS ps (fun p s =>
        if (port p s).st = .down then { s with route := { s.route with mcPortDown := satInc s.route.mcPortDown } }
        else if s.route.fence.getLsbD p || (port p s).parityBad then s
        else sendOn p id (hopTtl a m) s) s

/-- The pier die that holds a message: that of its arrival port; for a message of this device's own units it is free
(R316; log 25). -/
def heldOdd (a : Arrival) (s : State) : Bool × State :=
  match a with
  | some p => (p.val % 2 == 1, s)
  | none =>
    let (k, s) := nextFree s
    (Config.freeNat k % 2 == 1, s)

/-- Forwarding by table (R316). -/
def forwardTable (a : Arrival) (id : Option Nat) (m : RawMsg) (s : State) : State :=
  if m.dst = ownDev s then deliver m (noHop id s)
  else if hopLimit a m then dropMsg Code.hopLimit s
  else
    let (odd, s) := heldOdd a s
    match (routePorts m.dst odd s).find? (fun p => usable p s) with
    | some p =>
      match portOf p with
      | some p => sendOn p id (hopTtl a m) s
      | none => dropMsg Code.noRoute s
    | none => dropMsg Code.noRoute s

/-- Routes a message that has been checked. -/
def routeMsg (a : Arrival) (id : Option Nat) (m : RawMsg) (s : State) : State :=
  match m.path with
  | some b => forwardPath a m b s
  | none => if m.mc then forwardGroup a id m s else forwardTable a id m s

/-- The flits of a message leave the receive buffer of its port (R296). -/
def takeFlits (a : Arrival) (m : RawMsg) (s : State) : State :=
  match a with
  | some p => releaseFlits p (classOf m) (flitsOf none (classOf m) m).length s
  | none => s

/-- The flits of a host message leave the receive buffer of P23; with 1,024 requests outstanding their credits return once a
tag is free (R332). -/
def takeHostFlits (m : RawMsg) (s : State) : State :=
  if s.hostbr.tags.length < 1024 then takeFlits (some 23) m s
  else { s with hostbr := { s.hostbr with owed := s.hostbr.owed ++ [(classOf m, (flitsOf none (classOf m) m).length)] } }

/-! ### The host bridge (R332, R333) -/

/-- The kinds that are answered (R325). -/
def isRequest (m : RawMsg) : Bool :=
  m.kind == 0x01 || m.kind == 0x02 || m.kind == 0x10 || m.kind == 0x11 || m.kind == 0x14 || (m.kind == 0x70 && m.body == [])

/-- The lowest free bridge tag (log 8). -/
def bridgeTag (s : State) : Option (BitVec 14) :=
  ((List.range 1024).map (BitVec.ofNat 14)).find? (fun t => !s.hostbr.tags.any (fun x => x.1 == t))

/-- A message of the host on P23. With 1,024 requests outstanding a request stays in the receive buffer (R332). -/
def takeHost (m : RawMsg) (s : State) : State :=
  if !hostUp s then s
  else if msgBad m then report rtBlk Code.msgBad (takeHostFlits m s)
  else
    let own := { m with src := ownDev s, h := true }
    if isRequest m then
      match bridgeTag s with
      | none => s
      | some t =>
        let s := takeFlits (some 23) m s
        let b := s.hostbr
        let s := { s with hostbr := { b with req := satInc b.req, tags := b.tags ++ [(t, m.tag)] } }
        routeMsg (some 23) none { own with tag := t } s
    else routeMsg (some 23) none own (takeHostFlits m s)

/-- A message at a pier die (R316). -/
def takeMessage (a : Arrival) (m : RawMsg) (s : State) : State :=
  match a with
  | some p =>
    if isHostPort p s then takeHost m s
    else if !portActive p s then s
    else
      let s := takeFlits a m s
      if msgBad m then report rtBlk Code.msgBad s else routeMsg a none m s
  | none =>
    let m := { m with src := ownDev s, ttl := s.route.ttl }
    if msgBad m then report rtBlk Code.msgBad s else routeMsg none (frameMsg m s) m s

/-- EVENT at a bridge (R333). -/
def takeEvent (m : RawMsg) (s : State) : State :=
  if subtypeBad m then report rtBlk Code.msgBad s
  else if hostUp s then
    sendOn 23 none m { s with hostbr := { s.hostbr with evt := satInc s.hostbr.evt } }
  else
    report ⟨Pg.hostbr, 0⟩ Code.hbLinkDown { s with hostbr := { s.hostbr with drop := satInc s.hostbr.drop } }

/-! ### Discovery (R303, R321, R326) -/

/-- The ports that the answer to a path-routed request takes (R321). -/
def backPorts (a : Arrival) (m : RawMsg) : Option (List (BitVec 5)) :=
  match m.path, a with
  | some b, some p => some (if b.nhops = 0 then [] else
      BitVec.ofNat 5 p.val :: ((b.rets.take b.nhops).drop 1).reverse)
  | some _, none => some []
  | none, _ => none

/-- DISC_IDENT: a request is answered with the PARAM payload of the port it came on (free where it came on none) and the
state of every port; a response goes on to the host. -/
def takeDisc (a : Arrival) (m : RawMsg) (s : State) : State :=
  match m.path with
  | some b =>
    if !m.h || b.hop ≠ b.nhops || 16 < b.nhops then report rtBlk Code.pathBad s else answer a m s
  | none => answer a m s
where
  answer (a : Arrival) (m : RawMsg) (s : State) : State :=
    if m.body ≠ [] then hostReply m.tag m s
    else
      let (p, s) := match a with
        | some p => (BitVec.ofNat 8 p.val, s)
        | none =>
          let (k, s) := nextFree s
          (BitVec.ofNat 8 (Config.freeNat k), s)
      let body := paramPayload p s ++ (List.range 24).map (fun i => BitVec.ofNat 8 (port i s).st.code)
      sendHouse body.length
        { dst := m.src, kind := 0x70, h := true, tag := m.tag, path := (backPorts a m).map pathBack, body := body } s

/-! ### Requests without a response (R325) -/

/-- XPORT_TIMEOUT: an outstanding request of this device, or one that the bridge passed on, ends. -/
def requestExpire (tag : BitVec 14) (s : State) : State :=
  match s.reqs.find? (fun r => r.tag == tag) with
  | some r =>
    let s := report rtBlk Code.xportTimeout (dropReq r s)
    match r.what with
    | .ltGet b n _ => ltFailed r.dev b n Code.xportTimeout s
    | .ltPut b n => ltFailed r.dev b n Code.xportTimeout s
    | .shard t x => { s with members := { s.members with
        moves := s.members.moves.map (fun m =>
          if m.tag = t ∧ m.dev = r.dev ∧ !m.ended ∧ m.dst + m.done = x then { m with failed := some Code.shardMoveFail } else m) } }
    | .altRead x off => altGot x off r.dev Code.xportTimeout [] false s
    | .gone _ => s
  | none =>
    match findCapture tag s with
    | some c => if c.a1.isNone then auditResend c (report rtBlk Code.xportTimeout s) else s
    | none =>
    if s.hostbr.tags.any (fun t => t.1 == tag) then
      report rtBlk Code.xportTimeout
        (payOwed { s with hostbr := { s.hostbr with tags := s.hostbr.tags.filter (fun t => t.1 != tag) } })
    else s

/-! ### The ROUTE page (R312, R314, R315, R335) -/

/-- The inactive bank becomes active and every fence falls (R314, R318). -/
def switchBank (s : State) : State :=
  suNote (setStartUp { s.startUp with bankSwitched := true }
    { s with route := { s.route with active := !s.route.active, fence := 0 } })

/-- A write of RT_ADDR (R312). -/
def putRtAddr (v : W32) (s : State) : WRes :=
  let a := v.extractLsb' 0 16
  if a = 0xFFFF ∨ a.extractLsb' 0 3 ≠ s.board.qslot then .error Code.addrBad
  else if (List.range 16).any (fun d => (dom d s).en) then .error Code.configRefused
  else .ok (suNote (setStartUp { s.startUp with bankSwitched := false } { s with route := { s.route with addr := a } }))

/-- The entries of each table (R314). -/
def tableSize (t : Nat) : Nat :=
  match t with
  | 0 => 8192
  | 1 => 8
  | 2 => 4096
  | 3 => 64
  | 4 => 16
  | _ => 0

/-- Whether an entry names a port joined to a port of the other parity (R315). -/
def parityPort (p : Nat) (s : State) : Bool := (port p s).parityBad

/-- Whether an entry is refused with ROUTE_BAD (R315). -/
def entryBad (t : Nat) (w0 w1 : W32) (s : State) : Bool :=
  let hi := fld w0 24 5
  let lo := fld w0 16 5
  match t with
  | 0 => (w0 &&& 0x6060FFFF) != 0 || 23 < hi || 23 < lo ||
      (w0.getLsbD 31 && parityPort hi s) || (w0.getLsbD 23 && parityPort lo s)
  | 1 => (w0 &&& 0x60E0FFFF) != 0 || 23 < hi || 23 < lo || hi % 2 == 1 || lo % 2 == 0 ||
      (w0.getLsbD 31 && (parityPort hi s || parityPort lo s))
  | 2 => (w0 &&& 0x3F000000) != 0 || (List.range 24).any (fun p => w0.getLsbD p && parityPort p s)
  | 3 => (w0 &&& 0xFF) != 0 || (w1 &&& 0xF000FFFF) != 0 || 24 < fld w0 8 8
  | _ => (w0 &&& 0xF000) != 0 || (w1 &&& 0xFFFFF000) != 0

def inactiveBank (s : State) : RouteBank := if s.route.active then s.route.bank0 else s.route.bank1
def setInactive (b : RouteBank) (s : State) : State :=
  { s with route := if s.route.active then { s.route with bank0 := b } else { s.route with bank1 := b } }

/-- The words of an entry of a bank. -/
def RouteBank.entry (b : RouteBank) (t i : Nat) : W32 × W32 :=
  match t with
  | 0 => (tget b.quay 0 i, 0)
  | 1 => (tget b.slot 0 i, 0)
  | 2 => (tget b.mcast 0 i, 0)
  | 3 => (tget b.ctx0 0 i, tget b.ctx1 0 i)
  | _ => (tget b.dom0 0 i, tget b.dom1 0 i)

def RouteBank.put (b : RouteBank) (t i : Nat) (w0 w1 : W32) : RouteBank :=
  match t with
  | 0 => { b with quay := tset b.quay 0 i w0 }
  | 1 => { b with slot := tset b.slot 0 i w0 }
  | 2 => { b with mcast := tset b.mcast 0 i w0 }
  | 3 => { b with ctx0 := tset b.ctx0 0 i w0, ctx1 := tset b.ctx1 0 i w1 }
  | _ => { b with dom0 := tset b.dom0 0 i w0, dom1 := tset b.dom1 0 i w1 }

/-- Writes an entry of the inactive bank, unless it is refused (R315). -/
def putEntry (t i : Nat) (w0 w1 : W32) (s : State) : WRes :=
  if tableSize t ≤ i ∨ entryBad t w0 w1 s then .error Code.routeBad
  else .ok (setInactive ((inactiveBank s).put t i w0 w1) s)

/-- A write of RT_WIN_CMD: WRITE stores the window's words in the inactive bank, READ fetches the entry. -/
def putRtCmd (v : W32) (s : State) : WRes :=
  let t := fld s.route.winSel 29 3
  let i := fld s.route.winSel 0 16
  let read (s : State) : WRes :=
    if !v.getLsbD 0 then .ok s
    else if tableSize t ≤ i then .error Code.routeBad
    else
      let e := (inactiveBank s).entry t i
      .ok { s with route := { s.route with win0 := e.1, win1 := e.2 } }
  if v.getLsbD 1 then
    match putEntry t i s.route.win0 s.route.win1 s with
    | .ok s => read s
    | .error c => .error c
  else read s

def switchKey : Nat := regKey Pg.route 0x060

/-- RT_SWITCH is written whole: a tick that is not ahead is late and nothing switches then (R30, R314; log 25). -/
def putSwitch (hi : W32) (s : State) : WRes :=
  let t := pairValue switchKey s.route.switchAt hi s
  let s := putPair switchKey s.route.switchAt hi (fun t s => { s with route := { s.route with switchAt := t } }) s
  let ahead (b : Bool) (s : State) : State := { s with route := { s.route with switchWaits := b } }
  .ok (if t = 0 then ahead false s else if t.toNat ≤ now s then report rtBlk Code.eventLate (ahead false s) else ahead true s)

/-- A write of a ROUTE register. -/
def putRoute (off : Nat) (v : W32) (s : State) : WRes :=
  let r := s.route
  match off with
  | 0x040 => putRtAddr v s
  | 0x04C => .ok { s with route := { r with drop := clearBy r.drop v } }
  | 0x050 => if 5 ≤ fld v 29 3 then .error Code.routeBad else .ok { s with route := { r with winSel := v &&& 0xE000FFFF } }
  | 0x054 => putRtCmd v s
  | 0x058 => .ok { s with route := { r with win0 := v } }
  | 0x05C => .ok { s with route := { r with win1 := v } }
  | 0x060 => .ok (holdLo switchKey v s)
  | 0x064 => putSwitch v s
  | 0x068 => if fld v 0 16 = 0 then .error Code.configRefused else .ok { s with route := { r with timeout := v.extractLsb' 0 16 } }
  | 0x06C => if fld v 0 6 = 0 then .error Code.configRefused else .ok { s with route := { r with ttl := v.extractLsb' 0 6 } }
  | _ => .ok s

/-- A read of a ROUTE register. -/
def getRoute (off : Nat) (s : State) : W32 × State :=
  let r := s.route
  match off with
  | 0x040 => (w32 r.addr.toNat, s)
  | 0x044 => (w32 ((lastErr rtBlk s).toNat * 2 ^ 16 + b2n r.active), s)
  | 0x048 => (w32 r.fence.toNat, s)
  | 0x04C => (r.drop, s)
  | 0x050 => (r.winSel, s)
  | 0x058 => (r.win0, s)
  | 0x05C => (r.win1, s)
  | 0x060 => readLo switchKey r.switchAt s
  | 0x064 => readHi switchKey r.switchAt s
  | 0x068 => (w32 r.timeout.toNat, s)
  | 0x06C => (w32 r.ttl.toNat, s)
  | _ => (0, s)

/-! ### The HOSTBR page (R335) -/

def putHostBr (off : Nat) (v : W32) (s : State) : WRes :=
  let b := s.hostbr
  match off with
  | 0x044 => .ok { s with hostbr := { b with req := clearBy b.req v } }
  | 0x048 => .ok { s with hostbr := { b with evt := clearBy b.evt v } }
  | 0x04C => .ok { s with hostbr := { b with drop := clearBy b.drop v } }
  | _ => .ok s

def getHostBr (off : Nat) (s : State) : W32 :=
  let b := s.hostbr
  match off with
  | 0x040 => w32 ((lastErr ⟨Pg.hostbr, 0⟩ s).toNat * 2 ^ 16 + b2n (hostUp s) * 2 ^ 15 + b.tags.length)
  | 0x044 => b.req
  | 0x048 => b.evt
  | 0x04C => b.drop
  | _ => 0

/-! ### Commands -/

/-- RT_ADDR_WRITE (R312). -/
def execRtAddrWrite (r : Req) (v : W32) (s : State) : Outcome := awake s (.next (regWrite r rtBlk false (putRtAddr v s) s))

/-- RT_WIN_READ (R314). -/
def execRtWinRead (r : Req) (s : State) : Outcome := awake s (.next (regWrite r rtBlk false (putRtCmd 1 s) s))

/-- RT_WIN_WRITE (R315). -/
def execRtWinWrite (r : Req) (s : State) : Outcome := awake s (.next (regWrite r rtBlk false (putRtCmd 2 s) s))

/-- MESSAGE_FORWARD (R316). -/
def execMessageForward (a : Arrival) (m : RawMsg) (s : State) : Outcome := awake s (.next (takeMessage a m s))

/-- XPORT_TIMEOUT (R325). -/
def execXportTimeout (tag : BitVec 14) (s : State) : Outcome := awake s (.next (requestExpire tag s))

/-- HOST_MESSAGE (R332). -/
def execHostMessage (m : RawMsg) (s : State) : Outcome := awake s (.next (takeHost m s))

/-- EVENT (R333). -/
def execEvent (m : RawMsg) (s : State) : Outcome := awake s (.next (takeEvent m s))

/-- DISC_IDENT (R326). -/
def execDiscIdent (a : Arrival) (m : RawMsg) (s : State) : Outcome := awake s (.next (takeDisc a m s))

/-- REG_RESP: the device itself sends no register requests, so a response belongs to a request of the host (R325, R332). -/
def execRegResp (src : W16) (tag : BitVec 14) (status : W16) (data : W32) (s : State) : Outcome :=
  awake s (.next (hostReply tag (rawResp src 0x03 tag (leBytes 2 status.toNat ++ [0, 0] ++ leBytes 4 data.toNat) s) s))

end Sys2Proof.Machine
end

