-- ==== Sys2Proof/Machine/Serve.lean ====
section
/-! DEFINITION. Serving: manifests, admission, slots and completion, residency queries and accounting (R271 to R289). -/

namespace Sys2Proof.Machine
open Sys2Proof

def clientBlk : Blk := ⟨Pg.client, 0⟩

/-! ### The slot table (R279) -/

def slotField (o k at_ n : Nat) (s : State) : Nat := objNum o (128 * k + at_) n none s
def putSlotField (o k at_ n v : Nat) (s : State) : State := objPut o (128 * k + at_) (leBytes n v) s

def slotState (o k : Nat) (s : State) : Nat := slotField o k 56 1 s
def kvChainAt (x : Nat) : Nat := 32768 + 2 * x
def kvNext (o x : Nat) (s : State) : Nat := objNum o (kvChainAt x) 2 none s

/-- The KV ordinals of the domain's pool that are free, in rising order. -/
def kvFree (d : Nat) (s : State) : List Nat :=
  let v := serveOf d s
  (List.range (obj v.kvObj.toNat s).extCount.toNat).filter (fun x => kvNext v.slotObj.toNat x s == 0xFFFF)

/-- The slots of a domain that are FREE, in rising order. -/
def freeSlots (d : Nat) (s : State) : List Nat :=
  let v := serveOf d s
  (List.range v.nslots.toNat).filter (fun k => slotState v.slotObj.toNat k s == 0)

/-- The ordinals of a slot's chain from `x`. -/
def kvChain (o x fuel : Nat) (s : State) : List Nat :=
  match fuel with
  | 0 => []
  | fuel + 1 => if x = 0xFFFF ∨ x = 0xFFFE then [] else x :: kvChain o (kvNext o x s) fuel s

/-- The device-written bytes 0 to 63 of a FREE slot. -/
def freeEntry : List Byte := leBytes 8 (2 ^ 64 - 1) ++ List.replicate 52 0 ++ leBytes 2 0xFFFF ++ [0, 0]

/-! ### Completion records (R280) -/

structure Completion where
  idx : Nat
  tag : Nat
  status : W16
  slot : Nat
  genBase : Nat
  genAdapt : Nat
  result : Nat

def recordBytes (d : Nat) (c : Completion) (s : State) : List Byte :=
  leBytes 8 c.idx ++ leBytes 8 (now s) ++ leBytes 2 c.tag ++ leBytes 2 c.status.toNat ++
    [BitVec.ofNat 8 d, BitVec.ofNat 8 c.slot, 0, 0] ++ leBytes 4 c.genBase ++ leBytes 4 c.genAdapt ++
    leBytes 4 c.result ++ leBytes 4 0

def addRecord (d : Nat) (c : Completion) (s : State) : State :=
  let r := recordBytes d c s
  modServe d (fun v => { v with records := v.records ++ [r] }) s

/-- Rank 11: the lead sends its records to the host, by manifest index (R32, R280). -/
def sendRecords (d : Nat) (s : State) : State :=
  let v := serveOf d s
  let s := modServe d (fun v => { v with records := [] }) s
  if v.lead ≠ ownDev s then s
  else
    foldS (sortBy (fun r => leVal (bytesAt r 0 8)) v.records) (fun r s =>
      send { dst := evtDev d s
             kind := 0x60
             body := pad8 [1, BitVec.ofNat 8 d] ++ r }
        (charge (some d) v.client 0 0 r.length 0 (addCtr v.client.toNat 10 1 s))) s

/-- Releases what a slot has latched (R223). -/
def unlatch (l : Latch) (s : State) : State :=
  let s := match l.base with
    | some b => dropRef b s
    | none => s
  match l.adapt with
  | some b => dropRef b s
  | none => s

/-- Slot `k` of domain `d` completes with a status (R280): its KV ordinals and weight slots are released. -/
def completeSlot (d k : Nat) (status : W16) (s : State) : State :=
  let v := serveOf d s
  let o := v.slotObj.toNat
  let c : Completion :=
    { idx := slotField o k 0 8 s
      tag := slotField o k 58 2 s
      status := status
      slot := k
      genBase := slotField o k 48 4 s
      genAdapt := slotField o k 52 4 s
      result := slotField o k 64 4 s }
  let s := addRecord d c s
  let s := foldS (kvChain o (slotField o k 60 2 s) (slotField o k 62 2 s) s) (fun x s => objPut o (kvChainAt x) (leBytes 2 0xFFFF) s) s
  let s := unlatch (tget v.latches {} k) s
  let s := modServe d (fun v => { v with
    latches := tdel v.latches k, admitted := v.admitted.filter (· ≠ k) }) s
  objPut o (128 * k) freeEntry s

/-! ### Leaves (R223, R280, R282) -/

/-- Rank 5, first: latches of a recalled admission are undone at the first base tick after the abort completes (R223). -/
def undoLatches (d : Nat) (s : State) : State :=
  let v := serveOf d s
  let x := dom d s
  if !v.undo || (x.st == .recalling && !x.abortDone) then s
  else
    let s := foldS v.admitted (fun k s => unlatch (tget v.latches {} k) s) s
    modServe d (fun v => { v with
      undo := false
      latches := v.latches.map (fun e =>
        if v.admitted.contains e.1 then (e.1, { e.2 with base := none, adapt := none }) else e) }) s

/-- Slots of domain `d` by the manifest index of their entries (R32). -/
def byIndex (d : Nat) (ks : List Nat) (s : State) : List Nat :=
  sortBy (fun k => slotField (serveOf d s).slotObj.toNat k 0 8 s) ks

/-- One occupied slot after a commit: its frame counts; it completes when it is done. A SEQUENCE is done when the frame that
commits wrote the byte that holds DONE[63] and DONE[63] is 1. -/
def leaveSlot (d k : Nat) (s : State) : State :=
  let v := serveOf d s
  let o := v.slotObj.toNat
  let st := slotState o k s
  if st ≠ 1 ∧ st ≠ 2 then s
  else
    let run := min 255 (slotField o k 57 1 s + 1)
    let s := putSlotField o k 57 1 run s
    let set := v.doneWrites.contains k ∧ 2 ^ 63 ≤ slotField o k 64 8 s
    if (st = 1 ∧ (tget v.latches {} k).frames ≤ run) ∨ (st = 2 ∧ set) then completeSlot d k 0 s else s

/-- Rank 5 of a commit tick of domain `d`: the latches of the committed frame are fixed, and slots leave, by the manifest index
of their entries (R32). -/
def serveLeaves (d : Nat) (s : State) : State :=
  let v := serveOf d s
  if !v.serve then s
  else
    let s := modServe d (fun v => { v with admitted := [], undo := false }) s
    modServe d (fun v => { v with doneWrites := [] }) (foldS (byIndex d (List.range v.nslots.toNat) s) (leaveSlot d) s)

/-! ### Admission (R222, R278) -/

structure MfEntry where
  kind : Nat
  frames : Nat
  tag : Nat
  need : Nat
  base : Nat
  adapt : Nat
  deadline : Nat
  inAddr : Nat
  outAddr : Nat
  ok : Bool

/-- A manifest entry with whether its values are as R274 gives them. -/
def mfEntry (bs : List Byte) : MfEntry :=
  let w := leAt bs 0 8
  let kind := w / 2 ^ 60
  let frames := w / 2 ^ 58 % 4
  let base := w / 2 ^ 8 % 256
  let adapt := w % 256
  let i := leAt bs 16 8
  let o := leAt bs 24 8
  { kind := kind
    frames := frames
    tag := w / 2 ^ 32 % 2 ^ 16
    need := w / 2 ^ 16 % 2 ^ 16
    base := base
    adapt := adapt
    deadline := leAt bs 8 8
    inAddr := i
    outAddr := o
    ok := ((kind == 1 && (frames == 1 || frames == 2)) || (kind == 2 && frames == 0)) && w / 2 ^ 48 % 2 ^ 10 == 0 &&
      (base < 64 || base == 255) && (adapt < 64 || adapt == 255) && i / 2 ^ 48 == 0 && o / 2 ^ 48 == 0 &&
      leAt bs 48 16 == 0 }

/-- The sets an entry names. -/
def namedSets (e : MfEntry) : List Nat := [e.base, e.adapt].filter (· < 64)

/-- The code of steps 1 to 4 that completes an entry. -/
def mfCode (d : Nat) (e : MfEntry) (s : State) : Option W16 :=
  if !e.ok then some Code.mfBadEntry
  else if e.deadline ≠ 0 ∧ e.deadline < now s then some Code.deadlineMissed
  else if (obj (serveOf d s).kvObj.toNat s).extCount.toNat < e.need then some Code.joinTooLarge
  else if (namedSets e).any (fun x => (currentSlot x s).isNone) then some Code.wsNoCurrent
  else none

/-- Whether R222 defers an entry: a named slot could not count it. -/
def refsFull (e : MfEntry) (s : State) : Bool :=
  (namedSets e).any (fun x => match currentSlot x s with
    | some b => 65535 < (wsSlot (slotKey x b) s).refs.toNat + ((namedSets e).filter (· == x)).length
    | none => false)

/-- Latches the CURRENT slot of a set: the latch and its generation. -/
def latchSet (x : BitVec 8) (s : State) : Option (BitVec 6 × Bool) × Nat × State :=
  if 64 ≤ x.toNat then (none, 0, s)
  else
    match currentSlot x.toNat s with
    | none => (none, 0, s)
    | some b =>
      if fullSlot x.toNat b s then (none, 0, s)
      else (some (x.extractLsb' 0 6, b), (wsSlot (slotKey x.toNat b) s).gen.toNat, addRef (x.extractLsb' 0 6, b) s)

/-- Writes a chain of KV ordinals. -/
def putChain (o : Nat) (xs : List Nat) (s : State) : State :=
  match xs with
  | [] => s
  | [x] => objPut o (kvChainAt x) (leBytes 2 0xFFFE) s
  | x :: y :: r => putChain o (y :: r) (objPut o (kvChainAt x) (leBytes 2 y) s)

/-- Step 7: the entry takes slot `k` and the lowest free KV ordinals, and latches its sets. -/
def admitEntry (d k : Nat) (p : PendEntry) (e : MfEntry) (s : State) : State :=
  let o := (serveOf d s).slotObj.toNat
  let xs := (kvFree d s).take e.need
  let s := putChain o xs s
  let (lb, gb, s) := latchSet (BitVec.ofNat 8 e.base) s
  let (la, ga, s) := latchSet (BitVec.ofNat 8 e.adapt) s
  let bytes := leBytes 8 p.idx.toNat ++ leBytes 8 (now s) ++ leBytes 8 e.inAddr ++ leBytes 8 e.outAddr ++
    bytesAt p.data 32 16 ++ leBytes 4 gb ++ leBytes 4 ga ++ [BitVec.ofNat 8 e.kind, 0] ++ leBytes 2 e.tag ++
    leBytes 2 (xs.headD 0xFFFF) ++ leBytes 2 e.need
  let s := objPut o (128 * k) bytes s
  modServe d (fun v => { v with
    admitted := v.admitted ++ [k]
    latches := tput v.latches k
      { frames := e.frames, deadline := w64 e.deadline, baseSet := BitVec.ofNat 8 e.base
        adaptSet := BitVec.ofNat 8 e.adapt, base := lb, adapt := la } }) s

/-- What R278 does with one pending entry: taken, or it waits with its deferral count. -/
def takeEntry (d : Nat) (p : PendEntry) (s : State) : Option State :=
  let e := mfEntry p.data
  let finish (c : W16) (s : State) : State :=
    addRecord d { idx := p.idx.toNat, tag := e.tag, status := c, slot := 0xFF, genBase := 0, genAdapt := 0, result := 0 } s
  match mfCode d e s with
  | some c => some (finish c s)
  | none =>
    match freeSlots d s with
    | [] => none
    | k :: _ =>
      if refsFull e s then none
      else if (kvFree d s).length < e.need then
        (if 8 ≤ p.defers + 1 then some (finish Code.joinNoMemory s) else none)
      else some (admitEntry d k p e s)

/-- Whether a waiting entry is one that step 6 defers. -/
def deferred (d : Nat) (p : PendEntry) (s : State) : Bool :=
  let e := mfEntry p.data
  freeSlots d s != [] && !refsFull e s && (kvFree d s).length < e.need

/-- Takes pending entries in order until one waits. -/
def admitGo (d : Nat) (ps : List PendEntry) (s : State) : State :=
  match ps with
  | [] => s
  | p :: r =>
    if now s < p.eff then s
    else
      match takeEntry d p s with
      | some s => admitGo d r (modServe d (fun v => { v with pend := r, cons := p.idx + 1 }) s)
      | none =>
        if deferred d p s then modServe d (fun v => { v with pend := { p with defers := p.defers + 1 } :: r }) s else s

/-- Rank 7 of a boundary at which a new frame of domain `d` opens. -/
def admitEntries (d : Nat) (s : State) : State :=
  let v := serveOf d s
  if !v.serve then s
  else
    let s := admitGo d v.pend s
    if v.lead = ownDev s then objPut v.mfObj.toNat 8 (leBytes 8 (serveOf d s).cons.toNat) s else s

/-- Rank 7 of a replay: what the recalled frame admitted latches again (R223, R282). Where REFS of the CURRENT slot stands at
65,535 by then, the batch runs without a latch on it: the spec is silent there (DESIGN CHOICE, log 22). -/
def relatchEntries (d : Nat) (s : State) : State :=
  let v := serveOf d s
  if !v.serve then s
  else
    foldS v.admitted (fun k s =>
      let l := tget v.latches {} k
      if l.base.isSome ∨ l.adapt.isSome then s
      else
        let (lb, gb, s) := latchSet l.baseSet s
        let (la, ga, s) := latchSet l.adaptSet s
        let s := objPut v.slotObj.toNat (128 * k + 48) (leBytes 4 gb ++ leBytes 4 ga) s
        modServe d (fun v => { v with latches := tput v.latches k { l with base := lb, adapt := la } }) s) s

/-! ### Manifests (R274 to R276) -/

/-- The next boundary of a domain after the present tick. -/
def nextBoundary (d : Nat) (s : State) : Option Nat :=
  let x := dom d s
  match x.st with
  | .armed => some x.start.toNat
  | .opened => some x.ending
  | .done => some x.ending
  | .recalling => x.resumeAt
  | _ => none

/-- A member takes forwarded entries (R276); a late event recalls the frame (R30). -/
def takeForward (d eff first : Nat) (entries : List (List Byte)) (s : State) : State :=
  let v := serveOf d s
  if !(dom d s).en || !v.serve then s
  else if eff ≤ now s then recallNamed d Code.eventLate (report clientBlk Code.eventLate s)
  else
    let new := (entries.zipIdx.map (fun p => (first + p.2, p.1))).filter (fun p => v.nextRead ≤ p.1)
    modServe d (fun v => { v with
      pend := v.pend ++ new.map (fun p => { idx := w64 p.1, eff := eff, data := bytesAt p.2 0 64 })
      nextRead := max v.nextRead (first + entries.length) }) s

/-- The payload bytes of a MANIFEST_FWD message (R284, R326). -/
def forwardLen (entries : List (List Byte)) : Nat := 8 + 64 * entries.length

/-- The lead forwards entries to every member, itself included (KIND 0x52, R326). -/
def forwardEntries (d eff first : Nat) (entries : List (List Byte)) (s : State) : State :=
  takeForward d eff first entries
    (charge (some d) (serveOf d s).client 0 0 (forwardLen entries) 0
      (send { dst := ctlGroup d s
              mc := true
              kind := 0x52
              body := pad8 (leBytes 8 eff ++ [1, BitVec.ofNat 8 d]) ++ leBytes 8 first ++ entries.flatten } s))

/-- MANIFEST_FWD from the lead (R276, R284). -/
def takeManifest (d eff first : Nat) (entries : List (List Byte)) (s : State) : State :=
  if !(dom d s).en || !(serveOf d s).serve then s
  else takeForward d eff first entries (charge (some d) (serveOf d s).client 0 0 0 (forwardLen entries) s)

/-- Rank 10: the lead reads the manifest table (R275). Where no boundary of the domain is scheduled, every later boundary is
at or after the next tick, which is then the effective tick (log 22). -/
def readManifest (d : Nat) (s : State) : State :=
  let v := serveOf d s
  let o := v.mfObj.toNat
  if !(dom d s).en || !v.serve || v.lead != ownDev s || !(obj o s).valid then s
  else
    let prod := objNum o 0 8 none s
    let depth := v.depth.toNat
    if prod < v.cons.toNat ∨ v.cons.toNat + depth < prod then report clientBlk Code.mfProdBad s
    else
      let lo := max v.nextRead v.cons.toNat
      if prod ≤ lo then s
      else
        let n := min (prod - lo) 256
        forwardEntries d ((nextBoundary d s).getD (now s + 1)) lo
          ((List.range n).map (fun i => objBytes o (64 + 64 * ((lo + i) % depth)) 64 none s)) s

/-! ### Enabling a serving domain (R272, R287) -/

/-- The code that a write of FD_CFG.EN = 1 is refused with for the domain's CLIENT group. -/
def serveCode (d : Nat) (s : State) : Option W16 :=
  let v := serveOf d s
  let o (i : W16) : ObjEntry := obj i.toNat s
  if (List.range 16).any (fun e => e != d && (dom e s).en && (serveOf e s).mask &&& v.mask != 0) then some Code.berthTaken
  else if !v.serve then none
  else if (o v.mfObj).valid && (o v.mfObj).writer == 0x10 && (o v.slotObj).valid && (o v.slotObj).writer.toNat == d &&
      (o v.kvObj).valid && (o v.kvObj).writer.toNat == d && (o v.kvObj).extCount.toNat ≤ 65534 then none
  else some Code.configRefused

/-- A serving domain is enabled: CONS is what its manifest table holds; nothing is pending or latched (log 22). -/
def serveStart (d : Nat) (s : State) : State :=
  let v := serveOf d s
  let cons := if v.serve then objNum v.mfObj.toNat 8 8 none s else 0
  let s := foldS v.latches (fun e s => unlatch e.2 s) s
  modServe d (fun v => { v with
    cons := w64 cons, nextRead := cons, pend := [], latches := [], admitted := [], undo := false, records := []
    doneWrites := [] }) s

/-! ### Residency queries (R283) -/

def isBusyExt (x : Nat) (s : State) : Bool := (ext x s).st != .idle && (ext x s).st != .fresh

/-- The extents that a query names, none where it names nothing valid. -/
def queryExts (s : State) : Option (List Nat) :=
  let q := s.query.sel
  let of (o : Nat) : List Nat := (extsOf o s).filter (fun x => (ext x s).st != .moved)
  if q.getLsbD 31 then
    let w := wsSlot (slotKey (fld q 0 6) (q.getLsbD 6)) s
    if w.st = .free then none
    else some ((List.range w.nObj.toNat).flatMap (fun i => of (w.firstObj.toNat + i)))
  else if (obj (fld q 0 16) s).valid then some (of (fld q 0 16))
  else none

/-- After rank 9 of the first base tick: the answer. -/
def answerQuery (s : State) : State :=
  if !s.query.busy then s
  else
    match queryExts s with
    | none => report clientBlk Code.resqBad { s with query := { s.query with busy := false } }
    | some xs =>
      let sram := xs.filter (· < 65536)
      raise Pg.client 0 { s with query := { s.query with
        busy := false
        sram := BitVec.ofNat 21 sram.length
        lpx := BitVec.ofNat 21 (xs.length - sram.length)
        busyCnt := BitVec.ofNat 21 (xs.filter (fun x => isBusyExt x s)).length
        berths := sram.foldl (fun m x => m ||| BitVec.ofNat 256 (2 ^ (x / 256))) 0 } }

def putRqGo (v : W32) (s : State) : WRes :=
  if s.query.busy then
    let h := hdr Pg.client s
    .ok (setHdr Pg.client { h with errCount := satInc h.errCount } s)
  else if !v.getLsbD 0 then .ok s
  else .ok { s with query := { s.query with busy := true } }

/-! ### Accounting (R284 to R286, R288) -/

def maskCount (m : BitVec 256) : Nat := ((List.range 256).filter (fun i => m.getLsbD i)).length

/-- Held berths of the tick (counter 0, R271, R286) by enabled domain; the house holds the rest. -/
def chargeHeld (s : State) : State :=
  let us := s.tick.periodUs.toNat
  let cyc := s.dies.clockMhz * us
  let w := (s.acct.w.toList.getD 0 0).toNat
  let ds := (List.range 16).filter (fun d => (dom d s).en)
  let total := (ds.map (fun d => maskCount (serveOf d s).mask)).sum
  let s := foldS ds (fun d s =>
    let n := maskCount (serveOf d s).mask
    let c := (serveOf d s).client.toNat
    addAct c (n * cyc * w) (addCtr c 0 (n * us) s)) s
  addAct house.toNat ((256 - total) * cyc * w) (addCtr house.toNat 0 ((256 - total) * us) s)

/-- Extents backing the objects that each client owns (counters 7 and 8). -/
def chargeExtents (s : State) : State :=
  foldS (s.mem.exts.filter (fun e => e.2.kind == .object && e.2.st != .moved)) (fun e s =>
    addCtr (obj e.2.obj.toNat s).owner.toNat (if e.1 < 65536 then 7 else 8) 1 s) s

/-- Gives a client energy: to the open frame of its lowest domain, at once where it has none (log 23). -/
def giveEnergy (c n : Nat) (s : State) : State :=
  match (List.range 16).find? (fun d => isOpen d s && (serveOf d s).client.toNat == c) with
  | some d => accrue d (fun a => { a with energy := a.energy + n }) s
  | none => addCtr c 9 n s

/-- One client's share of the tick's energy `e`, its remainder carried exactly (R286). -/
def shareEnergy (e total : Nat) (c a : Nat) (s : State) : State :=
  let r := tget s.acct.rem (0, 1) c
  let num := e * a * r.2 + r.1 * total
  let den := total * r.2
  let g := Nat.gcd (num % den) den
  let rest := if num % den = 0 then (0, 1) else (num % den / g, den / g)
  giveEnergy c (num / den) { s with acct := { s.acct with rem := tset s.acct.rem (0, 1) c rest } }

/-- The accruals of a base tick with input energy `e`. -/
def accountTick (e : Nat) (s : State) : State :=
  let s := flushLate (chargeExtents (chargeHeld s))
  let act := s.acct.act
  let total := (act.map (·.2)).sum
  let s := { s with acct := { s.acct with act := [] } }
  if total = 0 then s else foldS act (fun p s => shareEnergy e total p.1 p.2 s) s

/-- The end of a base tick: clears asked for take effect (R288). -/
def clearClients (s : State) : State :=
  let cs := s.acct.clear.map (·.toNat)
  { s with acct := { s.acct with
    clear := []
    ctr := s.acct.ctr.filter (fun e => !cs.contains (e.1 / 16))
    rem := s.acct.rem.filter (fun e => !cs.contains e.1) } }

/-! ### The ACCOUNT and CLIENT pages (R287, R288) -/

def acctBlk : Blk := ⟨Pg.account, 0⟩

def putAccClear (v : W32) (s : State) : WRes :=
  if v.getLsbD 0 then .ok { s with acct := { s.acct with clear := s.acct.clear ++ [s.acct.sel] } } else .ok s

def putAccount (off : Nat) (v : W32) (s : State) : WRes :=
  match off with
  | 0x040 => .ok { s with acct := { s.acct with sel := v.extractLsb' 0 8 } }
  | 0x044 => putAccClear v s
  | _ => .ok s

def packW (a b c d : BitVec 8) : W32 := a ++ b ++ c ++ d

def getAccount (off : Nat) (s : State) : W32 × State :=
  let a := s.acct
  let w := a.w
  match off with
  | 0x040 => (a.sel.setWidth 32, s)
  | 0x048 => (lastErr acctBlk s ++ w16 (b2n (a.clear != [])), s)
  | 0x060 => (packW w[0] w[1] w[2] w[3], s)
  | 0x064 => (packW w[4] w[5] w[6] w[7], s)
  | 0x068 => (packW w[8] a.wVoxle 0 0, s)
  | off =>
    if 0x100 ≤ off ∧ off < 0x180 then
      let n := (off - 0x100) / 8
      let key := regKey Pg.account (0x100 + 8 * n)
      if off % 8 = 0 then readLo key (acctr a.sel.toNat n s) s else readHi key (acctr a.sel.toNat n s) s
    else (0, s)

/-- The domain and the register of an offset of the per-domain groups. -/
def clientGroup (off : Nat) : Option (Nat × Nat) :=
  if 0x100 ≤ off ∧ off < 0x500 then some ((off - 0x100) / 64, off % 64) else none

/-- One word of a berth set. -/
def maskWord (m : BitVec 256) (k : Nat) : W32 := m.extractLsb' (32 * k) 32
def putMaskWord (m : BitVec 256) (k : Nat) (v : W32) : BitVec 256 :=
  let lane : BitVec 256 := BitVec.ofNat 256 ((2 ^ 32 - 1) * 2 ^ (32 * k))
  (m &&& ~~~lane) ||| BitVec.ofNat 256 (v.toNat * 2 ^ (32 * k))

def svCfg (v : Serve) : W32 := w32 (b2n v.serve * 2 ^ 31 + v.client.toNat * 2 ^ 16 + v.nslots.toNat)

def putClientGroup (d r : Nat) (free : Bool) (w : W32) (s : State) : WRes :=
  let v := serveOf d s
  if r = 0x14 ∨ r = 0x18 ∨ r = 0x1C then .ok s
  else if (dom d s).en && (dom d s).st != .held && !free then .error Code.configRefused
  else
    match r with
    | 0x00 =>
      let n := fld w 0 9
      if fld w 16 8 = 0xFF ∧ !free then .error Code.configRefused
      else if w.getLsbD 31 && (n == 0 || decide (256 < n)) && !free then .error Code.configRefused
      else .ok (setServe d { v with serve := w.getLsbD 31, client := w.extractLsb' 16 8, nslots := w.extractLsb' 0 9 } s)
    | 0x04 =>
      if (fld w 0 13 = 0 ∨ 4096 < fld w 0 13) ∧ !free then .error Code.configRefused
      else .ok (setServe d { v with depth := w.extractLsb' 0 13 } s)
    | 0x08 => .ok (setServe d { v with mfObj := w.extractLsb' 0 16, slotObj := w.extractLsb' 16 16 } s)
    | 0x0C => .ok (setServe d { v with kvObj := w.extractLsb' 0 16 } s)
    | 0x10 => .ok (setServe d { v with lead := w.extractLsb' 0 16 } s)
    | r =>
      if 0x20 ≤ r then .ok (setServe d { v with mask := putMaskWord v.mask ((r - 0x20) / 4) w } s) else .ok s

def putClient (off : Nat) (v : W32) (s : State) : WRes :=
  match clientGroup off with
  | some (d, r) => putClientGroup d r false v s
  | none =>
    match off with
    | 0x040 => .ok { s with query := { s.query with sel := v &&& 0x8000FFFF } }
    | 0x044 => putRqGo v s
    | _ => .ok s

def consKey (d : Nat) : Nat := regKey Pg.client (0x118 + 64 * d)

/-- A register of a domain's group. -/
def getClientGroup (d r : Nat) (s : State) : W32 × State :=
  let v := serveOf d s
  match r with
  | 0x00 => (svCfg v, s)
  | 0x04 => (v.depth.setWidth 32, s)
  | 0x08 => (v.slotObj ++ v.mfObj, s)
  | 0x0C => (v.kvObj.setWidth 32, s)
  | 0x10 => (v.lead.setWidth 32, s)
  | 0x14 => (w32 ((kvFree d s).length % 2 ^ 16 * 2 ^ 16 + (freeSlots d s).length), s)
  | 0x18 => readLo (consKey d) v.cons s
  | 0x1C => readHi (consKey d) v.cons s
  | r => (if 0x20 ≤ r then maskWord v.mask ((r - 0x20) / 4) else 0, s)

def getClient (off : Nat) (s : State) : W32 × State :=
  let q := s.query
  match clientGroup off with
  | some (d, r) => getClientGroup d r s
  | none =>
    match off with
    | 0x040 => (q.sel, s)
    | 0x048 => (lastErr clientBlk s ++ w16 (b2n q.busy), s)
    | 0x04C => (q.sram.setWidth 32, s)
    | 0x050 => (q.lpx.setWidth 32, s)
    | 0x054 => (q.busyCnt.setWidth 32, s)
    | off => (if 0x060 ≤ off ∧ off < 0x080 then maskWord q.berths ((off - 0x060) / 4) else 0, s)

/-- Whether a write changes an RWL field of the CLIENT page: every group register a driver writes. -/
def rwlClient (off : Nat) (v : W32) (s : State) : Bool :=
  match clientGroup off with
  | some (d, r) =>
    if r = 0x14 ∨ r = 0x18 ∨ r = 0x1C then false
    else
      let mask : W32 := match r with
        | 0x00 => 0x80FF01FF
        | 0x04 => 0x1FFF
        | 0x0C => 0xFFFF
        | 0x10 => 0xFFFF
        | _ => 0xFFFFFFFF
      v &&& mask != (getClientGroup d r s).1
  | none => false

/-! ### The commands -/

/-- MANIFEST_FWD (R276). -/
def execManifestFwd (d : DomIdx) (eff first : W64) (entries : List (List Byte)) (s : State) : Outcome :=
  awake s (.next (takeManifest d.toNat eff.toNat first.toNat entries s))

/-- RQ_GO (R283). -/
def execRqGo (r : Req) (v : W32) (s : State) : Outcome := awake s (.next (regWrite r clientBlk false (putRqGo v s) s))

/-- ACC_CLEAR (R288). -/
def execAccClear (r : Req) (v : W32) (s : State) : Outcome := awake s (.next (regWrite r acctBlk false (putAccClear v s) s))

end Sys2Proof.Machine
end

