-- ==== Sys2Proof/Machine/Parity.lean ====
section
/-! DEFINITION. Survival class P: parity groups, encoding and rebuilds (R358, R360 to R364), and the rebuild of weight
extents (R240). -/

namespace Sys2Proof.Machine
open Sys2Proof

/-! ### GF(2^8) with the polynomial 0x11D (R361) -/

def gmul2 (x : Nat) : Nat := if 128 ≤ x then (2 * x ^^^ 0x11D) % 256 else 2 * x

def gmulBits (a b n : Nat) : Nat :=
  match n with
  | 0 => 0
  | n + 1 => (if b % 2 = 1 then a else 0) ^^^ gmulBits (gmul2 a) (b / 2) n

def gmul (a b : Nat) : Nat := gmulBits a b 8

def gpow (a n : Nat) : Nat :=
  match n with
  | 0 => 1
  | n + 1 => gmul a (gpow a n)

/-- The inverse: a non-zero element to the power 254. -/
def ginv (a : Nat) : Nat := gpow a 254

/-- P and Q of one byte of positions 0 to 7 (R361). -/
def encodeByte (d : List Nat) : Nat × Nat := d.foldr (fun x r => (r.1 ^^^ x, gmul2 r.2 ^^^ x)) (0, 0)

/-- The eight data bytes from any eight known positions (R361). -/
def recoverByte (known : List (Nat × Nat)) : List Nat :=
  let at_ (k : Nat) : Option Nat := (known.find? (fun e => e.1 == k)).map (·.2)
  let sp := known.foldl (fun a e => if e.1 < 8 then a ^^^ e.2 else a) 0
  let sq := known.foldl (fun a e => if e.1 < 8 then a ^^^ gmul (gpow 2 e.1) e.2 else a) 0
  let fill (f : Nat → Nat) : List Nat := (List.range 8).map (fun k => (at_ k).getD (f k))
  match (List.range 8).filter (fun k => (at_ k).isNone) with
  | [] => fill (fun _ => 0)
  | [t] =>
    let v := match at_ 8 with
      | some p => p ^^^ sp
      | none => gmul ((at_ 9).getD 0 ^^^ sq) (ginv (gpow 2 t))
    fill (fun _ => v)
  | t :: u :: _ =>
    let p := (at_ 8).getD 0 ^^^ sp
    let q := (at_ 9).getD 0 ^^^ sq
    let v := gmul (q ^^^ gmul (gpow 2 u) p) (ginv (gpow 2 t ^^^ gpow 2 u))
    fill (fun k => if k = t then v else v ^^^ p)

/-- One byte of position `t` from eight known positions; P and Q are encoded from the data (R363). -/
def targetByte (t : Nat) (known : List (Nat × Nat)) : Nat :=
  let d := recoverByte known
  if t < 8 then d.getD t 0 else if t = 8 then (encodeByte d).1 else (encodeByte d).2

/-- Position `t` byte by byte from eight extents. -/
def targetBytes (t : Nat) (srcs : List (Nat × List Byte)) (n : Nat) : List Byte :=
  match n with
  | 0 => []
  | n + 1 =>
    BitVec.ofNat 8 (targetByte t (srcs.map (fun e => (e.1, (e.2.headD 0).toNat)))) ::
      targetBytes t (srcs.map (fun e => (e.1, e.2.tail))) n

/-! ### Groups (R360, R362) -/

/-- The state of an encoded group by the positions lost. -/
def lostState (n : Nat) : PgState :=
  match n with
  | 0 => .whole
  | 1 => .degraded
  | 2 => .critical
  | _ => .broken

/-- Whether a group's parity counts (R363). -/
def pgEncoded (g : PGroup) : Bool :=
  g.st == .whole || g.st == .degraded || g.st == .critical || g.st == .rebuilding || g.st == .broken

/-- The groups of a domain in which this device holds a position or is REB_DEV. -/
def ownGroups (d : Nat) (s : State) : List Nat :=
  (List.range (pgCount d s)).filter (fun n =>
    ownPositions d n s != [] || (pgEntry d n s).rebDev == (ownDev s).toNat)

/-- The state of a group, its lost positions counted as they are now (R362). -/
def pgState (d n : Nat) (s : State) : PgState :=
  let g := pgroup d n s
  let c := (lostNow d n s).length
  if !pgEncoded g then g.st else if 3 ≤ c then .broken else if g.st = .rebuilding then .rebuilding else lostState c

/-- A group is BROKEN: what this device holds of it is POISONED without a source; weight sets follow R240 step 5, and for
other objects the fallback follows (R382). Whether it does is the answer. -/
def breakGroup (d n : Nat) (s : State) : Bool × State :=
  let e := pgEntry d n s
  let g := pgroup d n s
  let xs := ((List.range 10).filter (fun k => posDev e g k == (ownDev s).toNat)).flatMap (fun k =>
    ((List.range e.next).map (posExt e g k + ·)).filter (fun x => (ext x s).kind == .object))
  let other := xs.any (fun x => !busyMember (ext x s).obj.toNat s)
  let s := setPgroup d n { g with st := .broken, target := none } s
  let s := setSurvive { s.survive with jobs := s.survive.jobs.filter (fun y => !(y.dom == d && y.group == n)) } s
  (other, foldS xs (fun x s =>
    if (ext x s).st = .poisoned ∧ s.weights.noSource.contains x then s
    else
      let s := poisonExt x s
      if busyMember (ext x s).obj.toNat s then loseSource x s else s) (report (Blk.sr d) Code.svParityLost s))

/-- Groups of a domain that have become BROKEN are broken here; whether the fallback follows (R382). -/
def breakGroups (d : Nat) (s : State) : Bool × State :=
  (ownGroups d s).foldl (fun r n =>
    if pgState d n r.2 = .broken ∧ (pgroup d n r.2).st ≠ .broken then
      let q := breakGroup d n r.2
      (r.1 || q.1, q.2)
    else r) (false, s)

/-- Devices have been lost: their positions are lost in every group of the domain's table, of which a device that holds no
position hears too (R362, R364). -/
def losePositions (d : Nat) (devs : List W16) (s : State) : State :=
  foldS (List.range (pgCount d s)) (fun n s =>
    let e := pgEntry d n s
    let g := pgroup d n s
    let more := (List.range 10).filter (fun k => !g.lost.contains k && devs.any (fun v => v.toNat == posDev e g k))
    if more = [] then s else setPgroup d n { g with lost := g.lost ++ more } s) s

/-! ### Transfers (R362, R380) -/

def pqGetBody (d n x : Nat) : List Byte := [BitVec.ofNat 8 d, 0] ++ leBytes 2 n ++ leBytes 4 x

/-- The kind header of PQ_DATA; the piece stands in the low four bits of the extent field (log 26). -/
def pqDataHeader (status : W16) (n x piece : Nat) (digest : W64) : List Byte :=
  leBytes 2 status.toNat ++ leBytes 2 n ++ leBytes 4 (x * 16 + piece) ++ leBytes 8 digest.toNat

/-- Charges the house an extent read or written where it lies in LPDDR5X (R271, R284, R286). -/
def houseExtent (x : Nat) (s : State) : State :=
  charge none house 0 (if 65536 ≤ x then extBytes else 0) 0 0 s

/-- Sends an extent in 16 messages. -/
def sendExtent (dst : W16) (tag : BitVec 14) (n x : Nat) (bytes : List Byte) (s : State) : State :=
  foldS (List.range 16) (fun i s =>
    sendHouse 65536 { dst := dst, kind := 0x98, tag := tag,
                      body := pqDataHeader 0 n x i (crc64 bytes) ++ (bytes.drop (65536 * i)).take 65536 } s) s

def sendPqAck (dst : W16) (status : W16) (x : Nat) (s : State) : State :=
  sendHouse 0 { dst := dst, kind := 0x99, body := leBytes 2 status.toNat ++ [0, 0] ++ leBytes 4 x } s

/-- The committed bytes of an extent. -/
def extentBytes (x : Nat) (s : State) : List Byte := s.mem.bytesFrom ((ext x s).phys.toNat * extBytes) extBytes
def putExtent (x : Nat) (bs : List Byte) (s : State) : State :=
  let s := ownVersion x [] s
  setMem (s.mem.setBytes ((ext x s).phys.toNat * extBytes) bs) s

/-- The rebuild of the lost position of a group is over: the rebuilt one takes its place (R363). -/
def endRebuilt (d n : Nat) (s : State) : State :=
  let g := pgroup d n s
  match g.target with
  | none => s
  | some t =>
    let lost := g.lost.filter (· ≠ t)
    let st := if ownPositions d n s = [] then g.st else lostState lost.length
    setPgroup d n { st := st, lost := lost, rebuilt := some t
                    rebuiltFor := (pgEntry d n s).dev.getD t 0 } s

/-- The group as an encoding leaves it in state `st`: positions whose devices are still in LOST stay lost, and a rebuilt one
stays where it is (R362, R363). -/
def encodeGroup (d n : Nat) (st : PgState) (s : State) : State :=
  let e := pgEntry d n s
  let g := pgroup d n s
  let gone (k : Nat) : Bool := (surv d s).lost.any (fun v => v.toNat == posDev e g k)
  setPgroup d n { g with st := st, lost := g.lost.filter gone, target := none, done := 0, bad := [] } s

/-- What a holder learns of its group from an extent read there: the encoder's reading moves the group through ENCODING to
PROTECTED, unless a write has made it STALE meanwhile; the reading of its last extent by REB_DEV ends the rebuild as far as
this device can tell (R362, R363; log 26). -/
def noteRead (src : W16) (d n x : Nat) (s : State) : State :=
  let e := pgEntry d n s
  let g := pgroup d n s
  let first := (ownPositions d n s).any (fun k => posExt e g k == x)
  let last := (ownPositions d n s).any (fun k => posExt e g k + e.next == x + 1)
  if pgCount d s ≤ n then s
  else if src.toNat = posDev e g 8 ∧ (g.st = .encoding ∨ (g.st = .stale ∧ first)) then
    encodeGroup d n (if last then .whole else .encoding) s
  else if src.toNat = e.rebDev ∧ last then endRebuilt d n s
  else s

/-- PQ_GET: the extent is sent. -/
def takePqGet (src : W16) (tag : BitVec 14) (d n x : Nat) (s : State) : State :=
  if (ext x s).kind ≠ .object then
    sendHouse 0 { dst := src, kind := 0x98, tag := tag, body := pqDataHeader Code.memRange n x 0 0 } s
  else if (ext x s).st = .poisoned ∨ (ext x s).st = .rebuilding then
    sendHouse 0 { dst := src, kind := 0x98, tag := tag, body := pqDataHeader Code.extentPoisoned n x 0 0 } s
  else noteRead src d n x (sendExtent src tag n x (extentBytes x s) (houseExtent x s))

/-! ### Jobs (R362, R363) -/

def setJobs (l : List PqJob) (s : State) : State := setSurvive { s.survive with jobs := l } s
def putJob (a b : PqJob) (s : State) : State := setJobs (s.survive.jobs.map (fun x => if x = a then b else x)) s
def endJob (a : PqJob) (s : State) : State := setJobs (s.survive.jobs.erase a) s

/-- The whole extent of a source position, once all of it has come. -/
def PqJob.source (x : PqJob) (k : Nat) : Option (List Byte) :=
  let ps := x.got.filter (·.pos == k)
  match ps.find? (fun p => p.data.length == extBytes) with
  | some p => some p.data
  | none =>
    if (List.range 16).all (fun i => ps.any (fun p => p.off == 65536 * i)) then
      some ((List.range 16).flatMap (fun i => ((ps.find? (fun p => p.off == 65536 * i)).map (·.data)).getD []))
    else none

/-- Asks a source position for its extent, or reads it here. -/
def askSource (x : PqJob) (k : Nat) (s : State) : State :=
  let e := pgEntry x.dom x.group s
  let g := pgroup x.dom x.group s
  let dev := posDev e g k
  let y := posExt e g k + x.j
  if dev = (ownDev s).toNat then
    putJob x { x with got := x.got ++ [{ pos := k, off := 0, data := extentBytes y s }] } (houseExtent y s)
  else sendHouse 0 { dst := w16 dev, kind := 0x97, body := pqGetBody x.dom x.group y } s

/-- The same ordinal of a member is read from another quay's copy: whether that copy fits and where it lies are free (R240
step 3; log 18). -/
def altRebuild (x : Nat) (dev : W16) (s : State) : State :=
  let (k, s) := nextFree s
  if Config.freeNat k % 2 = 0 then loseSource x s
  else
    let (a, s) := nextFree s
    let addr := (Config.freeWord a).toNat / extBytes * extBytes % 2 ^ 48
    askAlt x dev addr (setWeights { s.weights with
      alts := s.weights.alts.filter (fun y => y.ext != x) ++ [{ ext := x, dev := dev, addr := addr }] } s)

/-- ALT_DEV of the slots that an object is a member of, 0xFFFF for none. -/
def altDevOf (o : Nat) (s : State) : W16 :=
  (((slotsWith o s).map (fun k => (wsSlot k s).altDev)).find? (· ≠ 0xFFFF)).getD 0xFFFF

/-- The source of a remapped weight extent that parity does not rebuild: another quay's copy, or none (R240 step 3). -/
def weightSource (x : Nat) (s : State) : State :=
  let dev := altDevOf (ext x s).obj.toNat s
  if dev = 0xFFFF then loseSource x s else altRebuild x dev s

/-- A job cannot go on: an encoding leaves the group STALE; a poisoned extent takes another source or stays POISONED; the
rebuild of a position waits for sources. -/
def failJob (x : PqJob) (s : State) : State :=
  let s := endJob x s
  match x.what with
  | .encode => staleGroup x.dom x.group s
  | .extent =>
    if busyMember (ext x.dst s).obj.toNat s then weightSource x.dst s
    else if (ext x.dst s).st = .rebuilding then setExt x.dst { ext x.dst s with st := .poisoned } s else s
  | .position => s

/-- Writes what a job has computed once every source has come: P here and Q to DEV[9], or the target. -/
def finishJob (x : PqJob) (s : State) : State :=
  let srcs := x.srcs.filterMap (fun k => (x.source k).map (fun b => (k, b)))
  if srcs.length ≠ x.srcs.length ∨ x.ready then s
  else
    let s := houseExtent x.dst (putExtent x.dst (targetBytes x.pos srcs extBytes) s)
    match x.what with
    | .encode =>
      let e := pgEntry x.dom x.group s
      let g := pgroup x.dom x.group s
      let q := targetBytes 9 srcs extBytes
      sendExtent (w16 (posDev e g 9)) 0 x.group (posExt e g 9 + x.j) q
        (putJob x { x with ready := true, q := q, got := [] } s)
    | _ => putJob x { x with ready := true, got := [] } s

/-- The job as it stands after its local sources were read. -/
def jobNow (x : PqJob) (s : State) : PqJob :=
  (s.survive.jobs.find? (fun y => y.what == x.what && y.dom == x.dom && y.group == x.group && y.pos == x.pos && y.j == x.j)).getD x

/-- Starts a job: every source position is read. -/
def startJob (x : PqJob) (s : State) : State :=
  let s := setJobs (s.survive.jobs ++ [x]) s
  let s := foldS x.srcs (fun k s => askSource (jobNow x s) k s) s
  finishJob (jobNow x s) s

/-- Eight present positions other than `t`, data positions first, none where they do not suffice or the group's parity does
not count (R363). -/
def goodSources (d n t : Nat) (s : State) : Option (List Nat) :=
  let g := pgroup d n s
  let out := lostNow d n s ++ g.bad
  let l := ((List.range 10).filter (fun k => k != t && !out.contains k)).take 8
  if l.length = 8 && pgEncoded g then some l else none

/-- Position `k` has failed as a source of a rebuild: the extent is begun again from eight others, if there are eight (R363). -/
def failSource (x : PqJob) (k : Nat) (s : State) : State :=
  if x.what = .encode then failJob x s
  else
    let g := pgroup x.dom x.group s
    let s := setPgroup x.dom x.group { g with bad := g.bad ++ [k] } (endJob x s)
    match goodSources x.dom x.group x.pos s with
    | some l => startJob { x with srcs := l, got := [], again := [], ready := false } s
    | none => failJob x s

/-- Positions of a group have been lost: what still waits for an extent of one takes another source, or ends (R363, R382). -/
def resourceJobs (d : Nat) (s : State) : State :=
  foldS (s.survive.jobs.filter (fun x => x.dom == d && !x.ready)) (fun x s =>
    match x.srcs.find? (fun k => (pgroup d x.group s).lost.contains k && (x.source k).isNone) with
    | some k => failSource x k s
    | none => s) s

/-- ENCODE of an extent of the group. With a position lost it cannot be encoded and is STALE (R362). -/
def encodeJob (d n j : Nat) (s : State) : State :=
  let g := pgroup d n s
  if (lostNow d n s) ≠ [] then staleGroup d n s
  else
    startJob { what := .encode, dom := d, group := n, pos := 8, j := j, dst := posExt (pgEntry d n s) g 8 + j
               srcs := List.range 8 } s

/-- ENCODE is accepted (R362). -/
def startEncode (d n : Nat) (s : State) : State :=
  let s := encodeGroup d n .encoding s
  encodeJob d n 0 (setJobs (s.survive.jobs.filter (fun x => !(x.what == .encode && x.dom == d && x.group == n))) s)

/-- The rebuild area of a group on REB_DEV may not be read before the position is rebuilt (R363, R364). -/
def setArea (v : ExtState) (d n : Nat) (s : State) : State :=
  let e := pgEntry d n s
  foldS ((List.range e.next).map (e.rebExt + ·)) (fun x s =>
    if (ext x s).kind = .object then setExt x { ext x s with st := v } s else s) s

/-- Rebuild of the next extent of the lost position `t` on REB_DEV (R363). -/
def positionJob (d n t j : Nat) (s : State) : State :=
  match goodSources d n t s with
  | none => s
  | some l =>
    startJob { what := .position, dom := d, group := n, pos := t, j := j, dst := (pgEntry d n s).rebExt + j, srcs := l } s

/-- A source's extent has come or has failed (R337, R362); a group that has become STALE meanwhile rebuilds nothing (R363). -/
def takeSource (x : PqJob) (src status : W16) (k y piece : Nat) (digest : W64) (data : List Byte) (s : State) : State :=
  if status ≠ 0 then failSource x k s
  else if x.what ≠ .encode ∧ !pgEncoded (pgroup x.dom x.group s) then failJob x s
  else
    let z := { x with got := x.got.filter (fun p => !(p.pos == k && p.off == 65536 * piece)) ++
      [{ pos := k, off := 65536 * piece, data := data }] }
    let s := putJob x z (charge none house 0 0 0 data.length s)
    let f : FaultAt := { page := Pg.survive, src := src, addr := extAddr y, dom := some x.dom, port := lastPort src s }
    match z.source k with
    | none => s
    | some bs =>
      if crc64 bs = digest then
        finishJob z (if x.again.contains k then transientFault Code.digestMismatch f s else s)
      else if x.again.contains k then
        failSource z k (lastingFault Code.digestMismatch 0 f (report (Blk.sr x.dom) Code.digestMismatch s))
      else
        let w := { z with got := z.got.filter (·.pos != k), again := z.again ++ [k] }
        askSource w k (putJob z w s)

/-- Q comes to DEV[9]: it is written as the committed version and acknowledged (R362, R363). -/
def takeQ (src : W16) (d n x piece : Nat) (digest : W64) (data : List Byte) (s : State) : State :=
  let s := ownVersion x [] (charge none house 0 (if 65536 ≤ x then data.length else 0) 0 data.length s)
  let s := setMem (s.mem.setBytes ((ext x s).phys.toNat * extBytes + 65536 * piece) data) s
  if piece ≠ 15 then s
  else
    let e := pgEntry d n s
    let again := s.survive.qRetry.contains x
    let s := setSurvive { s.survive with qRetry := s.survive.qRetry.filter (· ≠ x) } s
    let f : FaultAt := { page := Pg.survive, src := src, addr := extAddr x, dom := some d, port := lastPort src s }
    if crc64 (extentBytes x s) = digest then
      let s := if again then transientFault Code.digestMismatch f s else s
      let g := pgroup d n s
      let st : PgState :=
        if g.st ≠ .encoding ∧ x ≠ posExt e g 9 then g.st
        else if x + 1 = posExt e g 9 + e.next then .whole
        else .encoding
      sendPqAck src 0 x (encodeGroup d n st s)
    else if again then
      sendPqAck src Code.digestMismatch x
        (lastingFault Code.digestMismatch 0 f (report (Blk.sr d) Code.digestMismatch s))
    else sendPqAck src Code.digestMismatch x (setSurvive { s.survive with qRetry := s.survive.qRetry ++ [x] } s)

/-- PQ_DATA: for a job of this device, or Q for DEV[9]. -/
def takePqData (src status : W16) (d n x piece : Nat) (digest : W64) (data : List Byte) (s : State) : State :=
  let e := pgEntry d n s
  let g := pgroup d n s
  let hit (y : PqJob) : Option (PqJob × Nat) :=
    if y.dom = d ∧ y.group = n ∧ !y.ready then
      (y.srcs.find? (fun k => posDev e g k == src.toNat && posExt e g k + y.j == x)).map (fun k => (y, k))
    else none
  match s.survive.jobs.findSome? hit with
  | some (y, k) => takeSource y src status k x piece digest data s
  | none =>
    if n < pgCount d s ∧ posDev e g 9 = (ownDev s).toNat ∧ src.toNat = posDev e g 8 ∧ inRun (posExt e g 9) e.next x ∧
        status = 0 then takeQ src d n x piece digest data s
    else s

/-- PQ_ACK: Q of an extent has been written; the encoding goes on or ends (R362). -/
def takePqAck (src status : W16) (x : Nat) (s : State) : State :=
  let hit (y : PqJob) : Bool :=
    let e := pgEntry y.dom y.group s
    let g := pgroup y.dom y.group s
    y.what == .encode && y.ready && posDev e g 9 == src.toNat && posExt e g 9 + y.j == x
  match s.survive.jobs.find? hit with
  | none => s
  | some y =>
    let e := pgEntry y.dom y.group s
    if status ≠ 0 then
      if y.resent then failJob y s
      else sendExtent src 0 y.group x y.q (putJob y { y with resent := true } s)
    else
      let s := endJob y s
      if (pgroup y.dom y.group s).st ≠ .encoding then s
      else if y.j + 1 < e.next then encodeJob y.dom y.group (y.j + 1) s
      else encodeGroup y.dom y.group .whole s

/-- An extent of a position that REB_DEV rebuilds is written: the next one follows, and the last one makes the whole area
readable (R363, R364), unless the group has become STALE. -/
def endPosition (x : PqJob) (s : State) : State :=
  let g := pgroup x.dom x.group s
  if g.target ≠ some x.pos then s
  else if x.j + 1 < (pgEntry x.dom x.group s).next then
    positionJob x.dom x.group x.pos (x.j + 1) (setPgroup x.dom x.group { g with done := x.j + 1 } s)
  else endRebuilt x.dom x.group (setArea .idle x.dom x.group s)

/-- REBUILD_COMPLETE: an extent whose data has been written returns to IDLE (R215, R240, R363). -/
def rebuilt (x : Nat) (s : State) : State :=
  if (ext x s).st ≠ .rebuilding then s
  else
    let idle (s : State) : State := setExt x { ext x s with st := .idle } s
    match s.survive.jobs.find? (fun y => y.what != .encode && y.dst == x) with
    | some y =>
      if !y.ready then s
      else
        let s := endJob y s
        if y.what = .extent then idle s else endPosition y s
    | none =>
      if altWaits x s then s else idle s

/-! ### Rebuilds that the device starts itself (R240, R363) -/

/-- The parity group that can rebuild extent `x` and eight positions there: its state, the extent's own loss apart, is
PROTECTED, DEGRADED or REBUILDING (R363; log 26). -/
def paritySource (x : Nat) (s : State) : Option (Nat × Nat × Nat × Nat × List Nat) :=
  (pgPlaces x s).findSome? (fun q =>
    let g := pgroup q.1 q.2.1 s
    let others := ((lostNow q.1 q.2.1 s).filter (· ≠ q.2.2.1)).length
    if pgEncoded g ∧ g.st ≠ .broken ∧ (others ≤ 1 ∨ g.st = .rebuilding) then
      (goodSources q.1 q.2.1 q.2.2.1 s).map (fun l => (q.1, q.2.1, q.2.2.1, q.2.2.2, l))
    else none)

/-- One poisoned object extent at a base tick: REMAP and the choice of a source (R240 steps 2 and 3, R363). -/
def startRebuild (x : Nat) (s : State) : State :=
  let o := (ext x s).obj.toNat
  let weight := busyMember o s
  let src := if (obj o s).sclass = 1 then paritySource x s else none
  if !weight && src.isNone then s
  else
    match remapExt x s with
    | .error _ => if weight then leavePoisoned x s else s
    | .ok s =>
      match src with
      | some (d, n, t, j, l) => startJob { what := .extent, dom := d, group := n, pos := t, j := j, dst := x, srcs := l } s
      | none => weightSource x s

/-- Group `n` of domain `d` at rank 8: the first lost position is being rebuilt on REB_DEV, where it is present and holds no
rebuilt position yet; there the rebuild starts or resumes (R363). -/
def groupRebuild (d n : Nat) (s : State) : State :=
  let e := pgEntry d n s
  let g := pgroup d n s
  let own := e.rebDev == (ownDev s).toNat
  let present := e.rebDev != 0xFFFF && !(surv d s).lost.any (fun v => v.toNat == e.rebDev)
  let busy := s.survive.jobs.any (fun y => y.what == .position && y.dom == d && y.group == n)
  match g.lost with
  | [] => s
  | t :: r =>
    if (List.range 10).any (isRebuilt e g) ∨ !pgEncoded g ∨ pgState d n s = .broken ∨ !present ∨ busy then s
    else
      let t := g.target.getD (r.foldl min t)
      let s := setPgroup d n { g with st := .rebuilding, target := some t, bad := [] } s
      if own then positionJob d n t g.done (if g.target = none then setArea .rebuilding d n s else s) else s

/-- The first lost position of group `n`, where REB_DEV is present and holds no rebuilt position yet, and this device is neither
REB_DEV nor one of the eight sources: no message tells it that the rebuild has ended (R363). -/
def deafTo (d n : Nat) (s : State) : Option Nat :=
  let e := pgEntry d n s
  let g := pgroup d n s
  let own := (ownDev s).toNat
  match g.lost with
  | [] => none
  | t :: r =>
    let t := g.target.getD (r.foldl min t)
    if (List.range 10).any (isRebuilt e g) || e.rebDev == own || e.rebDev == 0xFFFF ||
        (surv d s).lost.any (fun v => v.toNat == e.rebDev) ||
        (ownPositions d n s != [] && g.st != .rebuilding) ||
        ((goodSources d n t s).getD []).any (fun k => posDev e g k == own) then none
    else some t

/-- A device that REB_DEV does not read learns at some base tick that the rebuild has ended; at which is free (log 26). -/
def hearRebuilt (d n : Nat) (s : State) : State :=
  match deafTo d n s with
  | none => s
  | some t =>
    let (k, s) := nextFree s
    if Config.freeNat k % 2 = 0 then s
    else endRebuilt d n (setPgroup d n { pgroup d n s with target := some t } s)

/-- Rank 8: poisoned extents that have a source are remapped and rebuilt, then lost positions (R240, R363). -/
def startRebuilds (s : State) : State :=
  let xs := (s.mem.exts.filter (fun e => e.2.kind == .object && e.2.st == .poisoned &&
    !s.weights.noSource.contains e.1)).map (·.1)
  let s := foldS xs startRebuild s
  foldS (List.range 16) (fun d s =>
    if (surv d s).en then
      foldS (List.range (pgCount d s)) (hearRebuilt d) (foldS (ownGroups d s) (groupRebuild d) s)
    else s) s

/-- PQ_STALE (R362). -/
def takeStale (d n : Nat) (s : State) : State :=
  if ownPositions d n s = [] ∨ pgCount d s ≤ n then s
  else staleGroup d n s

/-! ### Commands -/

/-- REBUILD_COMPLETE (R215). -/
def execRebuildComplete (x : BitVec 21) (s : State) : Outcome := awake s (.next (rebuilt x.toNat s))

/-- PQ_GET (R362). -/
def execPqGet (src : W16) (tag : BitVec 14) (d : DomIdx) (group : W16) (x : BitVec 21) (s : State) : Outcome :=
  awake s (.next (takePqGet src tag d.toNat group.toNat x.toNat s))

/-- PQ_DATA (R362). -/
def execPqData (src status : W16) (d : DomIdx) (group : W16) (x : BitVec 21) (piece : BitVec 4) (digest : W64)
    (data : List Byte) (s : State) (port : PortIdx := 0) : Outcome :=
  awake s (.next (takePqData src status d.toNat group.toNat x.toNat piece.toNat digest data (noteArrival src port.val s)))

/-- PQ_ACK (R362). -/
def execPqAck (src status : W16) (x : BitVec 21) (s : State) : Outcome := awake s (.next (takePqAck src status x.toNat s))

/-- PQ_STALE (R362). -/
def execPqStale (d : DomIdx) (group : W16) (s : State) : Outcome := awake s (.next (takeStale d.toNat group.toNat s))

end Sys2Proof.Machine
end

