-- ==== Sys2Proof/Machine/Checkpoint.lean ====
section
/-! DEFINITION. Survival class L: checkpoints, their copies at the buddies, the step log (R365 to R370), and the recovery plan
(R371, R372). -/

namespace Sys2Proof.Machine
open Sys2Proof

/-! ### The step-control object (R260) -/

def stepGet (d off n : Nat) (s : State) : Nat :=
  let o := (member d s).stepObj
  if o = 0xFFFF then 0 else objNum o.toNat off n none s

def stepPut (d off v : Nat) (s : State) : State :=
  let o := (member d s).stepObj
  if o = 0xFFFF then s else objPut o.toNat off (leBytes 8 v) s

/-! ### Class L (R359, R365) -/

/-- The class L objects that domain `d` writes. -/
def lObjs (d : Nat) (s : State) : List Nat :=
  (s.mem.objs.filter (fun e => e.2.valid && e.2.sclass == 2 && e.2.writer.toNat == d)).map (·.1)

/-- Their extents, in object order and then ordinal order (R367). -/
def lExts (d : Nat) (s : State) : List Nat :=
  (lObjs d s).flatMap (fun o => (List.range (obj o s).extCount.toNat).filterMap (fun k => objExt o k s))

/-- Entry `w` of the ward table: BUDDY and WARD. -/
def wardEntry (d w : Nat) (s : State) : W16 × Nat :=
  let v := objNum (surv d s).wardObj.toNat (8 * w) 8 none s
  (w16 (v / 2 ^ 48), v / 2 ^ 32 % 2 ^ 16)

/-- The buddy of an extent of a class L object. -/
def buddyOf (d x : Nat) (s : State) : W16 := (wardEntry d (obj (ext x s).obj.toNat s).sgroup.toNat s).1

/-! ### Checkpoints (R366, R367) -/

/-- A version is no longer retained: it goes unless something else keeps it. -/
def releaseVersions (c : Option Ckpt) (s : State) : State :=
  match c with
  | none => s
  | some c =>
    foldS c.exts (fun e s =>
      if (ext e.1 s).phys.toNat = e.2 ∨ s.mem.old.any (fun o => o.phys == e.2) then s else freePhys e.2 s) s

/-- CKPT_DATA of one extent: its 16 messages to the buddy (R367, R380). `w` is the ward extent there. -/
def sendCkpt (d x w : Nat) (step : W64) (s : State) : State :=
  let phys := ((((surv d s).newer.map (·.exts)).getD []).find? (fun e => e.1 == x)).map (·.2)
  let bytes := s.mem.bytesFrom (phys.getD (ext x s).phys.toNat * extBytes) extBytes
  let s := charge none (serveOf d s).client 0 (if 65536 ≤ x then extBytes else 0) extBytes 0 s
  foldS (List.range 16) (fun i s =>
    send { dst := buddyOf d x s
           kind := 0x90
           body := [BitVec.ofNat 8 d, 0, 0, 0] ++ leBytes 4 w ++ leBytes 4 (65536 * i) ++
             [BitVec.ofNat 8 (b2n (i == 15)), 0, 0, 0] ++ leBytes 8 step.toNat ++
             leBytes 8 (if i = 15 then (crc64 bytes).toNat else 0) ++ (bytes.drop (65536 * i)).take 65536 } s) s

/-- CKPT_DONE to the leader and its alternate (R367). -/
def sendDone (d : Nat) (step : W64) (s : State) : State :=
  let body := [BitVec.ofNat 8 d] ++ List.replicate 7 0 ++ leBytes 8 step.toNat
  send { dst := (surv d s).rlAlt, kind := 0x92, body := body } (send { dst := (surv d s).rl, kind := 0x92, body := body } s)

/-- The ward extent of an extent: the same ordinal of the ward object at the buddy (R365). Which extent number that ordinal
has there is the buddy's to say and a free value here (log 26). -/
def wardExtOf (d x : Nat) (s : State) : Nat :=
  let e := ext x s
  let w := wardEntry d (obj e.obj.toNat s).sgroup.toNat s
  Config.wardExt w.1.toNat w.2 e.ord.toNat % 2 ^ 21

/-- Every extent of NEW goes to its buddy. -/
def copyCkpt (d : Nat) (step : W64) (s : State) : State :=
  let xs := lExts d s
  let s := foldS xs (fun x s =>
    let w := wardExtOf d x s
    sendCkpt d x w step (modSurv d (fun v => { v with unacked := v.unacked ++ [(x, w)] }) s)) s
  if xs = [] then sendDone d step s else s

/-- The extents whose committed versions a checkpoint retains: those of class L, and those of adopted ward objects, which a
later rollback takes back as well (R366, R378; log 26). -/
def ckptExts (d : Nat) (s : State) : List Nat :=
  lExts d s ++ ((surv d s).adopted.flatMap (fun o =>
    (List.range (obj o s).extCount.toNat).filterMap (fun k => objExt o k s)))

/-- Rank 4 of the commit of a FINAL frame: the checkpoint, if one is due (R366, R383). -/
def takeCheckpoint (d : Nat) (s : State) : State :=
  let x := surv d s
  let step := stepGet d 0 8 s
  if !x.en || !(x.ckptNow || (x.ckptK != 0 && step % x.ckptK.toNat == 0)) then s
  else if x.newer.isSome then
    report (Blk.sr d) Code.ckptLate (setSurv d { x with ckptNow := false } s)
  else
    let k : Ckpt := { step := w64 step, exts := (ckptExts d s).map (fun e => (e, (ext e s).phys.toNat)) }
    copyCkpt d k.step (setSurv d { x with ckptNow := false, newer := some k, unacked := [], resent := [] } s)

/-- CKPT_ACK at the holder: a mismatch is sent once more; with the last acknowledgement CKPT_DONE goes (R337, R367). -/
def takeCkptAck (src status : W16) (w : Nat) (s : State) : State :=
  let hit (d : Nat) : Option (Nat × Nat) :=
    ((surv d s).unacked.find? (fun e => e.2 == w && buddyOf d e.1 s == src)).map (fun e => (d, e.1))
  match (List.range 16).findSome? hit with
  | none => s
  | some (d, x) =>
    let v := surv d s
    match v.newer with
    | none => s
    | some k =>
      if status = 0 then
        let left := v.unacked.erase (x, w)
        let s := setSurv d { v with unacked := left } s
        if left = [] then sendDone d k.step s else s
      else if v.resent.contains x then s
      else sendCkpt d x w k.step (setSurv d { v with resent := v.resent ++ [x] } s)

/-! ### The buddy (R367) -/

def sendCkptAck (dst status : W16) (x : Nat) (s : State) : State :=
  send { dst := dst, kind := 0x91, body := leBytes 2 status.toNat ++ [0, 0] ++ leBytes 4 x } s

/-- Whether an extent belongs to a ward object (R365). -/
def isWard (x : Nat) (s : State) : Bool :=
  let e := ext x s
  let o := obj e.obj.toNat s
  x ≤ lastExt && e.kind == .object && o.valid && o.sclass == 0 && o.writer == 0x10

def setWards (l : List Ward) (s : State) : State := setSurvive { s.survive with wards := l } s

/-- The forming copy of a ward extent for a step: one that exists is written again. -/
def formWard (d x : Nat) (step : W64) (s : State) : Option (Nat × State) :=
  match s.survive.wards.find? (fun w => w.ext == x) with
  | some w => some (w.phys, setWards (s.survive.wards.map (fun y => if y = w then { w with step := step, dom := d } else y)) s)
  | none =>
    (takePhys x s).map (fun q => (q.1, setWards (q.2.survive.wards ++ [{ ext := x, phys := q.1, step := step, dom := d }]) q.2))

/-- The last piece of a copy: its digest decides (R337, R367). -/
def judgeWard (src : W16) (d x p : Nat) (digest : W64) (s : State) : State :=
  let again := s.survive.wards.any (fun w => w.ext == x && w.retried)
  let mark (v : Bool) (s : State) : State :=
    setWards (s.survive.wards.map (fun w => if w.ext = x then { w with retried := v } else w)) s
  let f : FaultAt := { page := Pg.survive, src := src, addr := extAddr x, dom := some d, port := lastPort src s }
  if crc64 (s.mem.bytesFrom (p * extBytes) extBytes) = digest then
    sendCkptAck src 0 x (mark false (if again then transientFault Code.digestMismatch f s else s))
  else if again then
    sendCkptAck src Code.digestMismatch x
      (mark false (lastingFault Code.digestMismatch 0 f (report (Blk.sr d) Code.digestMismatch s)))
  else sendCkptAck src Code.digestMismatch x (mark true s)

/-- CKPT_DATA at the buddy. -/
def takeCkptData (src : W16) (d x off : Nat) (last : Bool) (step digest : W64) (data : List Byte) (s : State) : State :=
  if !isWard x s || extBytes < off + data.length then (if last then sendCkptAck src Code.memRange x s else s)
  else
    match formWard d x step s with
    | none => if last then sendCkptAck src Code.freshPoolEmpty x s else s
    | some (p, s) =>
      let s := charge none (serveOf d s).client 0 (if 65536 ≤ x then data.length else 0) 0 data.length s
      let s := setMem (s.mem.setBytes (p * extBytes + off) data) s
      if last then judgeWard src d x p digest s else s

/-- A forming copy becomes the ward extent's committed version, as R43 flips versions. -/
def commitWard (w : Ward) (s : State) : State :=
  let e := ext w.ext s
  let s := setWards (s.survive.wards.erase w) s
  keepOld w.ext e.phys.toNat (openDoms s) (setExt w.ext { e with phys := BitVec.ofNat 21 w.phys } s)

def dropWard (w : Ward) (s : State) : State := freePhys w.phys (setWards (s.survive.wards.erase w) s)

/-! ### The recovery plan (R371) -/

structure LossEntry where
  dev : Nat
  newRl : Nat
  newAlt : Nat
  bud : List Nat
  first : Nat
  npatch : Nat

def planCount (d : Nat) (s : State) : Nat := objNum (surv d s).planObj.toNat 0 2 none s

def lossEntry (d i : Nat) (s : State) : LossEntry :=
  let p := (surv d s).planObj.toNat
  let o := 8 + 32 * i
  { dev := objNum p o 2 none s
    newRl := objNum p (o + 2) 2 none s
    newAlt := objNum p (o + 4) 2 none s
    bud := (List.range (min 8 (objNum p (o + 6) 2 none s))).map (fun k => objNum p (o + 16 + 2 * k) 2 none s)
    first := objNum p (o + 8) 4 none s
    npatch := objNum p (o + 12) 4 none s }

def lossEntries (d : Nat) (s : State) : List LossEntry := (List.range (planCount d s)).map (fun i => lossEntry d i s)

def entryOf (d dev : Nat) (s : State) : Option LossEntry := (lossEntries d s).find? (fun e => e.dev == dev)

/-! ### CKPT_DONE and CKPT_SAFE (R368) -/

/-- The leader sends CKPT_SAFE once it holds CKPT_DONE for a step from every member outside LOST, once in an epoch. The
effective tick beyond the two ticks that R368 asks is free. -/
def sendSafe (d : Nat) (step : W64) (s : State) : State :=
  let x := surv d s
  let members := (lossEntries d s).map (fun e => w16 e.dev)
  let epoch := (member d s).epoch
  if x.rl = ownDev s ∧ x.safeSent ≠ some (epoch, step) ∧
      (members.filter (fun m => !x.lost.contains m)).all (fun m => x.done.contains (m, step)) then
    let (k, s) := nextFree s
    send { dst := ctlGroup d s
           mc := true
           kind := 0x93
           body := [BitVec.ofNat 8 d, 0, 0, 0] ++ leBytes 4 epoch.toNat ++ leBytes 8 step.toNat ++
             leBytes 8 (now s + 2 + Config.freeNat k) }
      (setSurv d { x with
        lastSafe := some step, safeSent := some (epoch, step), done := x.done.filter (fun e => step.toNat ≤ e.2.toNat) } s)
  else s

/-- The epoch or the LOST set has changed: the leader sends CKPT_SAFE for the NEW checkpoint again, if it holds every
CKPT_DONE, since one of an older epoch is not applied (R368; log 26). -/
def resendSafe (d : Nat) (s : State) : State :=
  match (surv d s).newer with
  | some k => sendSafe d k.step s
  | none => s

/-- CKPT_DONE at the leader and the alternate. -/
def takeDone (src : W16) (d : Nat) (step : W64) (s : State) : State :=
  let x := surv d s
  if !x.en || (x.rl ≠ ownDev s ∧ x.rlAlt ≠ ownDev s) then s
  else sendSafe d step (setSurv d { x with done := x.done.filter (fun e => e != (src, step)) ++ [(src, step)] } s)

/-- CKPT_SAFE is received; one that is late is reported and recalls the frame (R30). Its step is the newest that a later
leader names as c* (R376). -/
def takeSafe (d : Nat) (epoch : W32) (step eff : W64) (s : State) : State :=
  if !(surv d s).en then s
  else
    let s := if epoch = (member d s).epoch then modSurv d (fun x => { x with lastSafe := some step }) s else s
    if eff.toNat ≤ now s then recallNamed d Code.eventLate (report (Blk.fd d) Code.eventLate s)
    else modSurv d (fun x => { x with safeAt := some (epoch, step, eff.toNat) }) s

/-- Rank 4: a CKPT_SAFE whose tick has come acts unless its epoch differs (R368). -/
def applySafe (d : Nat) (s : State) : State :=
  let x := surv d s
  match x.safeAt with
  | none => s
  | some (epoch, step, t) =>
    if now s < t then s
    else
      let s := setSurv d { x with safeAt := none } s
      if t < now s then recallNamed d Code.eventLate (report (Blk.fd d) Code.eventLate s)
      else if epoch ≠ (member d s).epoch then s
      else
        let s := foldS (s.survive.wards.filter (fun w => w.dom == d && w.step == step)) commitWard s
        match x.newer with
        | none => s
        | some k =>
          if k.step = step then
            releaseVersions x.safe (modSurv d (fun y => { y with safe := some k, newer := none, unacked := [], resent := [] }) s)
          else s

/-! ### The step log (R369) -/

/-- The log record of the step that the open frame ends. -/
def logRecord (d : Nat) (skip : Bool) (s : State) : List Byte :=
  let m := member d s
  let step := stepGet d 0 8 s
  let pos := stepGet d 24 8 s + step * (mapCounts m.map.toNat s).gd * stepGet d 32 4 s
  leBytes 8 step ++ leBytes 8 m.mode.toNat ++ leBytes 8 (pos % 2 ^ 64) ++ leBytes 8 (surv d s).seedTag.toNat ++
    leBytes 4 m.epoch.toNat ++ leBytes 4 (b2n skip) ++ leBytes 8 (dom d s).num.toNat ++ leBytes 8 (surv d s).check.toNat ++
    leBytes 8 0

/-- Where the record of a step lies in the log ring. -/
def logSlot (d step : Nat) (s : State) : Nat :=
  let n := (surv d s).logDepth.toNat
  if n = 0 then 0 else 64 * (step % n)

def loggedRecord (d step : Nat) (s : State) : List Byte :=
  objBytes (surv d s).logObj.toNat (logSlot d step s) 64 none s

def writeLog (d : Nat) (skip : Bool) (s : State) : State :=
  objPut (surv d s).logObj.toNat (logSlot d (stepGet d 0 8 s) s) (logRecord d skip s) s

/-! ### Plan patches (R371, R372) -/

structure Patch where
  kind : Nat
  b1 : Nat
  a23 : Nat
  a45 : Nat
  a67 : Nat
  addr : Nat
  value : Nat

def patchAt (d e : Nat) (s : State) : Patch :=
  let p := (surv d s).planObj.toNat
  let o := 8 + 32 * planCount d s + 16 * e
  { kind := objNum p o 1 none s
    b1 := objNum p (o + 1) 1 none s
    a23 := objNum p (o + 2) 2 none s
    a45 := objNum p (o + 4) 2 none s
    a67 := objNum p (o + 6) 2 none s
    addr := objNum p (o + 2) 6 none s
    value := objNum p (o + 8) 8 none s }

def patches (d : Nat) (e : LossEntry) (s : State) : List Patch :=
  (List.range e.npatch).map (fun i => patchAt d (e.first + i) s)

/-- Whether a REG patch names the domain's own group (R372). -/
def ownRegister (d page off : Nat) (s : State) : Bool :=
  let within (lo n : Nat) : Bool := lo ≤ off && off < lo + n
  off % 4 == 0 &&
    if page = Pg.frame then within (0x100 + 0x20 * d) 0x20
    else if page = Pg.caravan then within (0x100 + 0x10 * d) 0x10
    else if page = Pg.client then within (0x100 + 0x40 * d) 0x40
    else if page = Pg.survive then within (0x100 + 0x40 * d) 0x40
    else if page = Pg.reduce then
      match redGroup off with
      | some (c, _) => (redCtx c s).dom.toNat == d
      | none => false
    else false

/-- Whether an address is a channel table entry of a berth of the domain (R79, R372). -/
def ownChannel (d a : Nat) (s : State) : Bool :=
  let o := a % 0x10000000
  a / 0x10000000 < 256 && holdsBerth d (BitVec.ofNat 8 (a / 0x10000000)) s && 0x0FFFF800 ≤ o && o % 8 == 0

def patchOk (d : Nat) (p : Patch) (s : State) : Bool :=
  match p.kind with
  | 1 => p.b1 < 5 && p.a23 < tableSize p.b1 && p.a45 == 0 && p.a67 == 0
  | 2 => p.b1 == 0 && p.a67 == 0 && p.value < 2 ^ 32 && ownRegister d p.a23 p.a45 s
  | 3 => p.b1 == 0 && ownChannel d p.addr s
  | 4 => p.b1 == 0 && p.a45 == 0 && p.a67 == 0 && p.value == 0
  | _ => false

def planOk (d : Nat) (s : State) : Bool := (lossEntries d s).all (fun e => (patches d e s).all (fun p => patchOk d p s))

/-! ### Commands -/

/-- CKPT_DATA (R367). -/
def execCkptData (src : W16) (d : DomIdx) (x : BitVec 21) (off : W32) (last : Bool) (step digest : W64) (data : List Byte)
    (s : State) (port : PortIdx := 0) : Outcome :=
  awake s (.next (takeCkptData src d.toNat x.toNat off.toNat last step digest data (noteArrival src port.val s)))

/-- CKPT_ACK (R367). -/
def execCkptAck (src status : W16) (x : BitVec 21) (s : State) : Outcome := awake s (.next (takeCkptAck src status x.toNat s))

/-- CKPT_DONE (R368). -/
def execCkptDone (src : W16) (d : DomIdx) (step : W64) (s : State) : Outcome := awake s (.next (takeDone src d.toNat step s))

/-- CKPT_SAFE (R368). -/
def execCkptSafe (d : DomIdx) (epoch : W32) (step eff : W64) (s : State) : Outcome :=
  awake s (.next (takeSafe d.toNat epoch step eff s))

end Sys2Proof.Machine
end

