-- ==== Sys2Proof/Machine/Recovery.lean ====
section
/-! DEFINITION. The recovery machine (R374 to R387): loss notes, the leader's rulings, MEMBERSHIP, rollback, replay, the
fallback, and the SURVIVE page. -/

namespace Sys2Proof.Machine
open Sys2Proof

/-! ### The fallback (R383) -/

/-- The fallback: the domain is HELD, the membership state DRAINED; the recalled frame does not run again. -/
def fallback (d : Nat) (s : State) : State :=
  let s := report (Blk.sr d) Code.svFallback s
  let s := if isOpen d s then abortRun d s else s
  let s := modSurv d (fun x => { x with rstate := .fallback, received := none, staged := none }) s
  let s := modMember d (fun m => { m with st := .drained, actPending := false }) s
  modDom d (fun x =>
    if x.en then
      let cut := x.st = .opened ∨ x.st = .done ∨ x.st = .recalling
      { x with
        st := .held, heldRecalled := false, resumeAt := none, holdAfterAbort := none, holdReq := false, waitExt := [], waitPos := []
        num := if cut then x.num + 1 else x.num, replays := if cut then 0 else x.replays }
    else x) s

/-! ### The leader (R375, R376) -/

/-- Whether this device rules on a suspect of domain `d`: the leader, or the alternate where the leader is the suspect or is
lost (R375). -/
def isRuler (d : Nat) (suspect : W16) (s : State) : Bool :=
  let x := surv d s
  let gone := match x.sent with
    | some m => m.lost.contains x.rl
    | none => false
  x.en && (x.rl == ownDev s || (x.rlAlt == ownDev s && (suspect == x.rl || gone)))

/-- The LOST set and the epoch of the newest MEMBERSHIP known here. -/
def newestLost (d : Nat) (s : State) : List W16 × Nat :=
  let x := surv d s
  let ms := (x.sent.toList ++ (x.received.map (·.2)).toList ++ (x.staged.map (·.2)).toList)
  ms.foldl (fun a m => if a.2 < m.epoch.toNat then (m.lost, m.epoch.toNat) else a) (x.lost, (member d s).epoch.toNat)

/-- Whether a LOST set leads to the fallback (R376): a device in another's BUD list, more than eight, one without a loss entry,
or leader and alternate both lost. -/
def needsFallback (d : Nat) (lost : List W16) (s : State) : Bool :=
  let x := surv d s
  let inBud (a b : W16) : Bool :=
    match entryOf d b.toNat s with
    | some e => e.bud.contains a.toNat
    | none => false
  8 < lost.length || lost.any (fun a => (entryOf d a.toNat s).isNone) ||
    lost.any (fun a => lost.any (fun b => a != b && inBud a b)) || (lost.contains x.rl && lost.contains x.rlAlt)

/-- The body of a MEMBERSHIP (the membership body table). -/
def memberBytes (m : MemberBody) : List Byte :=
  leBytes 4 m.epoch.toNat ++ leBytes 2 m.rl.toNat ++ leBytes 2 m.rlAlt.toNat ++
    [BitVec.ofNat 8 m.lost.length, BitVec.ofNat 8 (b2n m.rollback + 2 * b2n m.fallback)] ++ leBytes 2 m.cause.toNat ++
    leBytes 4 0 ++ leBytes 8 m.ckpt.toNat ++ (List.range 8).flatMap (fun k => leBytes 2 (m.lost.getD k 0).toNat)

/-- The resume tick: the first base tick at or after the earliest T_det plus 23 µs (R376). -/
def resumeTick (t : W64) (s : State) : Nat := cdiv (t.toNat + 23000) (max 1 (s.tick.periodUs.toNat * 1000))

/-- Sends a MEMBERSHIP to every member outside LOST (R376), each with a body of 40 bytes (R284). -/
def sendMembership (d : Nat) (m : MemberBody) (t : W64) (s : State) : State :=
  let body := pad8 (leBytes 8 (resumeTick t s) ++ [2, BitVec.ofNat 8 d]) ++ memberBytes m
  foldS ((lossEntries d s).filter (fun e => !m.lost.contains (w16 e.dev))) (fun e s =>
    charge (some d) (serveOf d s).client 0 0 40 0 (send { dst := w16 e.dev, kind := 0x52, body := body } s)) s

/-- The earliest detection ruled on in this recovery. -/
def noteDet (d : Nat) (t : W64) (s : State) : W64 × State :=
  let x := surv d s
  let m := match x.tMin with
    | some u => if u.toNat < t.toNat then u else t
    | none => t
  (m, setSurv d { x with tMin := some m } s)

/-- The leader rules that a suspect is lost. -/
def ruleLost (d : Nat) (dev : W16) (t : W64) (s : State) : State :=
  let (lost, epoch) := newestLost d s
  let s := modSurv d (fun x => { x with suspects := x.suspects.filter (fun y => y.dev != dev) }) s
  if lost.contains dev then s
  else
    let (t, s) := noteDet d t s
    let x := surv d s
    let all := lost ++ [dev]
    let e := entryOf d dev.toNat s
    let s := if e.isNone then report (Blk.sr d) Code.svNoPlan s else s
    let m : MemberBody :=
      { epoch := w32 (epoch + 1)
        rl := (e.map (fun e => w16 e.newRl)).getD x.rl
        rlAlt := (e.map (fun e => w16 e.newAlt)).getD x.rlAlt
        rollback := true
        fallback := needsFallback d all s
        cause := Code.svDeviceLost
        ckpt := x.lastSafe.getD 0xFFFFFFFFFFFFFFFF
        lost := all.take 8 }
    sendMembership d m t (modSurv d (fun x => { x with sent := some m }) s)

/-- The leader rules that a suspect is alive: a path loss. A loss that has been ruled and not yet applied stays part of the
newer MEMBERSHIP (R376, R377). -/
def rulePath (d : Nat) (dev : W16) (t : W64) (s : State) : State :=
  let (lost, epoch) := newestLost d s
  let s := modSurv d (fun x => { x with suspects := x.suspects.filter (fun y => y.dev != dev) }) s
  let (t, s) := noteDet d t s
  let x := surv d s
  let more := lost.any (fun a => !x.lost.contains a)
  let rls := match x.sent with
    | some m => (m.rl, m.rlAlt)
    | none => (x.rl, x.rlAlt)
  let m : MemberBody :=
    { epoch := w32 (epoch + 1), rl := rls.1, rlAlt := rls.2
      rollback := more
      fallback := more && needsFallback d lost s
      cause := if more then Code.svDeviceLost else Code.linkLost
      ckpt := if more then x.lastSafe.getD 0xFFFFFFFFFFFFFFFF else 0xFFFFFFFFFFFFFFFF
      lost := lost }
  sendMembership d m t (modSurv d (fun x => { x with sent := some m }) s)

/-- The suspect that a PROBE went to, with its T_det. -/
def suspectOf (d : Nat) (dev : W16) (s : State) : Option Suspect := (surv d s).suspects.find? (fun y => y.dev == dev)

/-- The earlier of a note's T_det and that of the notes before it on the same suspect (R376). -/
def earlierDet (y : Option Suspect) (t : W64) : W64 :=
  match y with
  | some y => if y.tDet.toNat < t.toNat then y.tDet else t
  | none => t

/-- A LOSS_NOTE at the device that rules on its suspect (R375): a suspect that names itself is lost, another is probed. The
earliest detection of a suspect counts (R376). -/
def judgeNote (src : W16) (d : Nat) (suspect : W16) (t : W64) (s : State) : State :=
  let s := noteLoss d s
  let y := suspectOf d suspect s
  let t := earlierDet y t
  if suspect = src then ruleLost d suspect t s
  else if (newestLost d s).1.contains suspect then s
  else if y.isSome then
    modSurv d (fun x => { x with suspects := x.suspects.map (fun z => if z.dev = suspect then { z with tDet := t } else z) }) s
  else
    send { dst := suspect, kind := 0x95, body := [BitVec.ofNat 8 d] ++ List.replicate 7 0 }
      (modSurv d (fun x => { x with suspects := x.suspects ++ [⟨suspect, t⟩] }) s)

/-- The alternate that has ruled the leader lost acts as leader: it rules on the notes it has kept (R375). -/
def takeKept (d : Nat) (s : State) : State :=
  let l := (surv d s).notes.filter (fun n => isRuler d n.suspect s)
  if l = [] then s
  else foldS l (fun n s => judgeNote n.src d n.suspect n.tDet s) (modSurv d (fun x => { x with notes := [] }) s)

/-- LOSS_NOTE (R374, R375). The alternate keeps one on a suspect other than the leader: it may come to act as leader. -/
def takeLossNote (src : W16) (d : Nat) (suspect : W16) (t : W64) (s : State) : State :=
  if isRuler d suspect s then takeKept d (judgeNote src d suspect t s)
  else if (surv d s).en ∧ (surv d s).rlAlt = ownDev s then
    modSurv d (fun x => { x with notes := x.notes ++ [⟨src, suspect, t⟩] }) s
  else s

/-! ### MEMBERSHIP at a member (R377) -/

/-- MEMBERSHIP is received: dropped below or at the own epoch, late after its tick, else kept unless a newer one is staged;
where no recall was taken it is the recall. -/
def takeMembership (d : Nat) (eff : Nat) (m : MemberBody) (s : State) : State :=
  if !(dom d s).en || !(surv d s).en then s
  else
  let s := charge (some d) (serveOf d s).client 0 0 0 40 s
  if m.epoch.toNat ≤ (member d s).epoch.toNat then
    report (Blk.mb d) Code.epochStale { s with members := { s.members with stale := satInc s.members.stale } }
  else if eff ≤ now s then recallNamed d Code.eventLate (report (Blk.fd d) Code.eventLate s)
  else
    let s := if isOpen d s then takeOpenRecall d m.cause 0 s else s
    modSurv d (fun x =>
      if x.staged.any (fun y => m.epoch.toNat ≤ y.2.epoch.toNat) then x
      else
      match x.received with
      | some (_, y) => if y.epoch.toNat < m.epoch.toNat then { x with received := some (eff, m) } else x
      | none => { x with received := some (eff, m) }) s

/-- The devices that a MEMBERSHIP adds to LOST, by device. -/
def newlyLost (d : Nat) (m : MemberBody) (s : State) : List W16 :=
  let l := m.lost.filter (fun v => !(surv d s).lost.contains v)
  (l.foldl (fun a v => insNat a v.toNat) []).map w16

/-- Writes a ROUTE patch into the inactive bank. -/
def routePatch (p : Patch) (s : State) : State :=
  if p.kind = 1 then
    match putEntry p.b1 p.a23 (w32 p.value) (w32 (p.value / 2 ^ 32)) s with
    | .ok s => s
    | .error _ => s
  else s

/-- The patches of the newly lost devices of a MEMBERSHIP, in increasing order of device (R373). -/
def lossPatches (d : Nat) (m : MemberBody) (s : State) : List Patch :=
  (newlyLost d m s).flatMap (fun v =>
    match entryOf d v.toNat s with
    | some e => patches d e s
    | none => [])

/-- MEMBERSHIP_STAGE: once the abort is complete the body is staged and its ROUTE patches are written (R377). -/
def stage (d : Nat) (s : State) : State :=
  let x := surv d s
  match x.received with
  | none => s
  | some (t, m) =>
    if isOpen d s || ((dom d s).st == .recalling && !(dom d s).abortDone) then s
    else
      let s := foldS (lossPatches d m s) routePatch s
      modSurv d (fun x => { x with received := none, staged := some (t, m), rstate := .staged }) s

/-! ### The resume tick (R378) -/

/-- Writes a half of a 64-bit register. -/
def putHalf (w : W64) (hi : Bool) (v : W32) : W64 :=
  if hi then v ++ w.extractLsb' 0 32 else w.extractLsb' 32 32 ++ v

/-- The domain is enabled: ARMED, its frame number kept. -/
def enableDom (d : Nat) (s : State) : State :=
  serveStart d (modDom d (fun x => { x with
    en := true, st := .armed, replays := 0, nextRun := .fresh, resumeAt := none, holdReq := false, offReq := false
    heldRecalled := false, holdAfterAbort := none, replayOfOver := false, marks := [], taken := [], waitExt := [], waitPos := []
    ran := false }) s)

/-- FD_CTRL.RESUME (R49). -/
def resumeDom (d : Nat) (s : State) : State :=
  modDom d (fun x => { x with
    st := .armed, resumeAt := some x.start.toNat, nextRun := if x.heldRecalled then .replay else .fresh
    heldRecalled := false }) s

/-- FD_CTRL.HOLD: the domain becomes HELD at its next boundary. -/
def askHold (d : Nat) (s : State) : State :=
  let x := dom d s
  if x.st = .idle ∨ x.st = .held then s else modDom d (fun x => { x with holdReq := true }) s

def startKey (d : Nat) : Nat := regKey Pg.frame (0x104 + 0x20 * d)

/-- A REG patch of the FRAME page: FD_CFG, FD_START, the fresh limit and FD_CTRL (R372). RESUME acts on a HELD domain only. -/
def patchFrame (d r : Nat) (v : W32) (s : State) : State :=
  let x := dom d s
  match r with
  | 0x00 =>
    let s := modDom d (fun x => { x with guard := v.extractLsb' 16 12, len := v.extractLsb' 0 16 }) s
    if !v.getLsbD 31 then modDom d (fun x => { x with offReq := x.en }) s
    else if x.en then modDom d (fun x => { x with offReq := false }) s
    else enableDom d s
  | 0x04 => freePair (startKey d) (modDom d (fun x => { x with start := putHalf x.start false v }) s)
  | 0x08 => freePair (startKey d) (modDom d (fun x => { x with start := putHalf x.start true v }) s)
  | 0x18 => modDom d (fun x => { x with freshLimit := v.extractLsb' 0 16 }) s
  | 0x1C =>
    let s := if v.getLsbD 0 ∧ x.st = .held then resumeDom d s else s
    if v.getLsbD 1 then askHold d s else s
  | _ => s

/-- A write of a register of a domain's SURVIVE group, its conditions apart (R385). -/
def patchSurv (d r : Nat) (v : W32) (s : State) : State :=
  modSurv d (fun x =>
    match r with
    | 0x00 => { x with en := v.getLsbD 31, chkCtx := v.extractLsb' 16 6, chkRed := v.extractLsb' 0 16 }
    | 0x04 => { x with pgObj := v.extractLsb' 16 16, ckptK := v.extractLsb' 0 16 }
    | 0x08 => { x with wardObj := v.extractLsb' 16 16, planObj := v.extractLsb' 0 16 }
    | 0x0C => { x with logDepth := v.extractLsb' 16 16, logObj := v.extractLsb' 0 16 }
    | 0x10 => { x with rlAlt := v.extractLsb' 16 16, rl := v.extractLsb' 0 16 }
    | 0x14 => { x with seedTag := putHalf x.seedTag false v }
    | 0x18 => { x with seedTag := putHalf x.seedTag true v }
    | _ => x) s

def seedKey (d : Nat) : Nat := regKey Pg.survive (0x114 + 0x40 * d)

/-- A REG patch: the write of its page, free of the page's CONFIG_REFUSED conditions (R372). Another refusal leaves the
register as it was. -/
def patchReg (d page off : Nat) (v : W32) (s : State) : State :=
  let keep (r : WRes) : State :=
    match r with
    | .ok t => t
    | .error _ => s
  if page = Pg.frame then patchFrame d ((off - 0x100) % 0x20) v s
  else if page = Pg.survive then
    let r := (off - 0x100) % 0x40
    let s := patchSurv d r v s
    if r = 0x14 ∨ r = 0x18 then freePair (seedKey d) s else s
  else if page = Pg.caravan then keep (putCvGroup d (off % 16) true v s)
  else if page = Pg.client then keep (putClientGroup d ((off - 0x100) % 0x40) true v s)
  else if page = Pg.reduce then keep (putReduceGroup (serveOf d s).client true off v s)
  else s

/-- A REG, SLICE or ADOPT patch at rank 3 of the resume tick (R371). -/
def applyPatch (d : Nat) (p : Patch) (s : State) : State :=
  match p.kind with
  | 2 => patchReg d p.a23 p.a45 (w32 p.value) s
  | 3 => setMem (s.mem.setBytes p.addr (leBytes 8 p.value)) s
  | 4 => modSurv d (fun x => { x with adopted := if x.adopted.contains p.a23 then x.adopted else x.adopted ++ [p.a23] })
      (setObj p.a23 { obj p.a23 s with writer := BitVec.ofNat 5 d } s)
  | _ => s

/-- Whether a rollback of domain `d` takes extent `x` back: it is of class L with the domain as its WRITER, or of a ward object
that the domain has adopted (R378). -/
def takesBack (d x : Nat) (s : State) : Bool :=
  let e := ext x s
  let o := obj e.obj.toNat s
  e.kind == .object && o.valid && o.writer.toNat == d && (o.sclass == 2 || (surv d s).adopted.contains e.obj.toNat)

/-- An extent takes a retained version (R378); one whose physical extent has been retired meanwhile is POISONED (R213). Where
a move has since put the extent in the other tier, it takes the contents of the version (DESIGN CHOICE, log 26). -/
def flipTo (e : Nat × Nat) (s : State) : State :=
  let x := { ext e.1 s with st := if s.mem.retired.contains e.2 then .poisoned else .idle }
  if x.phys.toNat = e.2 then setExt e.1 x s
  else if decide (e.1 < 65536) != decide (e.2 < 65536) then
    let s := ownVersion e.1 (openDoms s) (setExt e.1 x s)
    setMem (s.mem.copyExtent e.2 (ext e.1 s).phys.toNat) s
  else keepOld e.1 x.phys.toNat (openDoms s) (setExt e.1 { x with phys := BitVec.ofNat 21 e.2 } s)

/-- Whether the domain is replaying logged steps (R381). -/
def restoring (d : Nat) (s : State) : Bool := stepGet d 0 8 s < (surv d s).sEnd.toNat

/-- The rollback to step `c`; false where no version for it is held (R378 step 3). -/
def rollback (d : Nat) (c : W64) (s : State) : Bool × State :=
  let x := surv d s
  let pick (k : Option Ckpt) : Option Ckpt := k.filter (fun k => k.step == c)
  match (pick x.safe).orElse (fun _ => pick x.newer) with
  | none => (false, s)
  | some k =>
    let s := if restoring d s then s
      else setSurv d { x with
        sEnd := w64 (stepGet d 0 8 s), preMode := w64 (stepGet d 8 8 s), preWide := w64 (stepGet d 16 8 s) } s
    let s := foldS (k.exts.filter (fun e => takesBack d e.1 s)) flipTo s
    let late := match x.newer with
      | some n => if c.toNat < n.step.toNat then some n else none
      | none => none
    let s := match late with
      | some n => releaseVersions (some n) (modSurv d (fun y => { y with newer := none, unacked := [], resent := [] }) s)
      | none => s
    let s := modSurv d (fun y => { y with lastSafe := some c, done := y.done.filter (fun e => e.2.toNat ≤ c.toNat) }) s
    let s := foldS (s.survive.wards.filter (fun w => w.dom == d && c.toNat < w.step.toNat)) dropWard s
    let s := modSurv d (fun y => { y with seqLost := true }) s
    (true, modSurv d (fun y => { y with rstate := if restoring d s then .restoring else .armed }) s)

/-- Adopted ward objects take their version for `c` where it is still fresh, and that version is retained with the
checkpoint, so that a later rollback to it takes it again (R378, R382). -/
def adoptVersions (d : Nat) (c : W64) (s : State) : State :=
  let os := (surv d s).adopted
  let s := foldS (s.survive.wards.filter (fun w => w.step == c && os.contains (ext w.ext s).obj.toNat)) commitWard s
  let more (k : Ckpt) : List Nat := (ckptExts d s).filter (fun x => !k.exts.any (fun e => e.1 == x))
  let add (k : Ckpt) : Ckpt :=
    if k.step = c then { k with exts := k.exts ++ (more k).map (fun x => (x, (ext x s).phys.toNat)) } else k
  modSurv d (fun x => { x with safe := x.safe.map add, newer := x.newer.map add }) s

/-- The domain opens a frame at this tick: after a path loss the recalled frame again, after a rollback the next one (R378
step 4). -/
def reopen (d : Nat) (after : Bool) (s : State) : State :=
  modDom d (fun x =>
    if x.st = .recalling then
      if after then { x with resumeAt := some (now s), nextRun := .fresh, num := x.num + 1, replays := 0, waitExt := [], waitPos := [] }
      else { x with resumeAt := some (now s), nextRun := .replay }
    else x) s

/-- A staged MEMBERSHIP takes effect (R378). One without a rollback follows a path loss and is counted (R386). -/
def applyMembership (d : Nat) (m : MemberBody) (s : State) : State :=
  let ps := lossPatches d m s
  let fresh := newlyLost d m s
  let s := modMember d (fun x => { x with epoch := m.epoch }) (cancelRemoor d s)
  let s := modSurv d (fun x => { x with
    staged := none, lost := m.lost, rl := m.rl, rlAlt := m.rlAlt, sent := none, tMin := none, suspects := [], notes := []
    exposed := x.exposed || fresh != [] }) s
  let (broken, s) := breakGroups d (resourceJobs d (losePositions d fresh s))
  if m.fallback then fallback d s
  else
    let s := foldS ps (applyPatch d) s
    if broken then fallback d s
    else if m.rollback then
      match rollback d m.ckpt s with
      | (true, s) => reopen d true (resendSafe d (adoptVersions d m.ckpt s))
      | (false, s) => fallback d (report (Blk.sr d) Code.svNoCkpt s)
    else
      let s := setSurvive { s.survive with pathRecovered := satInc s.survive.pathRecovered } s
      reopen d false (resendSafe d <| modSurv d (fun x => { x with rstate := if restoring d s then .restoring else .armed }) s)

/-- Rank 3: staged changes whose tick has come are applied; the inactive bank becomes active once (R314, R378; log 26). One
that is still pending after its tick, or not staged by then, is late, and so is an RT_SWITCH (R30). -/
def memberships (s : State) : State :=
  let t := now s
  let due := (List.range 16).filter (fun d =>
    match (surv d s).staged with
    | some (u, _) => u == t
    | none => false)
  let late := (List.range 16).filter (fun d =>
    let old (m : Option (Nat × MemberBody)) (k : Nat) : Bool := match m with
      | some (u, _) => u < k
      | none => false
    old (surv d s).staged t || old (surv d s).received (t + 1))
  let s := foldS late (fun d s =>
    recallLater [d] Code.eventLate (report (Blk.fd d) Code.eventLate (modSurv d (fun x => { x with
      received := x.received.filter (fun y => t < y.1), staged := x.staged.filter (fun y => t ≤ y.1) }) s))) s
  let at_ := s.route.switchAt.toNat
  let waits := s.route.switchWaits
  let switch := due != [] || (waits && at_ == t)
  let s := if waits && decide (at_ ≤ t) then { s with route := { s.route with switchWaits := false } } else s
  let s := if waits && decide (at_ < t) then report rtBlk Code.eventLate s else s
  let s := if switch then switchBank s else s
  foldS due (fun d s =>
    match (surv d s).staged with
    | some (_, m) => applyMembership d m s
    | none => s) s

/-! ### Replay (R381) -/

/-- Before a replayed step opens: MODE of its record goes into the step-control object, WIDE_UNTIL becomes 0. -/
def prepareStep (d : Nat) (s : State) : State :=
  let step := stepGet d 0 8 s
  let r := loggedRecord d step s
  if (surv d s).rstate = .restoring ∧ restoring d s ∧ leAt r 0 8 = step then
    stepPut d 16 0 (stepPut d 8 (leAt r 8 8) s)
  else s

/-- What the record of a replayed step says beside the logged one. -/
inductive ReplayCheck where
  | none | ok | skew | gap
  | mismatch (skew : Bool)
  deriving DecidableEq, Repr

/-- The record of the step that commits beside the logged one: a difference of MODE, SEED_TAG, FLAGS or CHECK counts whether or
not DATA_POS differs too (R381). -/
def replayCheck (d : Nat) (skip : Bool) (s : State) : ReplayCheck :=
  let step := stepGet d 0 8 s
  let new := logRecord d skip s
  let old := loggedRecord d step s
  let same (o n : Nat) : Bool := leAt new o n == leAt old o n
  if (surv d s).rstate ≠ .restoring ∨ !restoring d s then .none
  else if leAt old 0 8 ≠ step then .gap
  else if !(same 8 8 && same 24 8 && same 36 4 && same 48 8) then .mismatch (!same 16 8)
  else if !same 16 8 then .skew
  else .ok

/-- After the commit of a replayed step (R262, R381). -/
def afterReplay (d : Nat) (c : ReplayCheck) (s : State) : State :=
  match c with
  | .none => s
  | .gap => fallback d (report (Blk.sr d) Code.svLogGap s)
  | .mismatch skew =>
    fallback d (report (Blk.sr d) Code.svReplayMismatch (if skew then report (Blk.mb d) Code.stepSkew s else s))
  | .skew => modDom d (fun x => { x with holdReq := true }) (report (Blk.mb d) Code.stepSkew s)
  | .ok =>
    if restoring d s then s
    else
      let x := surv d s
      modSurv d (fun x => { x with rstate := .armed, exposed := true })
        (stepPut d 16 x.preWide.toNat (stepPut d 8 x.preMode.toNat s))

/-- LEADER_TIMEOUT: 1 ms in RECALLING without a MEMBERSHIP (R382). -/
def leaderGone (d : Nat) (s : State) : State :=
  let x := surv d s
  let y := dom d s
  if x.en && y.st == .recalling && y.resumeAt.isNone && y.waitExt == [] && y.waitPos == [] && x.received.isNone && x.staged.isNone then
    firstOfCycle s (fallback d (report (Blk.sr d) Code.svNoLeader s))
  else s

/-! ### The SURVIVE page (R385) -/

def svBlk : Blk := ⟨Pg.survive, 0⟩

/-- RESTART (R383 step 4). -/
def restartDom (d : Nat) (s : State) : State :=
  let a := s.survive.arg
  let s := stepPut d 0 a.toNat s
  let s := stepPut d 16 ((a.toNat + s.survive.wideSteps.toNat) % 2 ^ 64) s
  let x := surv d s
  releaseVersions x.safe (releaseVersions x.newer (setSurv d { x with
    lost := [], adopted := [], safe := none, newer := none, unacked := [], resent := [], lastSafe := none, safeSent := none, done := []
    rstate := .armed, sEnd := 0 } s))

/-- A write of SV_CMD. -/
def putSvCmd (d n op : Nat) (s : State) : WRes :=
  let x := surv d s
  match op with
  | 1 => if n < pgCount d s && posDev (pgEntry d n s) (pgroup d n s) 8 == (ownDev s).toNat then .ok (startEncode d n s)
    else .error Code.svCmdRefused
  | 2 => if x.rstate = .fallback then .ok (restartDom d s) else .error Code.svCmdRefused
  | 3 => .ok (setSurv d { x with ckptNow := true } s)
  | _ => .error Code.svCmdRefused

/-- A write of SR_CFG: what EN asks (R367, R370, R372). -/
def putSrCfg (d : Nat) (v : W32) (s : State) : WRes :=
  let x := surv d s
  let o := obj (member d s).stepObj.toNat s
  let free := heldParts (serveOf d s).client s &&& ~~~(spUse s)
  if v.getLsbD 31 then
    if x.ckptK = 0 ∨ x.logDepth.toNat < 2 * x.ckptK.toNat + 2 ∨ (member d s).stepObj = 0xFFFF ∨ !o.valid ∨ o.sclass ≠ 2 then
      .error Code.configRefused
    else if free = 0 then .error Code.svUnclaimed
    else if !planOk d s then .error Code.svBadPlan
    else .ok (modSurv d (fun x => { x with rstate := .armed }) (patchSurv d 0 v s))
  else .ok (patchSurv d 0 v s)

def svArgKey : Nat := regKey Pg.survive 0x050
def svGroup (off : Nat) : Option (Nat × Nat) :=
  if 0x100 ≤ off ∧ off < 0x500 then some ((off - 0x100) / 0x40, (off - 0x100) % 0x40) else none

def blkSurvive (off : Nat) : Blk :=
  match svGroup off with
  | some (d, _) => Blk.sr d
  | none => svBlk

/-- A write of a SURVIVE register. -/
def putSurvive (off : Nat) (v : W32) (s : State) : WRes :=
  let p := s.survive
  match svGroup off with
  | some (d, r) =>
    if (surv d s).en then .error Code.configRefused
    else if 0x1C ≤ r then .ok s
    else if r = 0 then putSrCfg d v s
    else if r = 0x14 then .ok (holdLo (seedKey d) v s)
    else if r = 0x18 then .ok (putPair (seedKey d) (surv d s).seedTag v (fun t => modSurv d (fun x => { x with seedTag := t })) s)
    else .ok (patchSurv d r v s)
  | none =>
    match off with
    | 0x044 => .ok (setSurvive { p with pgSel := v &&& 0xFFFFF } s)
    | 0x04C => putSvCmd (fld v 16 4) (fld v 4 12) (fld v 0 4) s
    | 0x050 => .ok (holdLo svArgKey v s)
    | 0x054 => .ok (putPair svArgKey p.arg v (fun a s => setSurvive { s.survive with arg := a } s) s)
    | 0x058 => .ok (setSurvive { p with wideSteps := v } s)
    | _ => .ok s

def RState.code (r : RState) : Nat :=
  match r with
  | .off => 0
  | .armed => 1
  | .noted => 2
  | .staged => 3
  | .restoring => 4
  | .fallback => 5

def PgState.code (p : PgState) : Nat :=
  match p with
  | .stale => 0
  | .encoding => 1
  | .whole => 2
  | .degraded => 3
  | .critical => 4
  | .rebuilding => 5
  | .broken => 6

def ckptWord (c : Option Ckpt) : W64 := (c.map (·.step)).getD 0xFFFFFFFFFFFFFFFF

/-- A register of a domain's SURVIVE group. -/
def getSurvGroup (d r : Nat) (s : State) : W32 × State :=
  let x := surv d s
  let key (r : Nat) : Nat := regKey Pg.survive (0x100 + 0x40 * d + r)
  match r with
  | 0x00 => (w32 (b2n x.en * 2 ^ 31 + x.chkCtx.toNat * 2 ^ 16 + x.chkRed.toNat), s)
  | 0x04 => (x.pgObj ++ x.ckptK, s)
  | 0x08 => (x.wardObj ++ x.planObj, s)
  | 0x0C => (x.logDepth ++ x.logObj, s)
  | 0x10 => (x.rlAlt ++ x.rl, s)
  | 0x14 => readLo (key 0x14) x.seedTag s
  | 0x18 => readHi (key 0x14) x.seedTag s
  | 0x1C => (w32 ((lastErr (Blk.sr d) s).toNat * 2 ^ 16 + b2n x.exposed * 16 + x.rstate.code), s)
  | 0x20 => readLo (key 0x20) (ckptWord x.safe) s
  | 0x24 => readHi (key 0x20) (ckptWord x.safe) s
  | 0x28 => readLo (key 0x28) (ckptWord x.newer) s
  | 0x2C => readHi (key 0x28) (ckptWord x.newer) s
  | r =>
    if 0x30 ≤ r then (x.lost.getD (2 * ((r - 0x30) / 4) + 1) 0xFFFF ++ x.lost.getD (2 * ((r - 0x30) / 4)) 0xFFFF, s)
    else (0, s)

/-- SV_PG_STATUS of the selected group (R385). -/
def pgStatus (s : State) : W32 :=
  let d := fld s.survive.pgSel 16 4
  let n := fld s.survive.pgSel 0 16
  w32 (((lostNow d n s).foldl (fun a k => a ||| 2 ^ k) 0) * 2 ^ 16 + (pgState d n s).code)

/-- A read of a SURVIVE register. -/
def getSurvive (off : Nat) (s : State) : W32 × State :=
  let p := s.survive
  match svGroup off with
  | some (d, r) => getSurvGroup d r s
  | none =>
    match off with
    | 0x040 => (lastErr svBlk s ++ (0 : W16), s)
    | 0x044 => (p.pgSel, s)
    | 0x048 => (pgStatus s, s)
    | 0x050 => readLo svArgKey p.arg s
    | 0x054 => readHi svArgKey p.arg s
    | 0x058 => (p.wideSteps, s)
    | _ => (0, s)

/-- Whether a write changes an RWL field of a domain's group. -/
def rwlSurvive (off : Nat) (v : W32) (s : State) : Bool :=
  match svGroup off with
  | some (d, r) =>
    let x := surv d s
    if 0x1C ≤ r then false
    else if r = 0x14 then v != x.seedTag.extractLsb' 0 32
    else if r = 0x18 then pairValue (seedKey d) x.seedTag v s != x.seedTag
    else if r = 0 then v &&& 0x803FFFFF != (getSurvGroup d 0 s).1
    else v != (getSurvGroup d r s).1
  | none => false

/-! ### Commands -/

/-- ENCODE (R362). -/
def execEncode (r : Req) (d : DomIdx) (group : BitVec 12) (s : State) : Outcome :=
  awake s (.next (regWrite r svBlk false (putSvCmd d.toNat group.toNat 1 s) s))

/-- RESTART (R383). -/
def execRestart (r : Req) (d : DomIdx) (s : State) : Outcome :=
  awake s (.next (regWrite r svBlk false (putSvCmd d.toNat 0 2 s) s))

/-- CKPT_NOW (R383). -/
def execCkptNow (r : Req) (d : DomIdx) (s : State) : Outcome :=
  awake s (.next (regWrite r svBlk false (putSvCmd d.toNat 0 3 s) s))

/-- LOSS_NOTE (R374). The port and the cause code tell the leader nothing that its ruling uses. -/
def execLossNote (src : W16) (d : DomIdx) (port : BitVec 8) (suspect : W16) (cause : W16) (tDet : W64) (s : State) : Outcome :=
  let _ := (port, cause)
  awake s (.next (takeLossNote src d.toNat suspect tDet s))

/-- PROBE_ACK names the domain and its epoch (R375, R380). -/
def answerProbe (src : W16) (d : Nat) (s : State) : State :=
  send { dst := src, kind := 0x96
         body := [BitVec.ofNat 8 d, 0, 0, 0] ++ leBytes 4 (member d s).epoch.toNat } s

/-- A suspect that answers a probe is not lost: only a path to it is (R375). -/
def probeAnswered (src : W16) (d : Nat) (s : State) : State :=
  match suspectOf d src s with
  | some y => rulePath d src y.tDet s
  | none => s

/-- A suspect that does not answer its probe is lost (R375). -/
def probeExpired (suspect : W16) (d : Nat) (s : State) : State :=
  match suspectOf d suspect s with
  | some y => takeKept d (ruleLost d suspect y.tDet s)
  | none => s

/-- PROBE (R375). -/
def execProbe (src : W16) (d : DomIdx) (s : State) : Outcome :=
  awake s (.next (answerProbe src d.toNat s))

/-- PROBE_ACK (R375). -/
def execProbeAck (src : W16) (d : DomIdx) (epoch : W32) (s : State) : Outcome :=
  let _ := epoch
  awake s (.next (probeAnswered src d.toNat s))

/-- PROBE_TIMEOUT (R375). -/
def execProbeTimeout (d : DomIdx) (suspect : W16) (s : State) : Outcome :=
  awake s (.next (probeExpired suspect d.toNat s))

/-- MEMBERSHIP (R377). -/
def execMembership (d : DomIdx) (eff : W64) (m : MemberBody) (s : State) : Outcome :=
  awake s (.next (takeMembership d.toNat eff.toNat m s))

/-- MEMBERSHIP_STAGE (R377). -/
def execMembershipStage (d : DomIdx) (s : State) : Outcome := awake s (.next (stage d.toNat s))

/-- LEADER_TIMEOUT (R382). -/
def execLeaderTimeout (d : DomIdx) (s : State) : Outcome := awake s (.next (leaderGone d.toNat s))

end Sys2Proof.Machine
end

