-- ==== Sys2Proof/Machine/Ledger.lean ====
section
/-! DEFINITION. The resource ledger and the GPIO pins (R414 to R420), frame-timer slots (R51, R52), CTRL and LOCK
(R412, R413), the compute-die and pier-die pages (R421, R422). -/

namespace Sys2Proof.Machine
open Sys2Proof

def setLedger (l : Ledger) (s : State) : State := { s with ledger := l }
def setEntry (n : Nat) (e : LedgerEntry) (s : State) : State :=
  setLedger { s.ledger with entries := tset s.ledger.entries {} n e } s

/-! ### Use (R417) -/

/-- The pin is named by an armed slot with a GPIO action, or is an interrupt input whose source is not INACTIVE. -/
def pinInUse (n : Nat) (s : State) : Bool :=
  (List.range 8).any (fun i =>
    let t := timer i s
    t.arm && t.action != 0 && t.gpio.toNat == n) ||
  ((ledgerEntry n s).func == 2 && (irqSrc (0x2B0 + n) s).st != .inactive)

/-- A checkpoint of the client is being sent: extents of it are not acknowledged (R367). -/
def ckptSending (c : BitVec 8) (s : State) : Bool :=
  (List.range 16).any (fun d => (serveOf d s).client == c && (surv d s).en && !(surv d s).unacked.isEmpty)

/-- Partition `i` is in SP_USE, or a checkpoint of its client goes through it. -/
def partInUse (i : Nat) (s : State) : Bool :=
  (spUse s).getLsbD i ||
    (match (ledgerEntry (0x18 + i) s).owner with
    | some c => ckptSending c s
    | none => false)

def inUse (n : Nat) (s : State) : Bool :=
  if n < 0x10 then pinInUse n s
  else if n < 0x18 then (timer (n - 0x10) s).arm
  else if n < 0x28 then partInUse (n - 0x18) s
  else if 0x40 ≤ n ∧ n < 0x80 then (redCtx (n - 0x40) s).en
  else false

/-! ### Requests (R416) -/

def resReal (n : Nat) : Bool := n < 0x28 || (0x40 ≤ n && n < 0x80)

/-- The registers of a resource that becomes unowned return to their reset values (R417). -/
def resetRes (n : Nat) (s : State) : State :=
  if n < 0x10 then setGpio n { gpio n s with level := false, out := false, drive := false, pulse := none } s
  else if n < 0x18 then
    let k := regKey Pg.frame (0x304 + 0x10 * (n - 0x10))
    setTimer (n - 0x10) {} { s with loHeld := tdel s.loHeld k }
  else if 0x40 ≤ n ∧ n < 0x80 then setLastErr (Blk.rc (n - 0x40)) 0 (setRedCtx (n - 0x40) {} s)
  else s

def disown (n : Nat) (s : State) : State := resetRes n (setEntry n {} s)

/-- The outcome of a request and the state after it, which is the state before where the table refuses (the ledger
table). The rows are taken in the table's order; none names a FORCE_RELEASE by the house of a resource that nobody owns,
which is refused as RELEASE is (log 34). -/
def ledgerReq (c : BitVec 8) (op func n : Nat) (s : State) : W16 × State :=
  let e := ledgerEntry n s
  if !resReal n || !(op == 1 || op == 2 || op == 3) || (func != 0 && 0x10 ≤ n) || 5 ≤ func ||
      (func == 4 && c != 0xFF) then (Code.lgBad, s)
  else if op = 1 then
    match e.owner with
    | none =>
      let s := setEntry n { owner := some c, func := BitVec.ofNat 4 func } s
      (0, if n < 0x10 then setGpio n { gpio n s with drive := false } s else s)
    | some o =>
      if o = c then (if e.func.toNat = func then 0 else Code.lgInUse, s) else (Code.claimDenied, s)
  else if op = 2 then
    match e.owner with
    | none => (Code.lgUnclaimed, s)
    | some o =>
      if o ≠ c then (Code.claimDenied, s)
      else if inUse n s then (Code.lgInUse, s)
      else (0, disown n s)
  else
    if inUse n s then (Code.lgInUse, s)
    else if c ≠ 0xFF then (Code.claimDenied, s)
    else if e.owner = none then (Code.lgUnclaimed, s)
    else (0, disown n s)

/-- A write of LG_CMD: LG_LAST shows the outcome (R416, R420). -/
def lgCommand (r : Req) (v : W32) (s : State) : State :=
  if s.startUp.phase = .reset then s
  else
    let n := fld v 0 8
    let (c, s) := ledgerReq r.client (fld v 28 4) (fld v 24 4) n s
    let s := setLedger { s.ledger with last := c ++ r.client ++ BitVec.ofNat 8 n } s
    answerReq r c 0 (if c = 0 then s else refuse ⟨Pg.ledger, 0⟩ c s)

def lgWord (op : Nat) (res : BitVec 8) (func : BitVec 4) : W32 :=
  w32 (op * 2 ^ 28 + func.toNat * 2 ^ 24 + res.toNat)

/-! ### GPIO_CFG (R418, R420) -/

/-- A write by client `c` to a register of resource `n`, with the code of its chapter where nobody owns it (R418). -/
def claimCode (c : BitVec 8) (n : Nat) (unowned : W16) (s : State) : Option W16 :=
  match (ledgerEntry n s).owner with
  | none => some unowned
  | some o => if o = c then none else some Code.claimDenied

def putLedger (client : BitVec 8) (off : Nat) (v : W32) (s : State) : WRes :=
  if 0x300 ≤ off ∧ off < 0x340 then
    let n := (off - 0x300) / 4
    match claimCode client n Code.lgUnclaimed s with
    | some e => .error e
    | none => .ok (setGpio n { gpio n s with level := v.getLsbD 5, out := v.getLsbD 4 } s)
  else .ok s

def getLedger (off : Nat) (s : State) : W32 :=
  if off = 0x044 then s.ledger.last
  else if 0x100 ≤ off ∧ off < 0x300 then
    let e := ledgerEntry ((off - 0x100) / 4) s
    match e.owner with
    | some o => w32 (2 ^ 31 + o.toNat * 256 + e.func.toNat)
    | none => 0
  else if 0x300 ≤ off ∧ off < 0x340 then
    let n := (off - 0x300) / 4
    let g := gpio n s
    w32 (b2n (pinLevel n s) * 2 ^ 31 + b2n g.level * 32 + b2n g.out * 16 + (ledgerEntry n s).func.toNat)
  else 0

/-! ### Frame-timer slots (R51, R52, R419) -/

/-- The tick at which a slot fires is the current one (TMR_CFG). -/
def timerDue (i : Nat) (s : State) : Bool :=
  let t := timer i s
  let x := dom t.domain.toNat s
  let run := x.st == .opened || x.st == .done
  t.arm && t.at_ != some (now s) &&
    match t.mode.toNat with
    | 0 => t.cmp == s.tick.num
    | 1 => run && x.opening + fld t.cmp 0 16 == now s
    | 2 => x.guardFresh
    | _ => false

/-- A toggle changes the level to which a pulse in progress returns (R419). -/
def Gpio.toggle (g : Gpio) : Gpio :=
  match g.pulse with
  | some l => { g with pulse := some (!l) }
  | none => { g with drive := !g.drive }

/-- A pulse drives the pin high and returns it to the level it had. -/
def Gpio.startPulse (g : Gpio) : Gpio :=
  match g.pulse with
  | some _ => g
  | none => { g with drive := true, pulse := some g.drive }

/-- The GPIO action works while the slot's owner also owns the pin with function TIMER (R51, R418). -/
def timerDrives (i n : Nat) (s : State) : Bool :=
  let p := ledgerEntry n s
  p.owner.isSome && p.owner == (ledgerEntry (0x10 + i) s).owner && p.func == 3

/-- A slot fires: FIRED, a one-shot slot disarms, the action acts (R52). -/
def fireTimer (i : Nat) (s : State) : State :=
  let t := timer i s
  let s := setTimer i { t with fired := true, arm := t.arm && t.mode != 0, at_ := some (now s) } s
  let n := t.gpio.toNat
  if !timerDrives i n s then s
  else if t.action = 1 then setGpio n (gpio n s).startPulse s
  else if t.action = 2 then setGpio n (gpio n s).toggle s
  else s

/-- Step 1 of R394: every slot whose tick has come fires, in slot order. -/
def fireTimers (s : State) : State :=
  foldS ((List.range 8).filter (fun i => timerDue i s)) fireTimer s

/-- A write after which a slot of mode 0b01 would be armed at an offset not below LEN_TICKS (R52). -/
def timerBad (t : TimerSlot) (s : State) : Bool :=
  t.arm && t.mode == 1 && decide ((dom t.domain.toNat s).len.toNat ≤ fld t.cmp 0 16)

def timerCfg (t : TimerSlot) (v : W32) : TimerSlot :=
  { t with
    arm := v.getLsbD 31
    fired := t.fired && !v.getLsbD 30
    mode := v.extractLsb' 24 2
    action := v.extractLsb' 22 2
    domain := v.extractLsb' 16 4
    gpio := v.extractLsb' 12 4 }

/-- A write of a register of slot `i` by a client (R51, R52, R407). TMR_CMP_LO is judged when it is written, and with
TMR_CMP_HI, which puts it in force. -/
def putTimer (client : BitVec 8) (i : Nat) (reg : TmrReg) (v : W32) (s : State) : WRes :=
  match claimCode client (0x10 + i) Code.timerUnclaimed s with
  | some e => .error e
  | none =>
    let t := timer i s
    let k := regKey Pg.frame (0x304 + 0x10 * i)
    match reg with
    | .cmpLo =>
      if timerBad { t with cmp := v.setWidth 64 } s then .error Code.configRefused else .ok (holdLo k v s)
    | .cfg =>
      let u := timerCfg t v
      if u.mode = 3 ∨ u.action = 3 ∨ timerBad u s then .error Code.configRefused else .ok (setTimer i u s)
    | .cmpHi =>
      let u := { t with cmp := pairValue k t.cmp v s }
      if timerBad u s then .error Code.configRefused else .ok (setTimer i u (dropHi k s))

/-- The slot and the register at an offset of the FRAME page. -/
def timerAt (off : Nat) : Option (Nat × TmrReg) :=
  if 0x300 ≤ off ∧ off < 0x380 then
    match off % 16 with
    | 0 => some ((off - 0x300) / 16, .cfg)
    | 4 => some ((off - 0x300) / 16, .cmpLo)
    | 8 => some ((off - 0x300) / 16, .cmpHi)
    | _ => none
  else none

def getTimer (i : Nat) (reg : TmrReg) (s : State) : W32 × State :=
  let t := timer i s
  let k := regKey Pg.frame (0x304 + 0x10 * i)
  match reg with
  | .cfg => (w32 (b2n t.arm * 2 ^ 31 + b2n t.fired * 2 ^ 30 + t.mode.toNat * 2 ^ 24 + t.action.toNat * 2 ^ 22 +
      t.domain.toNat * 2 ^ 16 + t.gpio.toNat * 2 ^ 12), s)
  | .cmpLo => readLo k t.cmp s
  | .cmpHi => readHi k t.cmp s

/-! ### CTRL and STATUS (R409, R413) -/

/-- BUSY of a page (STATUS). -/
def pageBusy (p : Nat) (s : State) : Bool :=
  if p < 0x100 then
    let be := berth (BitVec.ofNat 8 p) s
    be.pl != .idle || !be.mxq.isEmpty || !be.closing.isEmpty || !be.vxq.isEmpty
  else if p < 0x200 then (berth (BitVec.ofNat 8 (p - 0x100)) s).lt.any (fun l => l.run.isSome)
  else if p = Pg.object then !s.mem.staged.isEmpty
  else if p = Pg.caravan then !s.weights.cmds.isEmpty
  else if p = Pg.reduce then s.redctx.any (fun e => e.2.runs.any (fun y => y.sent && !y.delivered))
  else if p = Pg.client then s.query.busy
  else if p = Pg.account then s.acct.clear != []
  else if p = Pg.hmaster then s.hm.busy.isSome
  else false

def pageQuiesced (p : Nat) (s : State) : Bool := (hdr p s).quiesce && !pageBusy p s

/-- A domain that holds the berth runs a frame or an abort (R413.4). -/
def berthRuns (b : BerthIdx) (s : State) : Bool :=
  (List.range 16).any (fun d =>
    (dom d s).en && holdsBerth d b s && (isOpen d s || (dom d s).st == .recalling))

/-- BLOCK_RESET of a berth (R413.5). -/
def Berth.blockReset (be : Berth) : Berth :=
  { be with
    mxq := [], closing := [], mxStopped := false, vxq := [], vxStopped := false, stuck := []
    groups := be.groups.map (fun e => (e.1, { e.2 with opened := false }))
    mxflags := 0, vflags := 0, pl := .idle, stall := none, dead := false, vlRows := 128, vlCols := 128 }

/-- BLOCK_RESET of a lighter (R413.6). -/
def Lighter.blockReset (l : Lighter) : Lighter :=
  { l with queue := [], run := none, stopped := false, mismatch := false, done := 0 }

/-- A write of CTRL (R413). -/
def putCtrl (p : Nat) (v : W32) (s : State) : WRes :=
  let en := v.getLsbD 0
  let qu := v.getLsbD 1
  let b : BerthIdx := BitVec.ofNat 8 p
  if p < 0x100 then
    if (qu ∧ (berthDom b s).isSome) ∨ (!en ∧ !pageQuiesced p s) ∨ (v.getLsbD 2 ∧ berthRuns b s) then
      .error Code.configRefused
    else
      let s := if v.getLsbD 2 then modBerth b Berth.blockReset s else s
      .ok (setHdr p { hdr p s with enable := en, quiesce := qu } s)
  else if !en ∨ qu then .error Code.configRefused
  else if v.getLsbD 2 then
    if 0x200 ≤ p ∨ berthRuns b s then .error Code.configRefused
    else .ok (dropReqs [b] (modBerth b (fun be => { be with lt := be.lt.map Lighter.blockReset }) s))
  else .ok s

/-! ### CDIE and PDIE (R421, R422, R310) -/

/-- CD_CLK.CAPPED: the clock is held below 1.6 GHz (R21, R351, R478). -/
def clockCapped (s : State) : Bool := s.power.throttle || decide (s.dies.clockMhz < 1600)

def dieTemp (i : Nat) (s : State) : BitVec 16 := s.dies.temp.toList.getD i 0
def diePeak (i : Nat) (s : State) : BitVec 16 := s.dies.peak.toList.getD i 0

/-- Any write of the peak sets it to the current temperature. -/
def setPeak (i : Fin 6) (s : State) : State :=
  { s with dies := { s.dies with peak := s.dies.peak.set i.val s.dies.temp[i.val] i.isLt } }

def getCdie (c : Nat) (off : Nat) (s : State) : W32 :=
  match off with
  | 0x040 => (dieTemp c s).setWidth 32
  | 0x044 => (diePeak c s).setWidth 32
  | 0x048 => w32 (b2n (clockCapped s) * 2 ^ 16 + s.dies.clockMhz % 2 ^ 16)
  | 0x04C => w32 ((s.dies.bistFail.toList.getD c 0).toNat * 16 + b2n s.dies.bistDone)
  | _ => 0

def getPdie (p : Nat) (off : Nat) (s : State) : W32 :=
  match off with
  | 0x040 => (dieTemp (4 + p) s).setWidth 32
  | 0x044 => (diePeak (4 + p) s).setWidth 32
  | 0x048 => if p = 0 then w32 (2 * b2n s.board.hostport + 1) else 0
  | _ => 0

/-- The die whose peak register lies at an offset of a page. -/
def peakDie (p off : Nat) : Option (Fin 6) :=
  if h : 0x200 ≤ p ∧ p < 0x206 ∧ off = 0x044 then some ⟨p - 0x200, by omega⟩ else none

def putPeak (p off : Nat) (s : State) : WRes :=
  match peakDie p off with
  | some i => .ok (setPeak i s)
  | none => .ok s

/-! ### The commands -/

/-- TMR_CFG_WRITE (R51, R52). -/
def execTmrCfgWrite (r : Req) (slot : BitVec 3) (reg : TmrReg) (v : W32) (s : State) : Outcome :=
  awake s (.next (regWrite r ⟨Pg.frame, 0⟩ false (putTimer r.client slot.toNat reg v s) s))

/-- FRAME_TIMER_FIRE (R52): a base tick fires the slots whose tick it is; the command fires one that has come due since. After
a guard point the first tick is the next base tick, which fires mode 0b10 itself. -/
def execFrameTimerFire (slot : BitVec 3) (s : State) : Outcome :=
  awake s (.next (if timerDue slot.toNat s && (timer slot.toNat s).mode != 2 then fireTimer slot.toNat s else s))

/-- A pulse ends: the pin returns to the level that the toggles left (R419). -/
def endPulse (n : Nat) (s : State) : State :=
  let g := gpio n s
  match g.pulse with
  | some l => setGpio n { g with drive := l, pulse := none } s
  | none => s

/-- GPIO_PULSE_END (R52, R419). -/
def execGpioPulseEnd (pin : BitVec 4) (s : State) : Outcome :=
  awake s (.next (endPulse pin.toNat s))

/-- LG_CLAIM (R416). -/
def execLgClaim (r : Req) (res : BitVec 8) (func : BitVec 4) (s : State) : Outcome :=
  awake s (.next (lgCommand r (lgWord 1 res func) s))

/-- LG_RELEASE (R416). -/
def execLgRelease (r : Req) (res : BitVec 8) (func : BitVec 4) (s : State) : Outcome :=
  awake s (.next (lgCommand r (lgWord 2 res func) s))

/-- LG_FORCE_RELEASE (R416). -/
def execLgForceRelease (r : Req) (res : BitVec 8) (func : BitVec 4) (s : State) : Outcome :=
  awake s (.next (lgCommand r (lgWord 3 res func) s))

/-- A write of a register of a page that the map lacks answers REG_NO_PAGE (R405); none is answered in reset (R493). -/
def noPageAnswer (r : Req) (s : State) : State :=
  if s.startUp.phase = .reset then s else answerReq r Code.regNoPage 0 s

/-- LOCK_WRITE (R412). -/
def execLockWrite (r : Req) (page : BitVec 12) (v : W32) (s : State) : Outcome :=
  awake s (.next (if pageExists page.toNat then regWrite r ⟨page.toNat, 0⟩ false (putLock r page.toNat v s) s
    else noPageAnswer r s))

/-- CD_TEMP_PEAK_WRITE (R421, R422). -/
def execCdTempPeakWrite (r : Req) (page : BitVec 12) (v : W32) (s : State) : Outcome :=
  let _ := v
  awake s (.next (if pageExists page.toNat then regWrite r ⟨page.toNat, 0⟩ false (putPeak page.toNat 0x044 s) s
    else noPageAnswer r s))

def ctrlWord (p : Nat) (s : State) : Nat := 2 * b2n (hdr p s).quiesce + b2n (hdr p s).enable

/-- CTRL_BLOCK_RESET (R413): the other fields are written as they stand. -/
def execCtrlBlockReset (r : Req) (lighter : Bool) (b : BerthIdx) (s : State) : Outcome :=
  let p := if lighter then Pg.lighter b else Pg.berth b
  awake s (.next (regWrite r ⟨p, 0⟩ false (putCtrl p (w32 (4 + ctrlWord p s)) s) s))

/-- CTRL_QUIESCE (R413). -/
def execCtrlQuiesce (r : Req) (b : BerthIdx) (v : Bool) (s : State) : Outcome :=
  awake s (.next (regWrite r ⟨Pg.berth b, 0⟩ false
      (putCtrl (Pg.berth b) (w32 (2 * b2n v + b2n (hdr (Pg.berth b) s).enable)) s) s))

/-- CTRL_ENABLE (R413). -/
def execCtrlEnable (r : Req) (b : BerthIdx) (v : Bool) (s : State) : Outcome :=
  awake s (.next (regWrite r ⟨Pg.berth b, 0⟩ false
      (putCtrl (Pg.berth b) (w32 (2 * b2n (hdr (Pg.berth b) s).quiesce + b2n v)) s) s))

end Sys2Proof.Machine
end

