-- ==== Sys2Proof/Machine/Board.lean ====
section
/-! DEFINITION. Rails, reset, straps, clocks, the board's signals, the SMBus target (R453 to R469), power and thermal
control (R476 to R480) and the POWER page (R486). -/

namespace Sys2Proof.Machine
open Sys2Proof

def setBoard (b : Board) (s : State) : State := { s with board := b }
def setPower (p : Power) (s : State) : State := { s with power := p }
def powBlk : Blk := ⟨Pg.power, 0⟩

/-! ### Reset (R456, R457, R459) -/

/-- A reset may interrupt a write of the flash: the copy being written then fails its checks (R433). Whether the write had
begun is open. -/
def cutFlash (s : State) : State :=
  match s.hm.busy with
  | none => s
  | some j =>
    match flashJob j s with
    | .error _ => s
    | .ok (a, n, _) =>
      let (k, s) := nextFree s
      if Config.freeNat k % 2 = 0 then s else setHm (programFlash s.hm a n []) s

/-- All physical extents (R188). -/
def physBytes : Nat := 1908736 * extBytes

/-- The pins keep their input levels. -/
def inputsOnly (l : Ledger) : Ledger :=
  { gpio := (l.gpio.map (fun e => (e.1, ({ input := e.2.input } : Gpio)))).filter (fun e => e.2 ≠ {}) }

/-- The state in reset: everything at its reset value but what the VAUX domain holds, the flash, the queue, the outbox. What
the memories hold after a reset is open (log 2). -/
def resetState (k : Nat) (b : Board) (s : State) : State :=
  { pending := s.pending
    outbox := s.outbox
    freeCtr := s.freeCtr
    mem := ({} : Mem).openRange 0 physBytes k
    ledger := inputsOnly s.ledger
    dies := { temp := s.dies.temp }
    hm := { flash := s.hm.flash }
    startUp := { phase := .reset, seen := 0 }
    board := b
    power := { energyVaux := s.power.energyVaux } }

/-- The device enters reset and keeps the cause; every open frame ends without commit (R457). -/
def intoReset (cause : W16) (need trip : Bool) (s : State) : State :=
  let s := cutFlash s
  let (k, s) := nextFree s
  let b := s.board
  resetState k { b with
    resetCause := cause, needReset := b.needReset || need, thermtripLow := b.thermtripLow || trip } s

/-- A fall of RESET_N or PWR_OK: a fall of RESET_N ends the wait of R459, a fall of PWR_OK lifts THERMTRIP_N (R466). -/
def pinFall (pin : ResetPin) (s : State) : State :=
  let s := if inReset s then s else intoReset (if pin = .pwrOk then Code.pwrFault else 0) false false s
  let b := s.board
  setBoard { b with
    needReset := b.needReset && pin != .resetN, thermtripLow := b.thermtripLow && pin != .pwrOk } s

/-- The later rise of RESET_N and PWR_OK: the straps are sampled and the boot ROM starts (R456, R460). `flash` is what the
board's controller has programmed while the device was in reset (R462), `boot` what the ROM will find. -/
def leaveReset (qslot : BitVec 3) (hostport : Bool) (flash : List FlashPart) (boot : BootIn) (s : State) : State :=
  let b := s.board
  if inReset s && b.vaux && !b.needReset && !b.thermtripLow then
    let h := flash.foldl (fun h p => programFlash h p.addr.toNat p.bytes.length p.bytes) s.hm
    setStartUp { phase := .boot, seen := 1 }
      (setBoard { b with qslot := qslot, hostport := hostport, vin := true } (setHm { h with rom := boot } s))
  else s

/-- VAUX goes: nothing runs and nothing is reachable, and only the flash keeps its contents (R453). -/
def vauxOff (s : State) : State :=
  let (k, s) := nextFree (cutFlash s)
  { resetState k { vaux := false, vin := false, smbAddr := none } s with power := {}, dies := {} }

/-! ### The clock (R469, R476, R478) -/

/-- The highest clock that the restriction cap and PROCHOT_N allow (R351, R467). -/
def clockCeil (s : State) : Nat :=
  min (if s.health.cap then 1350 else 1600) (if s.power.prochotHold then 1200 else 1600)

def setClock (c : Nat) (s : State) : State := { s with dies := { s.dies with clockMhz := c } }

/-- The sum and the number of the measurements of the last `n` µs: the sliding average is their quotient, over those there are
while fewer than `n` have been taken (R476; log 28). -/
def inputSum (n : Nat) (s : State) : Nat := (s.power.inputs.take n).foldl (· + ·) 0
def inputCount (n : Nat) (s : State) : Nat := min n s.power.inputs.length

/-- The sliding average of the last `n` µs lies above `w` W. -/
def avgAbove (n w : Nat) (s : State) : Bool := decide (w * inputCount n s < inputSum n s)

/-- The power limits allow a higher clock: both averages lie at least 2 % below theirs (R476 steps 2 and 3). -/
def powerAllows (s : State) : Bool :=
  let p := s.power
  let l2 := if p.pwrbrk then 1300 else p.pl2.toNat
  let l1 := if p.pwrbrk then 1300 else p.pl1.toNat
  decide (inputSum 1000 s * 100 ≤ l2 * 98 * inputCount 1000 s) && decide (inputSum 10000 s * 100 ≤ l1 * 98 * inputCount 10000 s)

/-- The hottest sensor of the device in units of 1/16 °C. -/
def hottest (s : State) : Int := s.dies.temp.toList.foldl (fun m t => max m t.toInt) (-32768)

/-- T_th in units of 1/16 °C (R478, R350). -/
def throttleAt (s : State) : Int := 16 * (s.health.tjCeil.toNat : Int)

/-- The temperature allows a higher clock: the hottest sensor lies below T_th, and while throttling is active it has stayed
below T_th − 3 °C for 100 samples (R469, R478). -/
def thermalAllows (s : State) : Bool :=
  decide (hottest s < throttleAt s) && (!s.power.throttle || decide (100 ≤ s.power.cool))

/-- The clock at the start of the present µs for one of its two controls, and whether the other has acted in this µs: of
two successive samples of different controls the second lies in the µs of the first (R476; log 28). -/
def usBase (thermal : Bool) (s : State) : Nat × Bool :=
  match s.power.half with
  | some (o, b) => if o = thermal then (s.dies.clockMhz, false) else (b, true)
  | none => (s.dies.clockMhz, false)

/-- A control's result `n` for the present µs. Where both controls have moved the clock, the lower result applies (R476). -/
def usMove (thermal : Bool) (n : Nat) (s : State) : State :=
  let (b, second) := usBase thermal s
  let c := s.dies.clockMhz
  setClock (if !second then n else if n = b then c else if c = b then n else min c n)
    (setPower { s.power with half := if second then none else some (thermal, b) } s)

/-- Steps 1 and 2 of R476 on clock `c`: one step down where a limit is exceeded. PL1 and PL2 hold while PWRBRK_N is applied
too. -/
def powerDown (watts c : Nat) (s : State) : Nat :=
  let p := s.power
  let n1 := if avgAbove 1000 p.pl2.toNat s || avgAbove 10000 p.pl1.toNat s then min c (max 1350 (c - 25)) else c
  let n2 := if p.pwrbrk && decide (1300 < watts) then min c (max 800 (c - 25)) else c
  min n1 n2

/-- Step 3 of R476 on clock `c`: one step up at most every 10 samples, once every limit has allowed the higher clock for 100
of them. -/
def mayRaise (c : Nat) (s : State) : Bool :=
  let p := s.power
  decide (10 ≤ p.sinceRaise) && p.allowed.length == 100 && p.allowed.all (fun a => decide (c + 25 ≤ a))

/-- The sample's highest clock that every limit of R469 allows; a power or thermal limit that allows no higher clock than
the present one counts as 0. -/
def noteAllowed (s : State) : State :=
  let a := if powerAllows s && thermalAllows s then clockCeil s else 0
  setPower { s.power with allowed := (a :: s.power.allowed).take 100, sinceRaise := s.power.sinceRaise + 1 } s

/-- Power control holds the clock from when it lowers it until it is back at what the other limits allow (R486; log 28). -/
def noteLimit (lowered : Bool) (s : State) : State :=
  setPower { s.power with limited := (s.power.limited || lowered) && decide (s.dies.clockMhz < clockCeil s) } s

/-- One µs of power control of the clock (R476). -/
def powerMove (watts : Nat) (s : State) : State :=
  let s := noteAllowed s
  let c := (usBase false s).1
  let n := powerDown watts c s
  noteLimit (decide (n < c))
    (if n = c ∧ mayRaise c s then usMove false (c + 25) (setPower { s.power with sinceRaise := 0 } s) else usMove false n s)

/-- The clock that power control allows while its averages allow no raise: it lowers no further than this (R476). -/
def powerFloor (s : State) : Nat := if s.power.pwrbrk then 800 else 1350

/-- Throttling ends once the clock is back at the value that the other limits allow, and the sensors have cooled (R478). -/
def throttleEnd (s : State) : State :=
  let p := s.power
  let other := if powerAllows s then clockCeil s else min (clockCeil s) (powerFloor s)
  if p.throttle && decide (100 ≤ p.cool) && decide (other ≤ s.dies.clockMhz) then setPower { p with throttle := false } s
  else s

/-- POWER_OVER: the 10 ms average lies above PL1 at 1.35 GHz (R476). -/
def powerOver (s : State) : State :=
  if s.dies.clockMhz = 1350 ∧ avgAbove 10000 s.power.pl1.toNat s then
    let s := setPower { s.power with overCount := satInc s.power.overCount } s
    raise Pg.power 4 (report powBlk Code.powerOver s)
  else s

/-- The input power of a µs enters the averages; PW_INPUT shows the 1 ms average, rounded down (R476, R486; log 28). -/
def noteInput (watts : Nat) (s : State) : State :=
  let s := setPower { s.power with inputs := (watts :: s.power.inputs).take 10000 } s
  setPower { s.power with inputW := w16 (min (inputSum 1000 s / inputCount 1000 s) 65535) } s

/-- One µs of power control: the input power and the energy of the interval (R476, R477). In reset only the energy since VAUX
became valid counts; while VAUX is off nothing does (R453). -/
def powerSample (watts uj : Nat) (s : State) : State :=
  if !s.board.vaux then s
  else
    let s := setPower { s.power with energyVaux := s.power.energyVaux + uj } s
    if inReset s then s
    else
      let s := setStartUp { s.startUp with us := s.startUp.us + 1 } (setPower { s.power with
        energy := s.power.energy + w64 uj, tickEnergy := s.power.tickEnergy + uj } s)
      throttleEnd (powerMove watts (powerOver (noteInput watts s)))

/-- The temperatures of the dies and their peaks (R421, R478). -/
def setTemps (ts : List Int) (s : State) : State :=
  let d := s.dies
  let t (i : Nat) : BitVec 16 := (ts[i]?).elim (d.temp.toList.getD i 0) (BitVec.ofInt 16)
  let pk (i : Nat) : BitVec 16 :=
    let o := d.peak.toList.getD i 0
    if o.toInt < (t i).toInt then t i else o
  { s with dies := { d with
    temp := #v[t 0, t 1, t 2, t 3, t 4, t 5], peak := #v[pk 0, pk 1, pk 2, pk 3, pk 4, pk 5] } }

/-- The first step of an episode starts throttling (R478, R486). -/
def throttleStart (s : State) : State :=
  if s.power.throttle then s
  else
    let s := setPower { s.power with throttle := true, thrCount := satInc s.power.thrCount } s
    raise Pg.power 0 (report powBlk Code.thermalThrottle s)

/-- The clock of thermal control (R478) from clock `c`: one step down at or above T_th, 0.8 GHz from 110 °C on. -/
def thermalClock (c : Nat) (s : State) : Nat :=
  if 1760 ≤ hottest s then min c 800
  else if throttleAt s ≤ hottest s then min c (max 800 (c - 25))
  else c

/-- One µs of thermal control (R478); from 115 °C on the device trips (R466). In reset the sensors read and nothing acts;
while VAUX is off nothing does (R453). -/
def thermalSample (ts : List Int) (s : State) : State :=
  if !s.board.vaux then s
  else
    let s := setTemps ts s
    if inReset s then s
    else if 1840 ≤ hottest s then intoReset Code.thermtrip false true s
    else
      let s := setPower { s.power with
        cool := if hottest s < throttleAt s - 48 then s.power.cool + 1 else 0 } s
      let c := (usBase true s).1
      let n := thermalClock c s
      usMove true n (if n < c then throttleStart s else s)

/-! ### PROCHOT_N and PWRBRK_N (R467, R468) -/

/-- One sample of PROCHOT_N while the device does not drive it. In reset only the pin's level is known (R453, R463). -/
def prochotIn (low : Bool) (s : State) : State :=
  if !s.board.vaux || s.power.throttle then s
  else
  let s := setBoard { s.board with prochotLow := low } s
  if inReset s then s
  else
  let p := s.power
  if low then
    let s := if p.prochotLows = 0 ∧ !p.prochotHold then
        raise Pg.power 1 (report powBlk Code.prochotExt s) else s
    let hold := p.prochotHold || decide (1 ≤ p.prochotLows)
    let s := setPower { s.power with prochotLows := p.prochotLows + 1, prochotHighs := 0, prochotHold := hold } s
    if hold then setClock (min s.dies.clockMhz 1200) s else s
  else
    setPower { p with
      prochotLows := 0, prochotHighs := p.prochotHighs + 1
      prochotHold := p.prochotHold && decide (p.prochotHighs = 0) } s

/-- One sample of PWRBRK_N. In reset only the pin's level is known (R453, R463). -/
def pwrbrkIn (low : Bool) (s : State) : State :=
  if !s.board.vaux then s
  else
  let s := setBoard { s.board with pwrbrkLow := low } s
  if inReset s then s
  else
  let p := s.power
  if low then
    let s := setPower { p with pwrbrkLows := p.pwrbrkLows + 1, pwrbrkHighs := 0 } s
    if p.pwrbrkLows ≥ 1 ∧ !p.pwrbrk then
      let s := noteLimit true (setClock (min s.dies.clockMhz 900) (setPower { s.power with pwrbrk := true } s))
      raise Pg.power 2 (report powBlk Code.pwrbrkApplied s)
    else s
  else
    setPower { p with
      pwrbrkLows := 0, pwrbrkHighs := p.pwrbrkHighs + 1, pwrbrk := p.pwrbrk && decide (p.pwrbrkHighs + 1 < 100) } s

/-! ### Rails (R474, R486) -/

/-- The operating range of a rail in mV, in the order of PW_RAIL_SEL. -/
def railRange (i : Nat) : Nat × Nat :=
  match i with
  | 0 => (5700, 6300)
  | 1 => (1710, 1890)
  | 2 => (480, 520)
  | 3 => (720, 780)
  | _ => (3135, 3465)

def railOk (i : Nat) (r : RailIn) : Bool :=
  decide ((railRange i).1 ≤ r.mv.toNat) && decide (r.mv.toNat ≤ (railRange i).2)

/-- A check of the five rails: VIN is valid while it lies within its range (R453, R464). While VAUX is off nothing checks. -/
def checkRails (rs : List RailIn) (s : State) : State :=
  if !s.board.vaux then s
  else
  let xs := (List.range 5).zip rs
  let s := setPower { s.power with rails := xs.map (fun e => (e.1, (e.2.mv, e.2.ma))) } s
  let s := setBoard { s.board with vin := (rs.head?).elim s.board.vin (railOk 0) } s
  if inReset s then s
  else if xs.any (fun e => !railOk e.1 e.2) then raise Pg.power 5 (report powBlk Code.railWarn s)
  else s

/-! ### The POWER page (R486) -/

def putPower (off : Nat) (v : W32) (s : State) : WRes :=
  let p := s.power
  match off with
  | 0x050 =>
    let l2 := fld v 16 16
    let l1 := fld v 0 16
    if 2900 < l2 ∨ 2600 < l1 ∨ l2 < 1300 ∨ l1 < 1300 ∨ l2 < l1 then .error Code.configRefused
    else .ok (setPower { p with pl2 := w16 l2, pl1 := w16 l1 } s)
  | 0x058 => if 5 ≤ fld v 0 3 then .error Code.configRefused else .ok (setPower { p with railSel := v.extractLsb' 0 3 } s)
  | 0x060 => .ok (setPower { p with thrCount := clearBy p.thrCount v } s)
  | 0x064 => .ok (setPower { p with overCount := clearBy p.overCount v } s)
  | _ => .ok s

def rwlPower (off : Nat) (v : W32) (s : State) : Bool := off == 0x050 && v != s.power.pl2 ++ s.power.pl1

/-- PW_STATUS (R486). PROCHOT_IN is the last sample of PROCHOT_N; POWER_LIMIT tells that the clock is below 1.6 GHz and that power
control has lowered it, or that an average allows no higher one (DEDUCED, log 28). -/
def pwStatus (s : State) : W32 :=
  let p := s.power
  let hot := (List.range 24).any (fun m => (lpxDev m s).hot)
  let limit := decide (s.dies.clockMhz < 1600) && (p.limited || !powerAllows s)
  lastErr powBlk s ++
    w16 (b2n hot * 32 + b2n p.pwrbrk * 16 + b2n s.board.prochotLow * 8 + b2n p.throttle * 4 + b2n limit * 2)

def pwTj (s : State) : W32 := (s.health.tjCeil ++ byteOfInt (hottest s / 16) ++ (0 : W16))

def getPower (off : Nat) (s : State) : W32 × State :=
  let p := s.power
  match off with
  | 0x040 => (pwStatus s, s)
  | 0x044 => (p.inputW.setWidth 32, s)
  | 0x048 => readLo (regKey Pg.power 0x048) p.energy s
  | 0x04C => readHi (regKey Pg.power 0x048) p.energy s
  | 0x050 => (p.pl2 ++ p.pl1, s)
  | 0x054 => (pwTj s, s)
  | 0x058 => (p.railSel.setWidth 32, s)
  | 0x05C => let r := tget p.rails (0, 0) p.railSel.toNat
             (r.1 ++ r.2, s)
  | 0x060 => (p.thrCount, s)
  | 0x064 => (p.overCount, s)
  | _ => (0, s)

/-! ### SMBus (R463 to R465) -/

/-- The packet error code of an SMBus message: CRC-8 with polynomial x^8 + x^2 + x + 1 over its bytes, the first bit first
(the SMBus specification that R463 names; PRESUMED, log 28). -/
def smbPec (bs : List Byte) : Byte :=
  let bit (c : Byte) : Byte := (c <<< 1) ^^^ (if c.getLsbD 7 then 0x07 else 0)
  bs.foldl (fun c b => iterate 8 bit (c ^^^ b)) 0

/-- The packet error code of the read with command code `cmd`: over the address and the command as written, the address as
read, and the bytes read, a block's byte count first. -/
def readPec (cmd : Byte) (block : Bool) (bs : List Byte) (s : State) : Byte :=
  let a : BitVec 8 := (s.board.smbAddr.getD 0).setWidth 8 <<< 1
  smbPec ([a, cmd, a ||| 1] ++ (if block then [BitVec.ofNat 8 bs.length] else []) ++ bs)

def smbOn (s : State) : Bool := s.board.vaux && s.board.smbAddr.isSome

/-- The target answers a read once its address has been sampled; nothing answers while VAUX is off. -/
def smbAnswer (cmd : Byte) (block : Bool) (bs : List Byte) (s : State) : State :=
  if smbOn s then post (.smb bs (readPec cmd block bs s)) s else s

/-- The answer of a read word. -/
def smbWord (cmd : Byte) (w : W16) (s : State) : State := smbAnswer cmd false (leBytes 2 w.toNat) s

/-- The harbourmaster's firmware runs: boot step 6 has ended (R428, R464). -/
def hmRuns (s : State) : Bool := s.hm.stage == 4

/-- STATE of SMBus command 0x01. -/
def smbStateWord (s : State) : W16 :=
  w16 (s.hm.stage.toNat * 4096 + suState s * 256 + b2n s.board.thermtripLow * 128 + b2n (prochotLine s) * 64 +
    b2n s.board.pwrbrkLow * 32 + b2n (clockCapped s) * 16 + s.health.st.code)

/-- A temperature as the SMBus reads it: 0x8000 while VIN is not valid (R464). -/
def smbTemp (t : W16) (s : State) : W16 := if s.board.vin then t else 0x8000

/-- MEMBER, STEPPING, HM_SVN and HM_VERSION; zeros until boot step 3 has ended. -/
def smbVersionBytes (s : State) : List Byte :=
  if s.hm.idPk = [] then List.replicate 12 0
  else [3, 0, 0, 0] ++ leBytes 4 s.hm.svn.toNat ++ leBytes 4 s.hm.version.toNat

def smbIdBytes (s : State) : List Byte :=
  if s.hm.idPk = [] then List.replicate 16 0 else leBytes 8 s.hm.serial.toNat ++ leBytes 8 s.hm.idTag.toNat

/-! ### The commands -/

/-- VAUX_VALID (R454): the device is in reset, with nothing kept. -/
def execVauxValid (s : State) : Outcome :=
  .next (if s.board.vaux then s else setBoard { s.board with vaux := true } s)

/-- VAUX_LOST (R453). -/
def execVauxLost (s : State) : Outcome := .next (vauxOff s)

/-- SMB_ADDR_SAMPLE (R460): the straps are sampled once. -/
def execSmbAddrSample (v1 v0 : Fin 3) (s : State) : Outcome :=
  .next (if s.board.vaux && s.board.smbAddr.isNone then
      setBoard { s.board with smbAddr := some (BitVec.ofNat 7 (0x60 + 3 * v1.val + v0.val)) } s
    else s)

/-- RESET_RELEASE (R456, R460). -/
def execResetRelease (qslot : BitVec 3) (hostport : Bool) (s : State) (flash : List FlashPart := []) (boot : BootIn := {}) :
    Outcome :=
  .next (leaveReset qslot hostport flash boot s)

/-- RESET_ASSERT (R457). -/
def execResetAssert (pin : ResetPin) (s : State) : Outcome := .next (pinFall pin s)

/-- REFCLK_LOST (R459). -/
def execRefclkLost (s : State) : Outcome :=
  .next (if inReset s then s else intoReset Code.refclkLost true false s)

/-- REGULATOR_FAULT: treated as a fall of PWR_OK (R457, R486). -/
def execRegulatorFault (s : State) : Outcome :=
  .next (if inReset s then s else intoReset Code.pwrFault false false s)

/-- THERMTRIP (R466). -/
def execThermtrip (s : State) : Outcome :=
  .next (if inReset s then s else intoReset Code.thermtrip false true s)

/-- PROCHOT_SAMPLE (R467). -/
def execProchotSample (low : Bool) (s : State) : Outcome := .next (prochotIn low s)

/-- PWRBRK_SAMPLE (R468). -/
def execPwrbrkSample (low : Bool) (s : State) : Outcome := .next (pwrbrkIn low s)

/-- POWER_CONTROL (R476): the input power of the five rails, in W, taken together, and the energy of the µs. -/
def execPowerControl (vin vaux vddqM vddPhy : Nat) (s : State) (vopt : Nat := 0) (energyUj : Nat := 0) : Outcome :=
  .next (powerSample (vin + vaux + vddqM + vddPhy + vopt) energyUj s)

/-- THERMAL_SENSOR_READ (R478). -/
def execThermalSensorRead (temps : List Int) (s : State) : Outcome := .next (thermalSample temps s)

/-- RAIL_CHECK (R486). -/
def execRailCheck (rails : List RailIn) (s : State) : Outcome := .next (checkRails rails s)

/-- SMB_STATE (0x01). -/
def execSmbState (s : State) : Outcome := .next (let s := romSeen s; smbWord 0x01 (smbStateWord s) s)

/-- SMB_HOTTEST_TEMP (0x02). -/
def execSmbHottestTemp (s : State) : Outcome := .next (smbWord 0x02 (smbTemp (BitVec.ofInt 16 (hottest s)) s) s)

/-- SMB_DIE_TEMP (0x03 to 0x08). -/
def execSmbDieTemp (i : Fin 6) (s : State) : Outcome := .next (smbWord (BitVec.ofNat 8 (3 + i.val)) (smbTemp s.dies.temp[i.val] s) s)

/-- SMB_POWER (0x10). -/
def execSmbPower (s : State) : Outcome := .next (smbWord 0x10 (if hmRuns s then s.power.inputW else 0) s)

/-- SMB_ENERGY (0x11): mJ since VAUX became valid. -/
def execSmbEnergy (s : State) : Outcome := .next (smbAnswer 0x11 true (leBytes 8 (s.power.energyVaux / 1000)) s)

/-- SMB_IDENTITY (0x20). -/
def execSmbIdentity (s : State) : Outcome := .next (let s := romSeen s; smbAnswer 0x20 true (smbIdBytes s) s)

/-- SMB_VERSION (0x21). -/
def execSmbVersion (s : State) : Outcome := .next (let s := romSeen s; smbAnswer 0x21 true (smbVersionBytes s) s)

/-- SMB_RESET_CAUSE (0x28): the read clears it. -/
def execSmbResetCause (s : State) : Outcome :=
  .next (if smbOn s then setBoard { s.board with resetCause := 0 } (smbWord 0x28 s.board.resetCause s) else s)

/-- SMB_LAST_ERR (0x29). -/
def execSmbLastErr (s : State) : Outcome := .next (let s := romSeen s; smbWord 0x29 (lastErr hmBlk s) s)

/-- SMB_IRQ_CLAIM (0x30): nothing is claimed until the harbourmaster runs. -/
def execSmbIrqClaim (s : State) : Outcome :=
  .next (if !smbOn s then s
    else if !hmRuns s then smbWord 0x30 0xFFFF s
    else
      let (n, s) := claimIrq 2 s
      smbWord 0x30 n s)

/-- Whether a write of word `n` with command code `cmd` carries no packet error code or the right one (R463). -/
def pecOk (cmd : Byte) (n : W16) (pec : Option Byte) (s : State) : Bool :=
  let a : BitVec 7 := s.board.smbAddr.getD 0
  pec.all (fun p => p == smbPec ([a.setWidth 8 <<< 1, cmd] ++ leBytes 2 n.toNat))

/-- SMB_IRQ_COMPLETE (0x31): a write with a wrong checksum is discarded (R463). -/
def execSmbIrqComplete (n : W16) (s : State) (pec : Option Byte := none) : Outcome :=
  .next (if smbOn s && hmRuns s && pecOk 0x31 n pec s then completeIrq 2 n.toNat s else s)

/-- SMB_IRQ_TOP (0x32). -/
def execSmbIrqTop (s : State) : Outcome := .next (smbWord 0x32 (topCode 2 s) s)

/-- SMB_ALERT_RESPONSE: the address while SMB_ALERT_N is low (R465), read at the alert response address 0x0C of the SMBus
specification (PRESUMED, log 28). -/
def execSmbAlertResponse (s : State) : Outcome :=
  .next (match s.board.smbAddr with
    | some a =>
      if smbOn s && topCode 2 s != 0xFFFF then post (.smb [a.setWidth 8] (smbPec [0x19, a.setWidth 8])) s else s
    | none => s)

end Sys2Proof.Machine
end

