-- ==== Sys2Proof/Machine/PilotCmds.lean ====
section
/-! DEFINITION. The words of a berth program as commands: the pilot of berth `b` issues the word under predicate `p`. A
word of a unit joins the unit's queue; what it does there is in the unit's file. -/

namespace Sys2Proof.Machine
open Sys2Proof

/-- ADD rd, rs1, rs2 (R142). -/
def execAdd (b : BerthIdx) (p : BitVec 3) (rd rs1 rs2 : BitVec 5) (s : State) : Outcome :=
  awake s (.next (issue b p (.sr .add rd rs1 rs2) .clean s))

/-- SUB rd, rs1, rs2 (R142). -/
def execSub (b : BerthIdx) (p : BitVec 3) (rd rs1 rs2 : BitVec 5) (s : State) : Outcome :=
  awake s (.next (issue b p (.sr .sub rd rs1 rs2) .clean s))

/-- AND rd, rs1, rs2 (R142). -/
def execAnd (b : BerthIdx) (p : BitVec 3) (rd rs1 rs2 : BitVec 5) (s : State) : Outcome :=
  awake s (.next (issue b p (.sr .and rd rs1 rs2) .clean s))

/-- OR rd, rs1, rs2 (R142). -/
def execOr (b : BerthIdx) (p : BitVec 3) (rd rs1 rs2 : BitVec 5) (s : State) : Outcome :=
  awake s (.next (issue b p (.sr .or rd rs1 rs2) .clean s))

/-- XOR rd, rs1, rs2 (R142). -/
def execXor (b : BerthIdx) (p : BitVec 3) (rd rs1 rs2 : BitVec 5) (s : State) : Outcome :=
  awake s (.next (issue b p (.sr .xor rd rs1 rs2) .clean s))

/-- SHL rd, rs1, rs2 (R142). -/
def execShl (b : BerthIdx) (p : BitVec 3) (rd rs1 rs2 : BitVec 5) (s : State) : Outcome :=
  awake s (.next (issue b p (.sr .shl rd rs1 rs2) .clean s))

/-- SHR rd, rs1, rs2 (R142). -/
def execShr (b : BerthIdx) (p : BitVec 3) (rd rs1 rs2 : BitVec 5) (s : State) : Outcome :=
  awake s (.next (issue b p (.sr .shr rd rs1 rs2) .clean s))

/-- SAR rd, rs1, rs2 (R142). -/
def execSar (b : BerthIdx) (p : BitVec 3) (rd rs1 rs2 : BitVec 5) (s : State) : Outcome :=
  awake s (.next (issue b p (.sr .sar rd rs1 rs2) .clean s))

/-- MUL rd, rs1, rs2 (R142). -/
def execMul (b : BerthIdx) (p : BitVec 3) (rd rs1 rs2 : BitVec 5) (s : State) : Outcome :=
  awake s (.next (issue b p (.sr .mul rd rs1 rs2) .clean s))

/-- MULHU rd, rs1, rs2 (R142). -/
def execMulhu (b : BerthIdx) (p : BitVec 3) (rd rs1 rs2 : BitVec 5) (s : State) : Outcome :=
  awake s (.next (issue b p (.sr .mulhu rd rs1 rs2) .clean s))

/-- MINU rd, rs1, rs2 (R142). -/
def execMinu (b : BerthIdx) (p : BitVec 3) (rd rs1 rs2 : BitVec 5) (s : State) : Outcome :=
  awake s (.next (issue b p (.sr .minu rd rs1 rs2) .clean s))

/-- MAXU rd, rs1, rs2 (R142). -/
def execMaxu (b : BerthIdx) (p : BitVec 3) (rd rs1 rs2 : BitVec 5) (s : State) : Outcome :=
  awake s (.next (issue b p (.sr .maxu rd rs1 rs2) .clean s))

/-- ADDI rd, rs1, imm32 (R142). -/
def execAddi (b : BerthIdx) (p : BitVec 3) (rd rs1 : BitVec 5) (imm : W32) (s : State) : Outcome :=
  awake s (.next (issue b p (.si .addi rd rs1 imm) .clean s))

/-- ANDI rd, rs1, imm32 (R142). -/
def execAndi (b : BerthIdx) (p : BitVec 3) (rd rs1 : BitVec 5) (imm : W32) (s : State) : Outcome :=
  awake s (.next (issue b p (.si .andi rd rs1 imm) .clean s))

/-- ORI rd, rs1, imm32 (R142). -/
def execOri (b : BerthIdx) (p : BitVec 3) (rd rs1 : BitVec 5) (imm : W32) (s : State) : Outcome :=
  awake s (.next (issue b p (.si .ori rd rs1 imm) .clean s))

/-- XORI rd, rs1, imm32 (R142). -/
def execXori (b : BerthIdx) (p : BitVec 3) (rd rs1 : BitVec 5) (imm : W32) (s : State) : Outcome :=
  awake s (.next (issue b p (.si .xori rd rs1 imm) .clean s))

/-- SHLI rd, rs1, imm32 (R142). -/
def execShli (b : BerthIdx) (p : BitVec 3) (rd rs1 : BitVec 5) (imm : W32) (s : State) : Outcome :=
  awake s (.next (issue b p (.si .shli rd rs1 imm) .clean s))

/-- SHRI rd, rs1, imm32 (R142). -/
def execShri (b : BerthIdx) (p : BitVec 3) (rd rs1 : BitVec 5) (imm : W32) (s : State) : Outcome :=
  awake s (.next (issue b p (.si .shri rd rs1 imm) .clean s))

/-- SARI rd, rs1, imm32 (R142). -/
def execSari (b : BerthIdx) (p : BitVec 3) (rd rs1 : BitVec 5) (imm : W32) (s : State) : Outcome :=
  awake s (.next (issue b p (.si .sari rd rs1 imm) .clean s))

/-- LIH rd, rs1, imm32 (R142). -/
def execLih (b : BerthIdx) (p : BitVec 3) (rd rs1 : BitVec 5) (imm : W32) (s : State) : Outcome :=
  awake s (.next (issue b p (.si .lih rd rs1 imm) .clean s))

/-- CMP.EQ pd, rs1, rs2 (R142). -/
def execCmpEq (b : BerthIdx) (p : BitVec 3) (pd : BitVec 3) (rs1 rs2 : BitVec 5) (s : State) : Outcome :=
  awake s (.next (issue b p (.cmp .eq pd rs1 rs2) .clean s))

/-- CMP.NE pd, rs1, rs2 (R142). -/
def execCmpNe (b : BerthIdx) (p : BitVec 3) (pd : BitVec 3) (rs1 rs2 : BitVec 5) (s : State) : Outcome :=
  awake s (.next (issue b p (.cmp .ne pd rs1 rs2) .clean s))

/-- CMP.LT pd, rs1, rs2 (R142). -/
def execCmpLt (b : BerthIdx) (p : BitVec 3) (pd : BitVec 3) (rs1 rs2 : BitVec 5) (s : State) : Outcome :=
  awake s (.next (issue b p (.cmp .lt pd rs1 rs2) .clean s))

/-- CMP.LE pd, rs1, rs2 (R142). -/
def execCmpLe (b : BerthIdx) (p : BitVec 3) (pd : BitVec 3) (rs1 rs2 : BitVec 5) (s : State) : Outcome :=
  awake s (.next (issue b p (.cmp .le pd rs1 rs2) .clean s))

/-- CMP.GT pd, rs1, rs2 (R142). -/
def execCmpGt (b : BerthIdx) (p : BitVec 3) (pd : BitVec 3) (rs1 rs2 : BitVec 5) (s : State) : Outcome :=
  awake s (.next (issue b p (.cmp .gt pd rs1 rs2) .clean s))

/-- CMP.GE pd, rs1, rs2 (R142). -/
def execCmpGe (b : BerthIdx) (p : BitVec 3) (pd : BitVec 3) (rs1 rs2 : BitVec 5) (s : State) : Outcome :=
  awake s (.next (issue b p (.cmp .ge pd rs1 rs2) .clean s))

/-- CMP.LTU pd, rs1, rs2 (R142). -/
def execCmpLtu (b : BerthIdx) (p : BitVec 3) (pd : BitVec 3) (rs1 rs2 : BitVec 5) (s : State) : Outcome :=
  awake s (.next (issue b p (.cmp .ltu pd rs1 rs2) .clean s))

/-- CMP.LEU pd, rs1, rs2 (R142). -/
def execCmpLeu (b : BerthIdx) (p : BitVec 3) (pd : BitVec 3) (rs1 rs2 : BitVec 5) (s : State) : Outcome :=
  awake s (.next (issue b p (.cmp .leu pd rs1 rs2) .clean s))

/-- CMP.GTU pd, rs1, rs2 (R142). -/
def execCmpGtu (b : BerthIdx) (p : BitVec 3) (pd : BitVec 3) (rs1 rs2 : BitVec 5) (s : State) : Outcome :=
  awake s (.next (issue b p (.cmp .gtu pd rs1 rs2) .clean s))

/-- CMP.GEU pd, rs1, rs2 (R142). -/
def execCmpGeu (b : BerthIdx) (p : BitVec 3) (pd : BitVec 3) (rs1 rs2 : BitVec 5) (s : State) : Outcome :=
  awake s (.next (issue b p (.cmp .geu pd rs1 rs2) .clean s))

/-- BTST pd, rs1, bit (R142). -/
def execBtst (b : BerthIdx) (p : BitVec 3) (pd : BitVec 3) (rs1 : BitVec 5) (bit : BitVec 6) (s : State) : Outcome :=
  awake s (.next (issue b p (.btst pd rs1 bit) .clean s))

/-- PAND pd, pa, pb (R142). -/
def execPand (b : BerthIdx) (p : BitVec 3) (pd pa pb : BitVec 3) (s : State) : Outcome :=
  awake s (.next (issue b p (.plog .pand pd pa pb) .clean s))

/-- POR pd, pa, pb (R142). -/
def execPor (b : BerthIdx) (p : BitVec 3) (pd pa pb : BitVec 3) (s : State) : Outcome :=
  awake s (.next (issue b p (.plog .por pd pa pb) .clean s))

/-- PANDN pd, pa, pb (R142). -/
def execPandn (b : BerthIdx) (p : BitVec 3) (pd pa pb : BitVec 3) (s : State) : Outcome :=
  awake s (.next (issue b p (.plog .pandn pd pa pb) .clean s))

/-- LD: the event `x` is what the slice reports while it reads (R66) (R132, R142). -/
def execLd (b : BerthIdx) (p : BitVec 3) (rd rb : BitVec 5) (size : BitVec 2) (off : W32) (x : ReadEvent) (s : State) : Outcome :=
  awake s (.next (issue b p (.ld false rd rb size off) x s))

/-- LDS, sign-extending (R132, R142). -/
def execLds (b : BerthIdx) (p : BitVec 3) (rd rb : BitVec 5) (size : BitVec 2) (off : W32) (x : ReadEvent) (s : State) : Outcome :=
  awake s (.next (issue b p (.ld true rd rb size off) x s))

/-- ST (R132, R142). -/
def execSt (b : BerthIdx) (p : BitVec 3) (rs rb : BitVec 5) (size : BitVec 2) (off : W32) (s : State) : Outcome :=
  awake s (.next (issue b p (.st rs rb size off) .clean s))

/-- BR (R138, R142). -/
def execBr (b : BerthIdx) (p : BitVec 3) (off : W16) (s : State) : Outcome :=
  awake s (.next (issue b p (.br off) .clean s))

/-- BRL (R142). -/
def execBrl (b : BerthIdx) (p : BitVec 3) (rd : BitVec 5) (off : W16) (s : State) : Outcome :=
  awake s (.next (issue b p (.brl rd off) .clean s))

/-- JR (R142). -/
def execJr (b : BerthIdx) (p : BitVec 3) (rs1 : BitVec 5) (s : State) : Outcome :=
  awake s (.next (issue b p (.jr rs1) .clean s))

/-- JRL (R142). -/
def execJrl (b : BerthIdx) (p : BitVec 3) (rd rs1 : BitVec 5) (s : State) : Outcome :=
  awake s (.next (issue b p (.jrl rd rs1) .clean s))

/-- NOP (R142). -/
def execNop (b : BerthIdx) (p : BitVec 3) (s : State) : Outcome :=
  awake s (.next (issue b p (.nop) .clean s))

/-- FRAME_END (R133). -/
def execFrameEnd (b : BerthIdx) (p : BitVec 3) (s : State) : Outcome :=
  awake s (.next (issue b p (.frameEnd) .clean s))

/-- SYNC (R143). -/
def execSync (b : BerthIdx) (p : BitVec 3) (mask : BitVec 6) (s : State) : Outcome :=
  awake s (.next (issue b p (.sync mask) .clean s))

/-- RDCTX (R143). -/
def execRdctx (b : BerthIdx) (p : BitVec 3) (rd : BitVec 5) (sel : BitVec 4) (s : State) : Outcome :=
  awake s (.next (issue b p (.rdctx rd sel) .clean s))

/-- VSETVL (R116, R153). -/
def execVsetvl (b : BerthIdx) (p : BitVec 3) (src : Bool) (rs : BitVec 5) (rows cols : BitVec 8) (s : State) : Outcome :=
  awake s (.next (issue b p (.vsetvl src rs rows cols) .clean s))

/-- LT.ISSUE (R144). -/
def execLtIssue (b : BerthIdx) (p : BitVec 3) (ln : BitVec 2) (sc ss sd sg : BitVec 5) (s : State) : Outcome :=
  awake s (.next (issue b p (.ltIssue ln sc ss sd sg) .clean s))

/-- LT.WAIT (R145). -/
def execLtWait (b : BerthIdx) (p : BitVec 3) (ln : BitVec 2) (pd : BitVec 3) (sn : BitVec 5) (clr : Bool) (s : State) : Outcome :=
  awake s (.next (issue b p (.ltWait ln pd sn clr) .clean s))

/-- CH.SEND (R146). -/
def execChSend (b : BerthIdx) (p : BitVec 3) (ln : BitVec 2) (t : BitVec 4) (chan : BitVec 8) (fmt : BitVec 4) (s : State) : Outcome :=
  awake s (.next (issue b p (.chSend ln t chan fmt) .clean s))

/-- CH.RECV (R146). -/
def execChRecv (b : BerthIdx) (p : BitVec 3) (ln : BitVec 2) (t : BitVec 4) (chan : BitVec 8) (s : State) : Outcome :=
  awake s (.next (issue b p (.chRecv ln t chan) .clean s))

/-- ACC_OPEN joins the MXE queue (R90, R147). -/
def execAccOpen (b : BerthIdx) (p : BitVec 3) (g : BitVec 3) (w init : Bool) (sk sn : BitVec 5) (s : State) : Outcome :=
  awake s (.next (issue b p (.accOpen g w init sk sn) .clean s))

/-- ACC_CLOSE joins the MXE queue (R98, R147). -/
def execAccClose (b : BerthIdx) (p : BitVec 3) (g : BitVec 3) (s : State) : Outcome :=
  awake s (.next (issue b p (.accClose g) .clean s))

/-- MMA joins the MXE queue (R92, R147). -/
def execMma (b : BerthIdx) (p : BitVec 3) (g : BitVec 3) (m : MmPair) (mrows : BitVec 8) (s : State) : Outcome :=
  awake s (.next (issue b p (.mma g m mrows) .clean s))

/-- MMA.G joins the MXE queue (R99, R147). -/
def execMmaG (b : BerthIdx) (p : BitVec 3) (g : BitVec 3) (m : MmPair) (n : BitVec 4) (mrows : BitVec 8) (s : State) : Outcome :=
  awake s (.next (issue b p (.mmaG g m n mrows) .clean s))

/-- MMAF joins the MXE queue (R100, R147). -/
def execMmaF (b : BerthIdx) (p : BitVec 3) (g : BitVec 3) (m m2 : MmPair) (mrows : BitVec 8) (s : State) : Outcome :=
  awake s (.next (issue b p (.mmaF g m m2 mrows) .clean s))

/-- MX_FCLR joins the MXE queue (R104, R147). -/
def execMxFclr (b : BerthIdx) (p : BitVec 3) (s : State) : Outcome :=
  awake s (.next (issue b p (.mxFclr) .clean s))

/-- VADD joins the VXE queue (R148, R149). -/
def execVadd (b : BerthIdx) (p : BitVec 3) (v : VFields) (s : State) : Outcome :=
  awake s (.next (issue b p (.vec .vadd v) .clean s))

/-- VSUB joins the VXE queue (R148, R149). -/
def execVsub (b : BerthIdx) (p : BitVec 3) (v : VFields) (s : State) : Outcome :=
  awake s (.next (issue b p (.vec .vsub v) .clean s))

/-- VMUL joins the VXE queue (R148, R149). -/
def execVmul (b : BerthIdx) (p : BitVec 3) (v : VFields) (s : State) : Outcome :=
  awake s (.next (issue b p (.vec .vmul v) .clean s))

/-- VFMA joins the VXE queue (R148, R149). -/
def execVfma (b : BerthIdx) (p : BitVec 3) (v : VFields) (s : State) : Outcome :=
  awake s (.next (issue b p (.vec .vfma v) .clean s))

/-- VMAX joins the VXE queue (R148, R149). -/
def execVmax (b : BerthIdx) (p : BitVec 3) (v : VFields) (s : State) : Outcome :=
  awake s (.next (issue b p (.vec .vmax v) .clean s))

/-- VMIN joins the VXE queue (R148, R149). -/
def execVmin (b : BerthIdx) (p : BitVec 3) (v : VFields) (s : State) : Outcome :=
  awake s (.next (issue b p (.vec .vmin v) .clean s))

/-- VDIV joins the VXE queue (R148, R149). -/
def execVdiv (b : BerthIdx) (p : BitVec 3) (v : VFields) (s : State) : Outcome :=
  awake s (.next (issue b p (.vec .vdiv v) .clean s))

/-- VABS joins the VXE queue (R148, R149). -/
def execVabs (b : BerthIdx) (p : BitVec 3) (v : VFields) (s : State) : Outcome :=
  awake s (.next (issue b p (.vec .vabs v) .clean s))

/-- VNEG joins the VXE queue (R148, R149). -/
def execVneg (b : BerthIdx) (p : BitVec 3) (v : VFields) (s : State) : Outcome :=
  awake s (.next (issue b p (.vec .vneg v) .clean s))

/-- VCVT joins the VXE queue (R148, R149). -/
def execVcvt (b : BerthIdx) (p : BitVec 3) (v : VFields) (s : State) : Outcome :=
  awake s (.next (issue b p (.vec .vcvt v) .clean s))

/-- VRCP joins the VXE queue (R148, R149). -/
def execVrcp (b : BerthIdx) (p : BitVec 3) (v : VFields) (s : State) : Outcome :=
  awake s (.next (issue b p (.vec .vrcp v) .clean s))

/-- VSQRT joins the VXE queue (R148, R149). -/
def execVsqrt (b : BerthIdx) (p : BitVec 3) (v : VFields) (s : State) : Outcome :=
  awake s (.next (issue b p (.vec .vsqrt v) .clean s))

/-- VRSQRT joins the VXE queue (R148, R149). -/
def execVrsqrt (b : BerthIdx) (p : BitVec 3) (v : VFields) (s : State) : Outcome :=
  awake s (.next (issue b p (.vec .vrsqrt v) .clean s))

/-- VEXP joins the VXE queue (R148, R149). -/
def execVexp (b : BerthIdx) (p : BitVec 3) (v : VFields) (s : State) : Outcome :=
  awake s (.next (issue b p (.vec .vexp v) .clean s))

/-- VEXP2 joins the VXE queue (R148, R149). -/
def execVexp2 (b : BerthIdx) (p : BitVec 3) (v : VFields) (s : State) : Outcome :=
  awake s (.next (issue b p (.vec .vexp2 v) .clean s))

/-- VLOG joins the VXE queue (R148, R149). -/
def execVlog (b : BerthIdx) (p : BitVec 3) (v : VFields) (s : State) : Outcome :=
  awake s (.next (issue b p (.vec .vlog v) .clean s))

/-- VLOG2 joins the VXE queue (R148, R149). -/
def execVlog2 (b : BerthIdx) (p : BitVec 3) (v : VFields) (s : State) : Outcome :=
  awake s (.next (issue b p (.vec .vlog2 v) .clean s))

/-- VTANH joins the VXE queue (R148, R149). -/
def execVtanh (b : BerthIdx) (p : BitVec 3) (v : VFields) (s : State) : Outcome :=
  awake s (.next (issue b p (.vec .vtanh v) .clean s))

/-- VSIGMOID joins the VXE queue (R148, R149). -/
def execVsigmoid (b : BerthIdx) (p : BitVec 3) (v : VFields) (s : State) : Outcome :=
  awake s (.next (issue b p (.vec .vsigmoid v) .clean s))

/-- VERF joins the VXE queue (R148, R149). -/
def execVerf (b : BerthIdx) (p : BitVec 3) (v : VFields) (s : State) : Outcome :=
  awake s (.next (issue b p (.vec .verf v) .clean s))

/-- VRED joins the VXE queue (R150). -/
def execVred (b : BerthIdx) (p : BitVec 3) (v : RdFields) (s : State) : Outcome :=
  awake s (.next (issue b p (.vred v) .clean s))

/-- VGET joins the VXE queue (R151). -/
def execVget (b : BerthIdx) (p : BitVec 3) (sd a sx : BitVec 5) (fa : BitVec 4) (xa : Bool) (s : State) : Outcome :=
  awake s (.next (issue b p (.vget sd a sx fa xa) .clean s))

/-- VPUT joins the VXE queue (R151). -/
def execVput (b : BerthIdx) (p : BitVec 3) (d sv sx : BitVec 5) (fd : BitVec 4) (s : State) : Outcome :=
  awake s (.next (issue b p (.vput d sv sx fd) .clean s))

/-- FLAGS.RD joins the VXE queue (R127, R152). -/
def execFlagsRd (b : BerthIdx) (p : BitVec 3) (sd : BitVec 5) (s : State) : Outcome :=
  awake s (.next (issue b p (.flagsRd sd) .clean s))

/-- VX_FCLR joins the VXE queue (R126, R152). -/
def execVxFclr (b : BerthIdx) (p : BitVec 3) (s : State) : Outcome :=
  awake s (.next (issue b p (.vxFclr) .clean s))

/-- OPT.MOM joins the VXE queue (R154). -/
def execOptMom (b : BerthIdx) (p : BitVec 3) (t1 t2 : BitVec 4) (g sa : BitVec 5) (s : State) : Outcome :=
  awake s (.next (issue b p (.optMom t1 t2 g sa) .clean s))

/-- OPT.STEP joins the VXE queue (R154). -/
def execOptStep (b : BerthIdx) (p : BitVec 3) (t1 t2 t4 : BitVec 4) (sa sb : BitVec 5) (s : State) : Outcome :=
  awake s (.next (issue b p (.optStep t1 t2 t4 sa sb) .clean s))

/-- OPT.APPLY joins the VXE queue (R154). -/
def execOptApply (b : BerthIdx) (p : BitVec 3) (t1 t2 t4 : BitVec 4) (g sa sc : BitVec 5) (s : State) : Outcome :=
  awake s (.next (issue b p (.optApply t1 t2 t4 g sa sc) .clean s))

/-- A pilot that waits for an entry of a unit's queue tries again (R54). -/
def entryFree (b : BerthIdx) (s : State) : State :=
  match (berth b s).stall with
  | some (_, w) => if (queueOf w).isSome then retryStall b .clean s else s
  | none => s

/-- The stalled pilot issues into the entry that has freed (R54). -/
def execQueueEntryFree (b : BerthIdx) (s : State) : Outcome :=
  awake s (.next (entryFree b s))

/-- The wait of a stalled word ends and the word issues (R157). -/
def execPilotStallEnd (b : BerthIdx) (s : State) (x : ReadEvent := .clean) : Outcome := awake s (.next (retryStall b x s))

end Sys2Proof.Machine
end

