-- ==== Sys2Proof/Machine/TickOps.lean ====
section
/-! DEFINITION. The tick unit (R25 to R28, R330, R331): its count, TICK messages, locking, the master and the TICK page. -/

namespace Sys2Proof.Machine
open Sys2Proof

def tkBlk : Blk := ⟨Pg.tick, 0⟩
def setTick (t : TickUnit) (s : State) : State := { s with tick := t }

/-! ### The local edge (R28, R330) -/

/-- PERIOD_US accepted takes effect at the second tick after the write (R28). -/
def TickUnit.nextPeriod (t : TickUnit) : TickUnit :=
  match t.periodNext with
  | none => t
  | some (p, 0) => { t with periodUs := p, periodNext := none }
  | some (p, 1) => { t with periodUs := p, periodNext := none }
  | some (p, n + 2) => { t with periodNext := some (p, n + 1) }

/-- The count at a local edge. It stays 0 until the device first locks, which a master does at its first edge (R330). -/
def TickUnit.advance (t : TickUnit) : TickUnit :=
  let t := t.nextPeriod
  if t.masterFirst then
    { t with masterFirst := false, locked := true, everLocked := true, num := t.num + 1, offsetNs := 0 }
  else if t.everLocked then { t with num := t.num + 1 }
  else t

/-! ### TICK messages (R330, R331) -/

/-- The port that the device takes TICK from. -/
def tickPort (s : State) : Nat :=
  if (port s.tick.upPort.toNat s).st = .down then s.tick.upAlt.toNat else s.tick.upPort.toNat

/-- Whether a locked device finds a TICK in step: it marks the present edge or the next, once (log 30). -/
def TickUnit.inStep (t : TickUnit) (n : W64) : Bool :=
  !t.locked || (((n == t.num && t.taken != some (t.num + 1)) || n == t.num + 1) && t.taken != some n)

/-- A TICK is accepted. The device locks once 16 consecutive ticks after the first have come with an offset of at most
16 ns. -/
def TickUnit.accept (t : TickUnit) (m : TickMsg) : TickUnit :=
  let near := decide (m.offsetNs.toInt.natAbs ≤ 16)
  let run := if near && t.taken == some (m.num - 1) then min 16 (t.goodRun + 1) else 0
  let lock := !t.locked && decide (run = 16)
  { t with
    taken := some m.num, missed := none, holdover := false, offsetNs := m.offsetNs, depth := m.depth
    masterAddr := some m.master, asBackup := m.backup, periodUs := m.periodUs, goodRun := run
    locked := t.locked || lock, everLocked := t.everLocked || lock, num := if lock then m.num else t.num }

/-- A TICK message arrives on a port. -/
def takeTick (p : PortIdx) (m : TickMsg) (s : State) : State :=
  let t := s.tick
  if t.masterEn || t.master then
    if m.master = ownDev s then s else report tkBlk Code.tickConflict s
  else if p.val ≠ tickPort s then s
  else if t.inStep m.num then suNote (setTick (t.accept m) s)
  else report tkBlk Code.tickConflict s

/-- The device's own TICK for its present edge; RES_NS is free (log 6). -/
def tickMsg (p : PortIdx) (res : Nat) (s : State) : RawMsg where
  dst := (port p.val s).peerDev
  src := ownDev s
  kind := 0x50
  ttl := s.route.ttl
  mc := false
  h := false
  nf := false
  tag := 0
  epoch := 0
  resv := 0
  lenOk := true
  path := none
  body :=
    let t := s.tick
    leBytes 8 t.num.toNat ++ leBytes 2 t.periodUs.toNat ++ [if t.master then 0 else t.depth + 1] ++
      [BitVec.ofNat 8 (b2n t.asBackup)] ++
      leBytes 2 (if t.master then ownDev s else t.masterAddr.getD 0xFFFF).toNat ++ [0, 0] ++ leBytes 4 res ++
      List.replicate 4 0

/-- Whether the device sends its own TICK after its edge: every device does, but for one at DEPTH 15 or more. -/
def ticksOn (s : State) : Bool := s.tick.master || decide (s.tick.depth.toNat < 15)

/-- TICK leaves on the ports of TK_FWD; the host adapter's port carries none (R332). -/
def sendTicks (s : State) : State :=
  if ticksOn s then
    foldS ((List.finRange 24).filter (fun p => s.tick.fwd.getLsbD p.val && portActive p.val s && !isHostPort p.val s)) (fun p s =>
      let (k, s) := nextFree s
      sendOn p none (tickMsg p ((Config.freeWord k).toNat % 2 ^ 32) s) s) s
  else s

/-! ### Holdover, and the backup (R27, R331) -/

/-- No TICK has been accepted for the present edge (nor for a later one) within half a period. -/
def holdoverNow (s : State) : State :=
  let t := s.tick
  if t.locked && !t.master && !t.holdover && t.taken != some t.num && t.taken != some (t.num + 1) then
    setTick { t with holdover := true, missed := some (now s) } s
  else s

/-- The backup becomes master and continues the count. -/
def takeOver (s : State) : State :=
  let t := s.tick
  if t.backupEn && !t.master && t.locked then
    setTick { t with
      master := true, asBackup := true, holdover := false, missed := none, masterAddr := some (ownDev s) } s
  else s

/-! ### The TICK page (R28, R335) -/

/-- A write of PERIOD_US. -/
def putTickCfg (v : W32) (s : State) : WRes :=
  let p := fld v 0 10
  if p < 2 ∨ 1000 < p ∨ !s.tick.master ∨ (List.range 16).any (fun d => (dom d s).en) then .error Code.configRefused
  else .ok (setTick { s.tick with periodNext := some (BitVec.ofNat 10 p, 2) } s)

/-- A write of TK_ROLE: MASTER_EN starts the device as master, whose first edge comes one period later. -/
def putTkRole (v : W32) (s : State) : WRes :=
  let t := s.tick
  if 23 < fld v 0 5 ∨ 23 < fld v 8 5 then .error Code.configRefused
  else
    let en := v.getLsbD 31
    let t := { t with
      masterEn := en, backupEn := v.getLsbD 30, upAlt := v.extractLsb' 8 5, upPort := v.extractLsb' 0 5 }
    if en ∧ !s.tick.masterEn then
      .ok (setTick { t with
        master := true, masterFirst := !s.tick.master, asBackup := false, holdover := false, missed := none
        masterAddr := some (ownDev s) } s)
    else if !en ∧ s.tick.masterEn then .ok (setTick { t with master := false, masterFirst := false } s)
    else .ok (setTick t s)

def tkRole (t : TickUnit) : W32 :=
  w32 (b2n t.masterEn * 2 ^ 31 + b2n t.backupEn * 2 ^ 30 + t.upAlt.toNat * 2 ^ 8 + t.upPort.toNat)

def tickNumKey : Nat := regKey Pg.tick 0x048

def putTick (off : Nat) (v : W32) (s : State) : WRes :=
  match off with
  | 0x040 => putTickCfg v s
  | 0x050 => putTkRole v s
  | 0x054 => .ok (setTick { s.tick with fwd := v.extractLsb' 0 24 } s)
  | _ => .ok s

def getTick (off : Nat) (s : State) : W32 × State :=
  let t := s.tick
  match off with
  | 0x040 => (t.periodUs.setWidth 32, s)
  | 0x044 => (w32 (b2n t.master * 2 ^ 18 + b2n t.holdover * 2 ^ 17 + b2n t.locked * 2 ^ 16 + t.offsetNs.toNat), s)
  | 0x048 => readLo tickNumKey t.num s
  | 0x04C => readHi tickNumKey t.num s
  | 0x050 => (tkRole t, s)
  | 0x054 => (t.fwd.setWidth 32, s)
  | 0x058 => (t.depth.setWidth 32, s)
  | 0x05C => ((port (tickPort s) s).delayNs, s)
  | _ => (0, s)

/-- Whether a write of a TICK register changes an RWL field (R412). -/
def rwlTick (off : Nat) (v : W32) (s : State) : Bool :=
  let t := s.tick
  match off with
  | 0x040 => v.extractLsb' 0 10 != t.periodUs
  | 0x050 => v &&& 0xC0001F1F != tkRole t
  | 0x054 => v.extractLsb' 0 24 != t.fwd
  | _ => false

/-! ### The commands -/

/-- TICK (R331). -/
def execTick (p : PortIdx) (m : TickMsg) (s : State) : Outcome := awake s (.next (takeTick p m s))

/-- HOLDOVER_START (R27). -/
def execHoldoverStart (s : State) : Outcome := awake s (.next (holdoverNow s))

/-- BACKUP_TAKEOVER (R331). -/
def execBackupTakeover (s : State) : Outcome := awake s (.next (takeOver s))

/-- TICK_CFG_WRITE (R28). -/
def execTickCfgWrite (r : Req) (v : W32) (s : State) : Outcome :=
  awake s (.next (regWrite r tkBlk (rwlTick 0x040 v s) (putTick 0x040 v s) s))

/-- TK_ROLE_WRITE (R330). -/
def execTkRoleWrite (r : Req) (v : W32) (s : State) : Outcome :=
  awake s (.next (regWrite r tkBlk (rwlTick 0x050 v s) (putTick 0x050 v s) s))

end Sys2Proof.Machine
end

