-- ==== Sys2Proof/Machine/FrameOps.lean ====
section
/-! DEFINITION. A frame domain's run (R33 to R50, R499): opening, guard point, commit, hold, disabling. -/

namespace Sys2Proof.Machine
open Sys2Proof

/-! ### Disabling and holding (R49, R53) -/

/-- The domain is disabled: IDLE. -/
def disableDom (d : Nat) (s : State) : State :=
  forgetAhead d <| endWriter d <| modDom d (fun x => { x with
    en := false, st := .idle, offReq := false, holdReq := false, resumeAt := none, nextRun := .fresh, heldRecalled := false
    holdAfterAbort := none, abortDone := false, replayOfOver := false, dataLoss := [], marks := [], waitExt := []
    waitPos := [] }) s

/-- The domain is held; `again` says that RESUME runs its frame as a replay. -/
def holdDom (d : Nat) (again : Bool) (s : State) : State :=
  modDom d (fun x => { x with
    st := .held, holdReq := false, resumeAt := none, holdAfterAbort := none, heldRecalled := again, waitExt := [], waitPos := [] }) s

/-- FD_CFG.EN is written to 0: what disabling waits for depends on the state (FD_CFG). -/
def turnOff (d : Nat) (s : State) : State :=
  let x := dom d s
  if isOpen d s || (x.st == .recalling && !x.abortDone) then modDom d (fun x => { x with offReq := true }) s
  else disableDom d s

/-! ### Aborts (R47) -/

/-- ABORT_COMPLETE: the domain is disabled, becomes HELD, or waits for a replay or resume tick. A domain whose EN was cleared
in OPEN or DONE, and whose run was recalled before its ending tick, is disabled here: R34 speaks of the ending tick after the
commit, which does not come (DESIGN CHOICE, log 30). -/
def abortEnds (d : Nat) (s : State) : State :=
  let x := dom d s
  if x.st ≠ .recalling ∨ x.abortDone then s
  else if x.offReq then disableDom d s
  else
    match x.holdAfterAbort with
    | some c => holdDom d (c != Code.recallLate) (setLastErr (Blk.fd d) c s)
    | none => modDom d (fun x => { x with abortDone := true }) s

/-! ### Opening (R33, R36, R48, R129, R256, R342) -/

/-- A lighter at an opening tick (R70, R72). A load of the driver that never completes does not hold it (log 16). -/
def Lighter.openFrame (l : Lighter) : Lighter :=
  { l with stopped := false, done := 0, run := l.run.filter (fun r => !r.dead) }

/-- The groups at an opening tick: CLOSED, flags 0, contents open (R89). -/
def openGroups (gs : Tbl Group) (fill : Nat) : Tbl Group :=
  (List.range 8).map (fun g =>
    (g, { tget gs ({} : Group) g with opened := false, flags := 0, bank := { fill := some fill } }))

/-- A berth at an opening tick: its pilot starts at ENTRY (R129), flags, VL and stops are cleared (R104, R109, R116, R126,
R134, R145), tiles and groups are open (R38, R89), no channel state is left (R81). A HALTED pilot's LAST_ERR stays after its
HALTED state ends: the spec does not say whether it does (DESIGN CHOICE, log 36). -/
def Berth.openFrame (be : Berth) (b : BerthIdx) (f : W64) (fill : Nat) (z : W32) : Berth :=
  { be with
    scal := tset (tset [] 0 1 (b.setWidth 64)) 0 2 f
    pred := 1
    pc := be.entry.setWidth 16
    pl := .run
    stall := none
    dead := false
    ended := false
    tiles := (List.range 16).map (fun i => (i, { fill := some fill }))
    groups := openGroups be.groups fill
    mxStopped := false
    mxflags := 0
    vxStopped := false
    vflags := 0
    vlRows := 128
    vlCols := 128
    stuck := []
    lt := be.lt.map Lighter.openFrame
    ltFlag := false
    postings := []
    checked := []
    audZ := z }

/-- The scratch of a slice is open but for the words above offset 0x0FFF_F7E0 (R67, R68, R232, R256). -/
def openScratch (b : BerthIdx) (fill : Nat) (s : State) : State :=
  foldS (List.range 256) (fun i s =>
    let e := ext (b.toNat * 256 + i) s
    if e.kind = .scratch then
      setMem (s.mem.openRange (e.phys.toNat * extBytes) (if i = 255 then 0xFF7E0 else extBytes) fill) s
    else s) s

/-- One berth opens frame `f`. -/
def openBerth (f : W64) (fill : Nat) (b : BerthIdx) (s : State) : State :=
  let z := auditSeed b f s
  let s := modBerth b (fun be => be.openFrame b f fill z) (openScratch b fill s)
  putLast (postWord b) (leBytes 8 0) (putLast (resultWord b) (leBytes 8 0) s)

/-- The domain at the opening of its next run. -/
def Domain.openRun (x : Domain) (t : Nat) (code : BitVec 4) : Domain :=
  { x with
    st := .opened
    opening := t
    ending := t + x.len.toNat
    guardSeen := false
    abortDone := false
    resumeAt := none
    replays := nextReplays x
    replayOfOver := x.nextRun == .replay && x.replayOfOver
    nextRun := .fresh
    freshUsed := 0
    marks := x.marks.filter (fun m => x.num.toNat ≤ m.f.toNat)
    waitExt := [], waitPos := []
    ran := true
    audCode := code
    audBad := false }

/-- Rank 7 of a boundary of domain `d` that opens no replay: the landing word of the frame after the next is cleared, and
pending entries are taken (R232, R276, R278). -/
def freshBoundary (d : Nat) (s : State) : State :=
  let f := (dom d s).num + 1
  admitEntries d (foldS (domBerths d s) (fun b => putLast (landWord b f) (leBytes 8 0)) s)

/-- The next run of domain `d` opens at this tick. -/
def openRun (d : Nat) (s : State) : State :=
  let x := dom d s
  let fresh := x.nextRun == .fresh
  let bs := domBerths d s
  let s := if fresh then freshBoundary d s else relatchEntries d s
  let s := readStep d (openReductions d (prepareStep d s))
  let s := modDom d (fun x => x.openRun (now s) (BitVec.ofNat 4 (auditCode d s))) s
  let (k, s) := nextFree s
  let s := relandLegs d (foldS bs (openBerth x.num k) s)
  modMember d (fun m => if m.st = .activated then { m with st := .run } else m) s

/-- Whether the domain's next run is due at tick `t`. A replay tick that has passed gives way to the present one. -/
def runDue (x : Domain) (t : Nat) : Bool :=
  x.en &&
    match x.st with
    | .armed => x.resumeAt.getD x.start.toNat == t
    | .recalling => x.abortDone && (match x.resumeAt with
      | some u => decide (u ≤ t)
      | none => false)
    | _ => false

/-- A run marked recalled does not open (R47.2): the domain is held, or waits for the replay tick of that recall. A first
run has had its boundary: what it admits, its replay runs (R48, R278). -/
def skipRun (d : Nat) (m : Mark) (s : State) : State :=
  let s := if (dom d s).nextRun = .fresh then
      modServe d (fun v => { v with undo := v.admitted != [] || v.undo }) (freshBoundary d s)
    else s
  let s := modDom d (fun x => { x with replays := m.replays, nextRun := .replay, marks := x.marks.erase m }) s
  if holdCause m.cause then holdDom d true s
  else
    modDom d (fun x => { x with
      st := .recalling, abortDone := true, replayOfOver := overCause m.cause
      resumeAt := if m.tick = 0 then none else some m.tick }) s

/-- Whether the poisoned extents and the lost positions that domain `d` awaits have all been rebuilt (R214, R364). -/
def extsBack (d : Nat) (s : State) : Bool :=
  let x := dom d s
  x.st == .recalling && x.abortDone && (x.waitExt != [] || x.waitPos != []) &&
    x.waitExt.all (fun e => (ext e s).st != .poisoned && (ext e s).st != .rebuilding) &&
    x.waitPos.all (fun p => !(lostNow d p.1 s).contains p.2)

/-- A domain whose extents are back opens its replay at this tick. -/
def resumeExts (d : Nat) (s : State) : State :=
  if extsBack d s then modDom d (fun x => { x with resumeAt := some (now s), nextRun := .replay, waitExt := [], waitPos := [] }) s
  else s

/-- A domain at rank 7: a run that is due opens, unless the domain is to be disabled or held, or the run is marked recalled. -/
def openDue (d : Nat) (s : State) : State :=
  let s := resumeExts d s
  let x := dom d s
  if x.offReq && !isOpen d s && !(x.st == .recalling && !x.abortDone) then disableDom d s
  else if !runDue x (now s) then s
  else if x.holdReq then
    holdDom d (x.nextRun == .replay) (if x.nextRun = .fresh then freshBoundary d s else s)
  else
    match x.marks.find? (fun m => m.f == x.num && m.replays == nextReplays x) with
    | some m => skipRun d m s
    | none => openRun d s

/-! ### The guard point (R45, R48, R49) -/

/-- The guard point in units of 100 ns since tick 0. -/
def guardAt (x : Domain) (s : State) : Nat := x.ending * (s.tick.periodUs.toNat * 10) - x.guard.toNat

/-- The check at the guard point: an unfinished frame is recalled, with cause AUD_MISMATCH where only its audits keep it from
finishing (R353, R357). -/
def guardCheck (d : Nat) (s : State) : State :=
  let s := checkDone d (modDom d (fun x => { x with guardSeen := true, guardFresh := true }) s)
  if (dom d s).st = .done then s
  else
    let cause := if workDone d s then Code.audMismatch else Code.frameOverrun
    recallReported d cause (replayTick s 0 (dom d s).ending 0) (report (Blk.fd d) Code.frameOverrun s)

/-- GUARD_POINT between base ticks: the guard point of the open run lies in the present tick. -/
def guardPoint (d : Nat) (s : State) : State :=
  let x := dom d s
  if isOpen d s && !x.guardSeen && decide (guardAt x s < (now s + 1) * (s.tick.periodUs.toNat * 10)) then guardCheck d s
  else s

/-- A guard point that has come by the edge of a base tick and has not been seen. -/
def guardEdge (d : Nat) (s : State) : State :=
  let x := dom d s
  if isOpen d s && !x.guardSeen && decide (guardAt x s ≤ now s * (s.tick.periodUs.toNat * 10)) then guardCheck d s else s

/-! ### Commit (R43, R44, R53, R261, R264) -/

/-- The domain once its run has committed: the next frame number is due at this tick. -/
def Domain.committed (x : Domain) (t : Nat) : Domain :=
  { x with
    st := .armed, num := x.num + 1, replays := 0, nextRun := .fresh, resumeAt := some t, replayOfOver := false
    freshUsed := 0, audBad := false, dataLoss := x.dataLoss.filter (fun l => l.f != x.num) }

/-- The step-control object and the step log at the commit of a frame that delivered a FINAL reduction (R261, R369). -/
def commitStep (d : Nat) (skip : Bool) (s : State) : State :=
  bumpStep d skip (if (surv d s).en then writeLog d skip s else s)

/-- A discarded frame has set no DONE bit (R44, R280). -/
def dropDone (d : Nat) (s : State) : State := modServe d (fun v => { v with doneWrites := [] }) s

/-- The fresh extents of a committing frame become the committed versions; copies still in progress complete first, and are
charged (R43, R192, R284; log 42). -/
def commitVersions (d : Nat) (s : State) : State :=
  commitFresh d (foldS ((freshOf d s).filter (fun x => cowOn x s)) (chargeCow d) s)

/-- Rank 4 of the ending tick of domain `d`: its fresh extents become the committed versions; with outcome NONFINITE_SKIP
they are discarded. -/
def commitRun (d : Nat) (s : State) : State :=
  let (final, skip) := finalOutcome d s
  let f := (dom d s).num.toNat
  let s := endWriter d (endReader d (if skip then dropDone d (discardFresh d s) else commitVersions d s))
  let s := modDom d (fun x => { x with st := .armed }) s
  let c := if final then replayCheck d skip s else .none
  let s := if final then commitStep d skip s else s
  let s := if skip then setLastErr (Blk.fd d) Code.nonfiniteSkip s else s
  let s := noteReplay d (forgetLegs d f (commitAccrual d (commitReductions d s)))
  let s := modDom d (fun x => x.committed (now s)) s
  let s := { s with startUp := { s.startUp with committed := true } }
  afterReplay d c (if final then takeCheckpoint d s else s)

/-- Whether the commit of frame `f` is the one that a drain waits for (R264 step 2). -/
def drainsAt (d : Nat) (f : W64) (s : State) : Bool := (member d s).st == .drainArmed && (member d s).drain == f

/-- After a commit of frame `f`: the domain is disabled, or held by HOLD or by a drain. -/
def afterCommit (d : Nat) (f : W64) (s : State) : State :=
  let x := dom d s
  let drains := drainsAt d f s
  let s := if drains then modMember d (fun m => { m with st := .draining }) s else s
  if x.offReq then disableDom d s
  else if x.st = .armed ∧ (x.holdReq ∨ drains) then holdDom d false s
  else s

/-- Domains whose open run ends at this tick. -/
def endsNow (s : State) : List Nat := (List.range 16).filter (fun d => isOpen d s && (dom d s).ending == now s)

/-- Rank 4: CKPT_SAFE whose tick has come, then the commits. -/
def commits (ds : List Nat) (s : State) : State :=
  ackPuts (foldS (List.range 16) (fun d s =>
    let s := applySafe d s
    if ds.contains d && isOpen d s then afterCommit d (dom d s).num (commitRun d s) else s) s)

/-! ### Enabling (R34, R272, R287, R354, R413, R490) -/

/-- The code that EN = 1 is refused with (log 30 gives the order). -/
def enableCode (d : Nat) (s : State) : Option W16 :=
  if (dom d s).start.toNat < now s + 2 ∨ (suState s ≠ 8 ∧ suState s ≠ 9) ∨ lpxFail s ∨
      (domBerths d s).any (fun b => (hdr (Pg.berth b) s).quiesce || !(hdr (Pg.berth b) s).enable) then
    some Code.configRefused
  else if s.health.st = .retired then some Code.deviceRetired
  else serveCode d s

/-- Conditions 1 and 2 of R34, and a length of 0. -/
def fdBad (g n : Nat) (s : State) : Bool := g < 20 || n == 0 || n * s.tick.periodUs.toNat * 10 < g + 10

/-- A write of FD_CFG. -/
def putFdCfg (d : Nat) (v : W32) (s : State) : WRes :=
  let x := dom d s
  let en := v.getLsbD 31
  let g := v.extractLsb' 16 12
  let n := v.extractLsb' 0 16
  let s' := modDom d (fun x => { x with guard := g, len := n }) s
  if !en && x.en && g == x.guard && n == x.len then .ok (turnOff d s)
  else if fdBad g.toNat n.toNat s then .error Code.configRefused
  else if x.en && x.st != .held && (en || g != x.guard || n != x.len) then .error Code.configRefused
  else if en && !x.en then
    match enableCode d s with
    | some c => .error c
    | none => .ok (enableDom d s')
  else if !en && x.en then .ok (turnOff d s')
  else .ok s'

/-- A write of FD_CTRL. -/
def putFdCtrl (d : Nat) (v : W32) (s : State) : WRes :=
  let x := dom d s
  let go := v.getLsbD 0
  if go && (x.st != .held || decide (x.start.toNat < now s + 2) || !s.tick.locked) then .error Code.configRefused
  else
    let s := if go then resumeDom d s else s
    .ok (if v.getLsbD 1 then askHold d s else s)

/-! ### Recalls that come in (R27, R47) -/

/-- TICK_LOST of an enabled domain: the recall of the run that is open, or of the next (R27). -/
def loseTick (d : Nat) (s : State) : State :=
  let x := dom d s
  if isOpen d s then recallOwn d Code.tickLost 0 s
  else
    let s := sendRecall d x.num (nextReplays x) Code.tickLost 0 s
    markRun d x.num (nextReplays x) Code.tickLost 0 s

/-- TICK_LOST: LOCKED is cleared, every domain recalled. -/
def tickLost (s : State) : State :=
  let t := s.tick
  if t.locked && t.holdover then
    suNote (foldS ((List.range 16).filter (fun d => (dom d s).en)) loseTick
      (setTick { t with locked := false, goodRun := 0 } s))
  else s

/-- A recall of a committed frame also leads to the fallback's state (R383). -/
def lateFallback (d : Nat) (s : State) : State :=
  if (surv d s).en then
    report (Blk.sr d) Code.svFallback
      (modSurv d (fun x => { x with rstate := .fallback, received := none, staged := none })
        (modMember d (fun m => { m with st := .drained, actPending := false }) s))
  else s

/-- RECALL (R47): what the recall of missing or corrupt data tells of its path is noted (R338). -/
def takeRecallMsg (m : RecallMsg) (s : State) : State :=
  let d := m.dom.toNat
  let x := dom d s
  let new := x.en && !x.taken.contains (m.f, m.replays)
  let s := takeRecall d m.f m.replays m.cause m.replayTick.toNat s
  let s := if new && decide (m.f.toNat < x.num.toNat) then lateFallback d s else s
  match m.data with
  | some (src, p) => if new then noteLostData d m.f m.cause src p s else s
  | none => s

/-! ### The FRAME page -/

def FdState.code (x : FdState) : Nat :=
  match x with
  | .idle => 0
  | .armed => 1
  | .opened => 2
  | .done => 3
  | .recalling => 4
  | .held => 5

/-- The domain and the register at an offset. -/
def frameGroup (off : Nat) : Option (Nat × Nat) :=
  if 0x100 ≤ off ∧ off < 0x300 then some ((off - 0x100) / 0x20, (off - 0x100) % 0x20) else none

def blkFrame (off : Nat) : Blk :=
  match frameGroup off with
  | some (d, _) => Blk.fd d
  | none => ⟨Pg.frame, 0⟩

def fdCfg (x : Domain) : W32 := w32 (b2n x.en * 2 ^ 31 + x.guard.toNat * 2 ^ 16 + x.len.toNat)
def numKey (d : Nat) : Nat := regKey Pg.frame (0x10C + 0x20 * d)

def putFrame (off : Nat) (v : W32) (s : State) : WRes :=
  match frameGroup off with
  | none => .ok s
  | some (d, r) =>
    let x := dom d s
    let shut := x.en && x.st != .held
    match r with
    | 0x00 => putFdCfg d v s
    | 0x04 => if shut then .error Code.configRefused else .ok (holdLo (startKey d) v s)
    | 0x08 =>
      if shut then .error Code.configRefused
      else .ok (putPair (startKey d) x.start v (fun t => modDom d (fun x => { x with start := t })) s)
    | 0x18 => .ok (modDom d (fun x => { x with freshLimit := v.extractLsb' 0 16 }) s)
    | 0x1C => putFdCtrl d v s
    | _ => .ok s

def getFrame (off : Nat) (s : State) : W32 × State :=
  match frameGroup off with
  | none => (0, s)
  | some (d, r) =>
    let x := dom d s
    match r with
    | 0x00 => (fdCfg x, s)
    | 0x04 => readLo (startKey d) x.start s
    | 0x08 => readHi (startKey d) x.start s
    | 0x0C => readLo (numKey d) x.num s
    | 0x10 => readHi (numKey d) x.num s
    | 0x14 => (w32 ((lastErr (Blk.fd d) s).toNat * 2 ^ 16 + x.replays.toNat * 2 ^ 8 + x.st.code), s)
    | 0x18 => (x.freshUsed ++ x.freshLimit, s)
    | _ => (0, s)

def rwlFrame (off : Nat) (v : W32) (s : State) : Bool :=
  match frameGroup off with
  | some (d, 0) => v &&& 0x8FFFFFFF != fdCfg (dom d s)
  | _ => false

end Sys2Proof.Machine
end

