-- ==== Sys2Proof/Machine/Tick.lean ====
section
/-! DEFINITION. The base tick (R29 to R32): what each rank of the same-tick precedence table does, and the commands of
chapter 02. -/

namespace Sys2Proof.Machine
open Sys2Proof

def allDoms : List Nat := List.range 16

/-! ### Inputs, health -/

/-- The inputs that the tick samples: GPIO levels and the two board signals. -/
def setInputs (t : TickIn) (s : State) : State :=
  let s := foldS (List.range 16) (fun n s => setGpio n { gpio n s with input := t.gpio.getLsbD n } s) s
  { s with board := { s.board with prochotLow := t.prochotLow, pwrbrkLow := t.pwrbrkLow } }

/-- The input energy measured since the last base tick is the tick's energy E (R286, R477). -/
def tickEnergy (s : State) : State :=
  accountTick s.power.tickEnergy { s with power := { s.power with tickEnergy := 0 } }

/-- Clusters found at an audit outcome LASTING take effect at the next base tick (R350). -/
def enterRestricted (s : State) : State :=
  match s.health.restrictNext with
  | none => s
  | some r =>
    let s := restrict r (setHealth { s.health with restrictNext := none } s)
    if s.health.st = .healthy then
      raise Pg.health 1 (report ⟨Pg.health, 0⟩ Code.restrictedEntered
        (toHState .restricted (BitVec.ofNat 8 (b2n r.band + 2 * b2n r.load)) s))
    else s

/-! ### Rank 5 (R218, R225, R240, R282, R378) -/

/-- Slots of domain `d` in a state, by manifest index. -/
def slotsIn (d st : Nat) (s : State) : List Nat :=
  byIndex d ((List.range (serveOf d s).nslots.toNat).filter (fun k => slotState (serveOf d s).slotObj.toNat k s == st)) s

/-- After a rollback every SEQUENCE slot completes with SV_SEQ_LOST (R378 step 3). -/
def loseSeqs (d : Nat) (s : State) : State :=
  if !(surv d s).seqLost then s
  else
    let s := modSurv d (fun x => { x with seqLost := false }) s
    if (serveOf d s).serve then foldS (slotsIn d 2 s) (fun k s => completeSlot d k Code.svSeqLost s) s else s

/-- Whether a slot has latched one of the weight-set slots `ks`. -/
def latchedOf (ks : List Nat) (l : Latch) : Bool :=
  let has (b : Option (BitVec 6 × Bool)) : Bool := match b with
    | some b => ks.contains (slotKey b.1.toNat b.2)
    | none => false
  has l.base || has l.adapt

/-- A domain that awaits an extent without a source is held with FRAME_HELD (R240 step 5). -/
def holdWaiting (d : Nat) (s : State) : State :=
  let s := report (Blk.fd d) Code.frameHeld s
  if (dom d s).abortDone then holdDom d true s
  else modDom d (fun x => { x with holdAfterAbort := some Code.frameHeld, resumeAt := none, waitExt := [], waitPos := [] }) s

/-- The slots of a domain that hold an entry, BATCH or SEQUENCE, by manifest index. -/
def heldSlots (d : Nat) (s : State) : List Nat :=
  byIndex d ((List.range (serveOf d s).nslots.toNat).filter (fun k =>
    let st := slotState (serveOf d s).slotObj.toNat k s
    st == 1 || st == 2)) s

/-- A weight extent without a rebuild source (R240 step 5). -/
def loseExt (x : Nat) (s : State) : State :=
  if (ext x s).st ≠ .poisoned then
    setWeights { s.weights with noSource := s.weights.noSource.filter (· ≠ x) } s
  else
    let ks := slotsWith (ext x s).obj.toNat s
    foldS allDoms (fun d s =>
      let s := foldS ((heldSlots d s).filter (fun k => latchedOf ks (tget (serveOf d s).latches {} k)))
        (fun k s => completeSlot d k Code.weightsUnavailable s) s
      if (dom d s).st = .recalling ∧ (dom d s).waitExt.contains x then holdWaiting d s else s) s

/-- Batches of a recalled frame that waits for weight extents complete once their deadline has passed (R240 step 6). -/
def lateBatches (d : Nat) (s : State) : State :=
  let x := dom d s
  if x.st = .recalling ∧ x.waitExt.any (fun e => busyMember (ext e s).obj.toNat s) then
    foldS ((heldSlots d s).filter (fun k =>
        let t := (tget (serveOf d s).latches {} k).deadline
        t != 0 && decide (t.toNat < now s)))
      (fun k s => completeSlot d k Code.weightsUnavailable s) s
  else s

/-- Rank 5. -/
def leaves (ended : List Nat) (s : State) : State :=
  let s := foldS allDoms undoLatches s
  let s := foldS ended serveLeaves s
  let s := foldS allDoms loseSeqs s
  let s := foldS s.weights.noSource loseExt s
  stagedReleases (drainSlots (foldS allDoms lateBatches s))

/-! ### The ranks (R32) -/

/-- Rank 3: membership changes, planned and by recovery. -/
def rank3 (s : State) : State := memberships (activations s)

/-- Ranks 3 to 6, the guard points of the edge before them: the domains whose runs end at this tick, and the state. -/
def ranks3to6 (s : State) : List Nat × State :=
  let s := rank3 (foldS allDoms guardEdge s)
  let ended := endsNow s
  (ended, switchSets (leaves ended (commits ended s)))

/-- Rank 7 up to the openings: staged writes, slot commands. A domain that ends a frame and is held has its boundary all the
same: entries are taken (R278). -/
def beforeOpenings (ended : List Nat) (s : State) : State :=
  let s := slotCmds (stagedWrites s)
  foldS (ended.filter (fun d => (dom d s).st == .held)) freshBoundary s

/-- Rank 7. -/
def rank7 (ended : List Nat) (s : State) : State := foldS allDoms openDue (beforeOpenings ended s)

/-- The caravans of the domains that open at this tick, after rank 7 (R229). They start after the ranks that rebuild and move
extents: what a leg's read poisons waits for the next base tick (R240). -/
def openCaravans (legs : List LegRead) (s : State) : State :=
  foldS (allDoms.filter (fun d => isOpen d s && (dom d s).opening == now s)) (openCaravan legs) s

/-- Rank 8, after the rebuilds: groups that POISONED extents without a rebuild have broken (R362, R382). -/
def brokenGroups (s : State) : State :=
  foldS allDoms (fun d s =>
    if (surv d s).en then
      let r := breakGroups d s
      if r.1 then fallback d r.2 else r.2
    else s) s

/-- Ranks 8 and 9, and the residency query. -/
def moves (s : State) : State := answerQuery (movesRank9 (movesRank8 (startShards (brokenGroups (startRebuilds s)))))

/-- Rank 11. Work outside frames that has completed in the ranks is added at this tick (R285). -/
def rank11 (s : State) : State :=
  let s := flushLate (presentIrq (fireTimers (foldS allDoms sendRecords s)))
  foldS allDoms (modDom · (fun x => { x with guardFresh := false })) s

/-- All ranks of a base tick, highest first. -/
def ranks (legs : List LegRead) (s : State) : State :=
  let (ended, s) := ranks3to6 s
  rank11 (foldS allDoms readManifest (openCaravans legs (moves (rank7 ended s))))

/-- The edge up to the ranks: the inputs are sampled, the interval that ends is accounted, the count advances, TICK leaves. -/
def edgeStart (t : TickIn) (s : State) : State :=
  let s := tickEnergy (setInputs t s)
  postShards (enterRestricted (sendTicks (setTick s.tick.advance s)))

/-- BASE_TICK outside reset: the edge, the ranks, the recalls they ask for and the clears of the accounts. -/
def tickEdge (t : TickIn) (s : State) : State :=
  suNote (clearClients (takeRecallNow (ranks t.legs (edgeStart t s))))

/-- BASE_TICK outside reset, with the errors of the edge as one cycle (R410). -/
def baseTick (t : TickIn) (s : State) : State := firstOfCycle s (tickEdge t s)

/-! ### The commands -/

def frameBlk (d : DomIdx) : Blk := Blk.fd d.toNat
def fdOff (d : DomIdx) (r : Nat) : Nat := 0x100 + 0x20 * d.toNat + r

/-- BASE_TICK (R32). In reset nothing ticks (R457); the inputs are the pins' own, and without VAUX nothing samples them
(R453). -/
def execBaseTick (t : TickIn) (s : State) : Outcome :=
  .next (if inReset s then (if s.board.vaux then setInputs t s else s) else baseTick t s)

/-- TICK_LOST (R27). -/
def execTickLost (s : State) : Outcome := awake s (.next (tickLost s))

/-- FD_CFG_WRITE (R34, R53). -/
def execFdCfgWrite (r : Req) (d : DomIdx) (v : W32) (s : State) : Outcome :=
  awake s (.next (regWrite r (frameBlk d) (rwlFrame (fdOff d 0) v s) (putFdCfg d.toNat v s) s))

/-- HOLD (R49, R53). -/
def execHold (r : Req) (d : DomIdx) (s : State) : Outcome :=
  awake s (.next (regWrite r (frameBlk d) false (putFdCtrl d.toNat 2 s) s))

/-- RESUME (R49). -/
def execResume (r : Req) (d : DomIdx) (s : State) : Outcome :=
  awake s (.next (regWrite r (frameBlk d) false (putFdCtrl d.toNat 1 s) s))

/-- GUARD_POINT (R45). -/
def execGuardPoint (d : DomIdx) (s : State) : Outcome := awake s (.next (guardPoint d.toNat s))

/-- RECALL (R47). -/
def execRecall (m : RecallMsg) (s : State) : Outcome := awake s (.next (takeRecallMsg m s))

/-- ABORT_COMPLETE (R47). -/
def execAbortComplete (d : DomIdx) (s : State) : Outcome := awake s (.next (abortEnds d.toNat s))

end Sys2Proof.Machine
end

