-- ==== Sys2Proof/Machine/Regs.lean ====
section
/-! DEFINITION. Every register page under one address (R404 to R409): a register access by page and offset, and the register
commands that have no row of their own. -/

namespace Sys2Proof.Machine
open Sys2Proof

/-! ### The page header (R409) -/

/-- PAGE_CAP. -/
def pageCap (p count : Nat) : W32 :=
  w32 (3 * 2 ^ 28 + b2n (decide (p < 0x200)) * 2 ^ 17 + b2n (decide (p < 0x100)) * 2 ^ 16 + count)

/-- STATUS. -/
def pageStatus (p : Nat) (s : State) : W32 :=
  w32 (4 * b2n ((hdr p s).errStatus != 0) + 2 * b2n (pageQuiesced p s) + b2n (pageBusy p s))

def getHdr (p off : Nat) (s : State) : W32 :=
  let h := hdr p s
  match off, pageInfo p with
  | 0x000, some (t, i, _) => w32 (t * 2 ^ 16 + i * 2 ^ 8 + 1)
  | 0x004, some (_, _, n) => pageCap p n
  | 0x008, _ => w32 (ctrlWord p s)
  | 0x00C, _ => pageStatus p s
  | 0x010, _ => h.errStatus.setWidth 32
  | 0x014, _ => h.errMask.setWidth 32
  | 0x018, _ => h.errFirst.setWidth 32
  | 0x01C, _ => h.errCount
  | 0x020, _ => h.eventStatus
  | 0x024, _ => h.eventEnable
  | 0x028, _ => (ownerClient p s).setWidth 32
  | 0x02C, _ => h.lock.setWidth 32
  | _, _ => 0

def putHdr (r : Req) (p off : Nat) (v : W32) (s : State) : WRes :=
  match off with
  | 0x008 => putCtrl p v s
  | 0x02C => putLock r p v s
  | off => .ok (setHdr p ((hdr p s).putErr off v (eventBits p)) s)

/-! ### Block registers by page -/

/-- A CDIE page: the die's registers and its seams (R310, R421). -/
def cdieReg (c off : Nat) (s : State) : W32 :=
  if 0x080 ≤ off ∧ off < 0x08C then seamStatus c ((off - 0x080) / 4) s
  else if 0x090 ≤ off ∧ off < 0x09C then (seam c ((off - 0x090) / 4) s).replay
  else getCdie c off s

def putCdie (c off : Nat) (v : W32) (s : State) : WRes :=
  if 0x090 ≤ off ∧ off < 0x09C then
    let k := (off - 0x090) / 4
    .ok (setSeam c k { seam c k s with replay := clearBy (seam c k s).replay v } s)
  else putPeak (0x200 + c) off s

/-- The FRAME page: its timer slots and its domains. -/
def putFramePage (client : BitVec 8) (off : Nat) (v : W32) (s : State) : WRes :=
  match timerAt off with
  | some (i, reg) => putTimer client i reg v s
  | none => putFrame off v s

def getFramePage (off : Nat) (s : State) : W32 × State :=
  match timerAt off with
  | some (i, reg) => getTimer i reg s
  | none => getFrame off s

/-- A write of a block's register at an offset from 0x040. LG_CMD of the LEDGER page has its own way to answer. -/
def putBlock (r : Req) (p off : Nat) (v : W32) (s : State) : WRes :=
  if p < 0x100 then putBerth (BitVec.ofNat 8 p) off v s
  else if p < 0x200 then putLighter (BitVec.ofNat 8 p) off v s
  else if p < 0x204 then putCdie (p - 0x200) off v s
  else if p < 0x206 then putPeak p off s
  else if p < 0x228 then putLpx (p - 0x210) off v s
  else if p < 0x248 then
    match portOf (p - 0x230) with
    | some q => putPort q off v s
    | none => .ok s
  else if p = Pg.route then putRoute off v s
  else if p = Pg.member then putMember off v s
  else if p = Pg.tick then putTick off v s
  else if p = Pg.frame then putFramePage r.client off v s
  else if p = Pg.reduce then putReduce r.client off v s
  else if p = Pg.caravan then putCaravan off v s
  else if p = Pg.object then putObject off v s
  else if p = Pg.survive then putSurvive off v s
  else if p = Pg.health then putHealth off v s
  else if p = Pg.irq0 then putIrq0 off v s
  else if p = Pg.irq1 then putIrq1 off v s
  else if p = Pg.account then putAccount off v s
  else if p = Pg.client then putClient off v s
  else if p = Pg.hmaster then putHmaster r.client off v s
  else if p = Pg.power then putPower off v s
  else if p = Pg.ledger then putLedger r.client off v s
  else if p = Pg.hostbr then putHostBr off v s
  else .ok s

/-- A read of a block's register. -/
def getBlock (p off : Nat) (s : State) : W32 × State :=
  if p < 0x100 then (getBerth (BitVec.ofNat 8 p) off s, s)
  else if p < 0x200 then getLighter (BitVec.ofNat 8 p) off s
  else if p < 0x204 then (cdieReg (p - 0x200) off s, s)
  else if p < 0x206 then (getPdie (p - 0x204) off s, s)
  else if p < 0x228 then (getLpx (p - 0x210) off s, s)
  else if p < 0x248 then
    match portOf (p - 0x230) with
    | some q => getPort q off s
    | none => (0, s)
  else if p = Pg.route then getRoute off s
  else if p = Pg.member then getMember off s
  else if p = Pg.tick then getTick off s
  else if p = Pg.frame then getFramePage off s
  else if p = Pg.reduce then (getReduce off s, s)
  else if p = Pg.caravan then getCaravan off s
  else if p = Pg.object then getObject off s
  else if p = Pg.survive then getSurvive off s
  else if p = Pg.health then getHealth off s
  else if p = Pg.irq0 then (getIrq0 off s, s)
  else if p = Pg.irq1 then getIrq1 off s
  else if p = Pg.account then getAccount off s
  else if p = Pg.client then getClient off s
  else if p = Pg.hmaster then getHmaster off s
  else if p = Pg.power then getPower off s
  else if p = Pg.ledger then (getLedger off s, s)
  else if p = Pg.hostbr then (getHostBr off s, s)
  else (0, s)

/-- The block that a write at an offset belongs to. -/
def blkAt (p off : Nat) : Blk :=
  if off < 0x040 then ⟨p, 0⟩
  else if p < 0x100 then blkBerth (BitVec.ofNat 8 p) off
  else if p < 0x200 then blkLighter (BitVec.ofNat 8 p) off
  else if p = Pg.member then blkMember off
  else if p = Pg.frame then blkFrame off
  else if p = Pg.reduce then blkReduce off
  else if p = Pg.caravan then blkCaravan off
  else if p = Pg.survive then blkSurvive off
  else ⟨p, 0⟩

/-- Whether a write changes an RWL field (R412). -/
def rwlAt (p off : Nat) (v : W32) (s : State) : Bool :=
  if off < 0x040 then false
  else if p < 0x100 then rwlBerth (BitVec.ofNat 8 p) off v s
  else if p = Pg.lpx 0 then off == 0x040 && rwlLpxRate v s
  else if 0x230 ≤ p ∧ p < 0x248 then
    match portOf (p - 0x230) with
    | some q => rwlPort q off v s
    | none => false
  else if p = Pg.tick then rwlTick off v s
  else if p = Pg.frame then rwlFrame off v s
  else if p = Pg.reduce then rwlReduce off v s
  else if p = Pg.caravan then rwlCaravan off v s
  else if p = Pg.survive then rwlSurvive off v s
  else if p = Pg.health then rwlHealth off v s
  else if p = Pg.client then rwlClient off v s
  else if p = Pg.power then rwlPower off v s
  else false

/-! ### Accesses of an existing page (R404 to R407) -/

/-- A write of the register at an aligned offset of a page. -/
def writeReg (r : Req) (p off : Nat) (v : W32) (s : State) : State :=
  if p = Pg.ledger ∧ off = 0x040 then lgCommand r v s
  else if off < 0x040 then regWrite r ⟨p, 0⟩ false (putHdr r p off v s) s
  else
    regWrite r (blkAt p off) (rwlAt p off v s) (putBlock r p off v s) s

/-- A read of the register at an aligned offset of a page. -/
def readReg (r : Req) (p off : Nat) (s : State) : State :=
  regRead r (fun s => if off < 0x040 then (getHdr p off s, s) else getBlock p off s) s

/-! ### Register requests by address (R404, R405) -/

/-- The acting client of an address; the harbourmaster acts as the house. -/
def actingClient (hm : Bool) (addr : BitVec 48) : BitVec 8 :=
  if hm || !addr.getLsbD 32 then 0xFF else addr.extractLsb' 24 8

/-- REG_NO_PAGE: a reserved address bit is set, CLIENT is not 0 without ACT, or the page does not exist. -/
def noPage (addr : BitVec 48) : Bool :=
  fld addr 40 8 != 0x7F || fld addr 33 7 != 0 || (!addr.getLsbD 32 && fld addr 24 8 != 0) || !pageExists (fld addr 12 12)

def addrPage (addr : BitVec 48) : Nat := fld addr 12 12
def addrOff (addr : BitVec 48) : Nat := fld addr 0 12

/-- A request that a condition of R405 or R325 refuses before it reaches a register: the code, and whether the page records
it. -/
def addrCode (h hm write : Bool) (addr : BitVec 48) : Option (W16 × Bool) :=
  if !h && !hm then some (Code.regDenied, false)
  else if noPage addr then some (Code.regNoPage, false)
  else if addrOff addr % 4 ≠ 0 then some (Code.regAlign, write)
  else none

/-- A refused request is answered; a write refused for its alignment is recorded by its page. -/
def refuseAddr (r : Req) (addr : BitVec 48) (c : W16) (record : Bool) (s : State) : State :=
  if s.startUp.phase = .reset then s
  else answerReq r c 0 (if record then refuse ⟨addrPage addr, 0⟩ c s else s)

def takeRegRd (r : Req) (h : Bool) (addr : BitVec 48) (s : State) : State :=
  match addrCode h r.hm false addr with
  | some (c, rec) => refuseAddr r addr c rec s
  | none => readReg r (addrPage addr) (addrOff addr) s

def takeRegWr (r : Req) (h : Bool) (addr : BitVec 48) (v : W32) (s : State) : State :=
  match addrCode h r.hm true addr with
  | some (c, rec) => refuseAddr r addr c rec s
  | none => writeReg r (addrPage addr) (addrOff addr) v s

/-- The request of a REG_RD or REG_WR. -/
def reqOf (hm : Bool) (src : W16) (tag : BitVec 14) (back : Option (List (BitVec 5))) (addr : BitVec 48) : Req :=
  { client := actingClient hm addr, hm := hm, src := src, tag := tag, back := back }

/-! ### The commands -/

/-- REG_RD (R405). -/
def execRegRd (h hm : Bool) (src : W16) (tag : BitVec 14) (back : Option (List (BitVec 5))) (addr : BitVec 48) (s : State) :
    Outcome :=
  awake s (.next (takeRegRd (reqOf hm src tag back addr) h addr s))

/-- REG_WR (R406). -/
def execRegWr (h hm : Bool) (src : W16) (tag : BitVec 14) (back : Option (List (BitVec 5))) (addr : BitVec 48) (v : W32)
    (s : State) : Outcome :=
  awake s (.next (takeRegWr (reqOf hm src tag back addr) h addr v s))

/-- A register of a page that exists, at an aligned offset. -/
def regHere (page off : BitVec 12) : Bool := pageExists page.toNat && off.toNat % 4 == 0

/-- REG_LO_READ (R407). -/
def execRegLoRead (r : Req) (page off : BitVec 12) (s : State) : Outcome :=
  awake s (.next (if regHere page off then readReg r page.toNat off.toNat s else s))

/-- REG_LO_WRITE (R407). -/
def execRegLoWrite (r : Req) (page off : BitVec 12) (v : W32) (s : State) : Outcome :=
  awake s (.next (if regHere page off then writeReg r page.toNat off.toNat v s else s))

/-- REG_HI_WRITE (R407). -/
def execRegHiWrite (r : Req) (page off : BitVec 12) (v : W32) (s : State) : Outcome :=
  awake s (.next (if regHere page off then writeReg r page.toNat off.toNat v s else s))

/-- COUNTER_CLEAR_WRITE (R498). -/
def execCounterClearWrite (r : Req) (page off : BitVec 12) (v : W32) (s : State) : Outcome :=
  awake s (.next (if regHere page off then writeReg r page.toNat off.toNat v s else s))

end Sys2Proof.Machine
end

