-- ==== Sys2Proof/Machine/Dispatch.lean ====
section
/-! DEFINITION. The dispatch of a command to its meaning: one arm for each constructor. -/

namespace Sys2Proof.Machine
open Sys2Proof

def exec (i : Instr) (s : State) : Host.Outcome State Fault Refusal :=
  match i with
  -- ticks, frames, recall (02)
  | .baseTick t => Sys2Proof.Machine.execBaseTick t s
  | .tick port m => Sys2Proof.Machine.execTick port m s
  | .holdoverStart => Sys2Proof.Machine.execHoldoverStart s
  | .tickLost => Sys2Proof.Machine.execTickLost s
  | .backupTakeover => Sys2Proof.Machine.execBackupTakeover s
  | .tickCfgWrite r v => Sys2Proof.Machine.execTickCfgWrite r v s
  | .tkRoleWrite r v => Sys2Proof.Machine.execTkRoleWrite r v s
  | .fdCfgWrite r d v => Sys2Proof.Machine.execFdCfgWrite r d v s
  | .hold r d => Sys2Proof.Machine.execHold r d s
  | .resume r d => Sys2Proof.Machine.execResume r d s
  | .guardPoint d => Sys2Proof.Machine.execGuardPoint d s
  | .recall m => Sys2Proof.Machine.execRecall m s
  | .abortComplete d => Sys2Proof.Machine.execAbortComplete d s
  | .tmrCfgWrite r slot reg v => Sys2Proof.Machine.execTmrCfgWrite r slot reg v s
  | .frameTimerFire slot => Sys2Proof.Machine.execFrameTimerFire slot s
  | .gpioPulseEnd pin => Sys2Proof.Machine.execGpioPulseEnd pin s
  -- units of a berth (03 to 06)
  | .queueEntryFree b => Sys2Proof.Machine.execQueueEntryFree b s
  | .pilotStallEnd b x => Sys2Proof.Machine.execPilotStallEnd b s x
  | .engineWordCheck b u => Sys2Proof.Machine.execEngineWordCheck b u s
  | .mxeStart b => Sys2Proof.Machine.execMxeStart b s
  | .accCloseFold b g => Sys2Proof.Machine.execAccCloseFold b g s
  | .vxeStart b => Sys2Proof.Machine.execVxeStart b s
  | .ltDescStart b n x => Sys2Proof.Machine.execLtDescStart b n x s
  | .ltDescComplete b n => Sys2Proof.Machine.execLtDescComplete b n s
  | .sliceReadRetry b off ok => Sys2Proof.Machine.execSliceReadRetry b off ok s
  | .ltGo r b n v => Sys2Proof.Machine.execLtGo r b n v s
  | .chanPost h => Sys2Proof.Machine.execChanPost h s
  | .chan h fmt data => Sys2Proof.Machine.execChan h fmt data s
  | .chanAck b n dropped => Sys2Proof.Machine.execChanAck b n s dropped
  -- pilot words (06)
  | .add b p rd rs1 rs2 => Sys2Proof.Machine.execAdd b p rd rs1 rs2 s
  | .sub b p rd rs1 rs2 => Sys2Proof.Machine.execSub b p rd rs1 rs2 s
  | .and b p rd rs1 rs2 => Sys2Proof.Machine.execAnd b p rd rs1 rs2 s
  | .or b p rd rs1 rs2 => Sys2Proof.Machine.execOr b p rd rs1 rs2 s
  | .xor b p rd rs1 rs2 => Sys2Proof.Machine.execXor b p rd rs1 rs2 s
  | .shl b p rd rs1 rs2 => Sys2Proof.Machine.execShl b p rd rs1 rs2 s
  | .shr b p rd rs1 rs2 => Sys2Proof.Machine.execShr b p rd rs1 rs2 s
  | .sar b p rd rs1 rs2 => Sys2Proof.Machine.execSar b p rd rs1 rs2 s
  | .mul b p rd rs1 rs2 => Sys2Proof.Machine.execMul b p rd rs1 rs2 s
  | .mulhu b p rd rs1 rs2 => Sys2Proof.Machine.execMulhu b p rd rs1 rs2 s
  | .minu b p rd rs1 rs2 => Sys2Proof.Machine.execMinu b p rd rs1 rs2 s
  | .maxu b p rd rs1 rs2 => Sys2Proof.Machine.execMaxu b p rd rs1 rs2 s
  | .addi b p rd rs1 imm => Sys2Proof.Machine.execAddi b p rd rs1 imm s
  | .andi b p rd rs1 imm => Sys2Proof.Machine.execAndi b p rd rs1 imm s
  | .ori b p rd rs1 imm => Sys2Proof.Machine.execOri b p rd rs1 imm s
  | .xori b p rd rs1 imm => Sys2Proof.Machine.execXori b p rd rs1 imm s
  | .shli b p rd rs1 imm => Sys2Proof.Machine.execShli b p rd rs1 imm s
  | .shri b p rd rs1 imm => Sys2Proof.Machine.execShri b p rd rs1 imm s
  | .sari b p rd rs1 imm => Sys2Proof.Machine.execSari b p rd rs1 imm s
  | .lih b p rd rs1 imm => Sys2Proof.Machine.execLih b p rd rs1 imm s
  | .cmpEq b p pd rs1 rs2 => Sys2Proof.Machine.execCmpEq b p pd rs1 rs2 s
  | .cmpNe b p pd rs1 rs2 => Sys2Proof.Machine.execCmpNe b p pd rs1 rs2 s
  | .cmpLt b p pd rs1 rs2 => Sys2Proof.Machine.execCmpLt b p pd rs1 rs2 s
  | .cmpLe b p pd rs1 rs2 => Sys2Proof.Machine.execCmpLe b p pd rs1 rs2 s
  | .cmpGt b p pd rs1 rs2 => Sys2Proof.Machine.execCmpGt b p pd rs1 rs2 s
  | .cmpGe b p pd rs1 rs2 => Sys2Proof.Machine.execCmpGe b p pd rs1 rs2 s
  | .cmpLtu b p pd rs1 rs2 => Sys2Proof.Machine.execCmpLtu b p pd rs1 rs2 s
  | .cmpLeu b p pd rs1 rs2 => Sys2Proof.Machine.execCmpLeu b p pd rs1 rs2 s
  | .cmpGtu b p pd rs1 rs2 => Sys2Proof.Machine.execCmpGtu b p pd rs1 rs2 s
  | .cmpGeu b p pd rs1 rs2 => Sys2Proof.Machine.execCmpGeu b p pd rs1 rs2 s
  | .btst b p pd rs1 bit => Sys2Proof.Machine.execBtst b p pd rs1 bit s
  | .pand b p pd pa pb => Sys2Proof.Machine.execPand b p pd pa pb s
  | .por b p pd pa pb => Sys2Proof.Machine.execPor b p pd pa pb s
  | .pandn b p pd pa pb => Sys2Proof.Machine.execPandn b p pd pa pb s
  | .ld b p rd rb size off x => Sys2Proof.Machine.execLd b p rd rb size off x s
  | .lds b p rd rb size off x => Sys2Proof.Machine.execLds b p rd rb size off x s
  | .st b p rs rb size off => Sys2Proof.Machine.execSt b p rs rb size off s
  | .br b p off => Sys2Proof.Machine.execBr b p off s
  | .brl b p rd off => Sys2Proof.Machine.execBrl b p rd off s
  | .jr b p rs1 => Sys2Proof.Machine.execJr b p rs1 s
  | .jrl b p rd rs1 => Sys2Proof.Machine.execJrl b p rd rs1 s
  | .nop b p => Sys2Proof.Machine.execNop b p s
  | .frameEnd b p => Sys2Proof.Machine.execFrameEnd b p s
  | .sync b p mask => Sys2Proof.Machine.execSync b p mask s
  | .rdctx b p rd sel => Sys2Proof.Machine.execRdctx b p rd sel s
  | .vsetvl b p src rs rows cols => Sys2Proof.Machine.execVsetvl b p src rs rows cols s
  | .ltIssue b p ln sc ss sd sg => Sys2Proof.Machine.execLtIssue b p ln sc ss sd sg s
  | .ltWait b p ln pd sn clr => Sys2Proof.Machine.execLtWait b p ln pd sn clr s
  | .chSend b p ln t chan fmt => Sys2Proof.Machine.execChSend b p ln t chan fmt s
  | .chRecv b p ln t chan => Sys2Proof.Machine.execChRecv b p ln t chan s
  | .accOpen b p g w init sk sn => Sys2Proof.Machine.execAccOpen b p g w init sk sn s
  | .accClose b p g => Sys2Proof.Machine.execAccClose b p g s
  | .mma b p g m mrows => Sys2Proof.Machine.execMma b p g m mrows s
  | .mmaG b p g m n mrows => Sys2Proof.Machine.execMmaG b p g m n mrows s
  | .mmaF b p g m m2 mrows => Sys2Proof.Machine.execMmaF b p g m m2 mrows s
  | .mxFclr b p => Sys2Proof.Machine.execMxFclr b p s
  | .vadd b p v => Sys2Proof.Machine.execVadd b p v s
  | .vsub b p v => Sys2Proof.Machine.execVsub b p v s
  | .vmul b p v => Sys2Proof.Machine.execVmul b p v s
  | .vfma b p v => Sys2Proof.Machine.execVfma b p v s
  | .vmax b p v => Sys2Proof.Machine.execVmax b p v s
  | .vmin b p v => Sys2Proof.Machine.execVmin b p v s
  | .vdiv b p v => Sys2Proof.Machine.execVdiv b p v s
  | .vabs b p v => Sys2Proof.Machine.execVabs b p v s
  | .vneg b p v => Sys2Proof.Machine.execVneg b p v s
  | .vcvt b p v => Sys2Proof.Machine.execVcvt b p v s
  | .vrcp b p v => Sys2Proof.Machine.execVrcp b p v s
  | .vsqrt b p v => Sys2Proof.Machine.execVsqrt b p v s
  | .vrsqrt b p v => Sys2Proof.Machine.execVrsqrt b p v s
  | .vexp b p v => Sys2Proof.Machine.execVexp b p v s
  | .vexp2 b p v => Sys2Proof.Machine.execVexp2 b p v s
  | .vlog b p v => Sys2Proof.Machine.execVlog b p v s
  | .vlog2 b p v => Sys2Proof.Machine.execVlog2 b p v s
  | .vtanh b p v => Sys2Proof.Machine.execVtanh b p v s
  | .vsigmoid b p v => Sys2Proof.Machine.execVsigmoid b p v s
  | .verf b p v => Sys2Proof.Machine.execVerf b p v s
  | .vred b p v => Sys2Proof.Machine.execVred b p v s
  | .vget b p sd a sx fa xa => Sys2Proof.Machine.execVget b p sd a sx fa xa s
  | .vput b p d sv sx fd => Sys2Proof.Machine.execVput b p d sv sx fd s
  | .flagsRd b p sd => Sys2Proof.Machine.execFlagsRd b p sd s
  | .vxFclr b p => Sys2Proof.Machine.execVxFclr b p s
  | .optMom b p t1 t2 g sa => Sys2Proof.Machine.execOptMom b p t1 t2 g sa s
  | .optStep b p t1 t2 t4 sa sb => Sys2Proof.Machine.execOptStep b p t1 t2 t4 sa sb s
  | .optApply b p t1 t2 t4 g sa sc => Sys2Proof.Machine.execOptApply b p t1 t2 t4 g sa sc s
  -- control of a berth, objects, memory (08, 17)
  | .ctrlBlockReset r lighter b => Sys2Proof.Machine.execCtrlBlockReset r lighter b s
  | .ctrlQuiesce r b v => Sys2Proof.Machine.execCtrlQuiesce r b v s
  | .ctrlEnable r b v => Sys2Proof.Machine.execCtrlEnable r b v s
  | .objWinRead r => Sys2Proof.Machine.execObjWinRead r s
  | .objWinWrite r => Sys2Proof.Machine.execObjWinWrite r s
  | .cowCopyComplete x e => Sys2Proof.Machine.execCowCopyComplete x e s
  | .promote r tag => Sys2Proof.Machine.execPromote r tag s
  | .evict r tag => Sys2Proof.Machine.execEvict r tag s
  | .pin r tag => Sys2Proof.Machine.execPin r tag s
  | .unpin r tag => Sys2Proof.Machine.execUnpin r tag s
  | .remap r tag => Sys2Proof.Machine.execRemap r tag s
  | .moveCopyComplete x e => Sys2Proof.Machine.execMoveCopyComplete x e s
  | .moveResRead r => Sys2Proof.Machine.execMoveResRead r s
  | .lpxRateWrite r v => Sys2Proof.Machine.execLpxRateWrite r v s
  | .lpxTrainingComplete m chFail => Sys2Proof.Machine.execLpxTrainingComplete m chFail s
  | .lpxRefresh m chan bank => Sys2Proof.Machine.execLpxRefresh m chan bank s
  | .lpxMr4Read m rate hot => Sys2Proof.Machine.execLpxMr4Read m rate hot s
  | .lpxWckOscRead m => Sys2Proof.Machine.execLpxWckOscRead m s
  | .patrolScrubPass m => Sys2Proof.Machine.execPatrolScrubPass m s
  | .rebuildComplete x => Sys2Proof.Machine.execRebuildComplete x s
  | .memPut q data => Sys2Proof.Machine.execMemPut q data s
  | .memGet q n x => Sys2Proof.Machine.execMemGet q n x s
  | .memResp tag src status data port bad => Sys2Proof.Machine.execMemResp tag src status data s port bad
  | .putAck tag src status => Sys2Proof.Machine.execPutAck tag src status s
  -- weight sets and caravans (09)
  | .wsRead r => Sys2Proof.Machine.execWsRead r s
  | .wsLoad r => Sys2Proof.Machine.execWsLoad r s
  | .wsReady r => Sys2Proof.Machine.execWsReady r s
  | .wsClear r => Sys2Proof.Machine.execWsClear r s
  | .loadGo r reads => Sys2Proof.Machine.execLoadGo r s reads
  | .swGo r v => Sys2Proof.Machine.execSwGo r v s
  | .caravanPrefetch d reads => Sys2Proof.Machine.execCaravanPrefetch d s reads
  | .cvTile t leg tile fmt data port => Sys2Proof.Machine.execCvTile t leg tile fmt data s port
  | .cvLegreq src t leg x => Sys2Proof.Machine.execCvLegreq src t leg s x
  -- reductions, membership (10)
  | .reductionSend ctx red b e => Sys2Proof.Machine.execReductionSend ctx red s b e
  | .redItem m => Sys2Proof.Machine.execRedItem m s
  | .redResult m => Sys2Proof.Machine.execRedResult m s
  | .mbDrain r d => Sys2Proof.Machine.execMbDrain r d s
  | .drainComplete d => Sys2Proof.Machine.execDrainComplete d s
  | .mbActivate r d => Sys2Proof.Machine.execMbActivate r d s
  | .smGo r v => Sys2Proof.Machine.execSmGo r v s
  | .shardData src tag d epoch x off last digest data back port => Sys2Proof.Machine.execShardData src tag d epoch x off last digest data s back port
  | .shardAck src tag epoch status x => Sys2Proof.Machine.execShardAck src tag epoch status x s
  | .shardMoveComplete tag => Sys2Proof.Machine.execShardMoveComplete tag s
  | .smResRead r => Sys2Proof.Machine.execSmResRead r s
  -- serving and accounting (11)
  | .manifestFwd d eff first entries => Sys2Proof.Machine.execManifestFwd d eff first entries s
  | .rqGo r v => Sys2Proof.Machine.execRqGo r v s
  | .accClear r v => Sys2Proof.Machine.execAccClear r v s
  -- optical links (12)
  | .codewordReceive p correctable symbols swap => Sys2Proof.Machine.execCodewordReceive p correctable symbols swap s
  | .flitData p bytes => Sys2Proof.Machine.execFlitData p bytes s
  | .flitIdle p bytes => Sys2Proof.Machine.execFlitIdle p bytes s
  | .flitCtrl p bytes => Sys2Proof.Machine.execFlitCtrl p bytes s
  | .flitKeepalive p bytes delayNs => Sys2Proof.Machine.execFlitKeepalive p bytes delayNs s
  | .flitParam p bytes => Sys2Proof.Machine.execFlitParam p bytes s
  | .nakRetryTimeout p => Sys2Proof.Machine.execNakRetryTimeout p s
  | .ackTimeout p => Sys2Proof.Machine.execAckTimeout p s
  | .keepaliveSend p => Sys2Proof.Machine.execKeepaliveSend p s
  | .kaWindowEnd p => Sys2Proof.Machine.execKaWindowEnd p s
  | .fastRetrainEnd p => Sys2Proof.Machine.execFastRetrainEnd p s
  | .fastRetrainTimeout p => Sys2Proof.Machine.execFastRetrainTimeout p s
  | .portRetrainTimer p => Sys2Proof.Machine.execPortRetrainTimer p s
  | .ptCfgWrite r p v => Sys2Proof.Machine.execPtCfgWrite r p v s
  | .laserMeasureDone p dbm => Sys2Proof.Machine.execLaserMeasureDone p dbm s
  | .lambdaLockTimeout p unlocked => Sys2Proof.Machine.execLambdaLockTimeout p unlocked s
  | .alignDone p txMap txFailed => Sys2Proof.Machine.execAlignDone p txMap s txFailed
  | .trainTimeout p => Sys2Proof.Machine.execTrainTimeout p s
  | .symbolWindowEnd p => Sys2Proof.Machine.execSymbolWindowEnd p s
  | .lambdaSwapComplete p rx => Sys2Proof.Machine.execLambdaSwapComplete p rx s
  | .seamBeatFail die seam pair group lane newMs inward => Sys2Proof.Machine.execSeamBeatFail die seam pair group lane newMs s inward
  -- routing and register access (13, 17)
  | .rtAddrWrite r v => Sys2Proof.Machine.execRtAddrWrite r v s
  | .rtWinRead r => Sys2Proof.Machine.execRtWinRead r s
  | .rtWinWrite r => Sys2Proof.Machine.execRtWinWrite r s
  | .messageForward a m => Sys2Proof.Machine.execMessageForward a m s
  | .xportTimeout tag => Sys2Proof.Machine.execXportTimeout tag s
  | .hostMessage m => Sys2Proof.Machine.execHostMessage m s
  | .event m => Sys2Proof.Machine.execEvent m s
  | .discIdent a m => Sys2Proof.Machine.execDiscIdent a m s
  | .regRd h hm src tag back addr => Sys2Proof.Machine.execRegRd h hm src tag back addr s
  | .regWr h hm src tag back addr v => Sys2Proof.Machine.execRegWr h hm src tag back addr v s
  | .regResp src tag status data => Sys2Proof.Machine.execRegResp src tag status data s
  | .regLoRead r page off => Sys2Proof.Machine.execRegLoRead r page off s
  | .regLoWrite r page off v => Sys2Proof.Machine.execRegLoWrite r page off v s
  | .regHiWrite r page off v => Sys2Proof.Machine.execRegHiWrite r page off v s
  | .counterClearWrite r page off v => Sys2Proof.Machine.execCounterClearWrite r page off v s
  -- health and audit (14)
  | .audReq q => Sys2Proof.Machine.execAudReq q s
  | .auditRecompute b b2 => Sys2Proof.Machine.execAuditRecompute b b2 s
  | .audResp src tag status a1 a2 => Sys2Proof.Machine.execAudResp src tag status a1 a2 s
  | .auditS2 tag b => Sys2Proof.Machine.execAuditS2 tag b s
  | .auditTimeout tag => Sys2Proof.Machine.execAuditTimeout tag s
  | .healthDecay => Sys2Proof.Machine.execHealthDecay s
  | .hlStateWrite r v => Sys2Proof.Machine.execHlStateWrite r v s
  | .applyCap r v => Sys2Proof.Machine.execApplyCap r v s
  | .hlRecNext r v => Sys2Proof.Machine.execHlRecNext r v s
  -- recovery (15)
  | .encode r d group => Sys2Proof.Machine.execEncode r d group s
  | .pqGet src tag d group x => Sys2Proof.Machine.execPqGet src tag d group x s
  | .pqData src status d group x piece digest data port => Sys2Proof.Machine.execPqData src status d group x piece digest data s port
  | .pqAck src status x => Sys2Proof.Machine.execPqAck src status x s
  | .pqStale d group => Sys2Proof.Machine.execPqStale d group s
  | .ckptData src d x off last step digest data port => Sys2Proof.Machine.execCkptData src d x off last step digest data s port
  | .ckptAck src status x => Sys2Proof.Machine.execCkptAck src status x s
  | .ckptDone src d step => Sys2Proof.Machine.execCkptDone src d step s
  | .ckptSafe d epoch step eff => Sys2Proof.Machine.execCkptSafe d epoch step eff s
  | .lossNote src d port suspect cause tDet => Sys2Proof.Machine.execLossNote src d port suspect cause tDet s
  | .probe src d => Sys2Proof.Machine.execProbe src d s
  | .probeAck src d epoch => Sys2Proof.Machine.execProbeAck src d epoch s
  | .probeTimeout d suspect => Sys2Proof.Machine.execProbeTimeout d suspect s
  | .membership d eff m => Sys2Proof.Machine.execMembership d eff m s
  | .membershipStage d => Sys2Proof.Machine.execMembershipStage d s
  | .leaderTimeout d => Sys2Proof.Machine.execLeaderTimeout d s
  | .restart r d => Sys2Proof.Machine.execRestart r d s
  | .ckptNow r d => Sys2Proof.Machine.execCkptNow r d s
  -- interrupts, ledger, locks (16, 17)
  | .irqRemind => Sys2Proof.Machine.execIrqRemind s
  | .irqClaim r t => Sys2Proof.Machine.execIrqClaim r t s
  | .irqComplete r t v => Sys2Proof.Machine.execIrqComplete r t v s
  | .irqSrcWrite r n v => Sys2Proof.Machine.execIrqSrcWrite r n v s
  | .lgClaim r res func => Sys2Proof.Machine.execLgClaim r res func s
  | .lgRelease r res func => Sys2Proof.Machine.execLgRelease r res func s
  | .lgForceRelease r res func => Sys2Proof.Machine.execLgForceRelease r res func s
  | .lockWrite r page v => Sys2Proof.Machine.execLockWrite r page v s
  | .cdTempPeakWrite r page v => Sys2Proof.Machine.execCdTempPeakWrite r page v s
  -- board, power, SMBus (19, 20)
  | .vauxValid => Sys2Proof.Machine.execVauxValid s
  | .smbAddrSample v1 v0 => Sys2Proof.Machine.execSmbAddrSample v1 v0 s
  | .resetRelease qslot hostport flash boot => Sys2Proof.Machine.execResetRelease qslot hostport s flash boot
  | .resetAssert pin => Sys2Proof.Machine.execResetAssert pin s
  | .refclkLost => Sys2Proof.Machine.execRefclkLost s
  | .thermtrip => Sys2Proof.Machine.execThermtrip s
  | .prochotSample low => Sys2Proof.Machine.execProchotSample low s
  | .pwrbrkSample low => Sys2Proof.Machine.execPwrbrkSample low s
  | .powerControl vin vaux vddqM vddPhy vopt energyUj => Sys2Proof.Machine.execPowerControl vin vaux vddqM vddPhy s vopt energyUj
  | .thermalSensorRead temps => Sys2Proof.Machine.execThermalSensorRead temps s
  | .railCheck rails => Sys2Proof.Machine.execRailCheck rails s
  | .smbState => Sys2Proof.Machine.execSmbState s
  | .smbHottestTemp => Sys2Proof.Machine.execSmbHottestTemp s
  | .smbDieTemp k => Sys2Proof.Machine.execSmbDieTemp k s
  | .smbPower => Sys2Proof.Machine.execSmbPower s
  | .smbEnergy => Sys2Proof.Machine.execSmbEnergy s
  | .smbIdentity => Sys2Proof.Machine.execSmbIdentity s
  | .smbVersion => Sys2Proof.Machine.execSmbVersion s
  | .smbResetCause => Sys2Proof.Machine.execSmbResetCause s
  | .smbLastErr => Sys2Proof.Machine.execSmbLastErr s
  | .smbIrqClaim => Sys2Proof.Machine.execSmbIrqClaim s
  | .smbIrqComplete n pec => Sys2Proof.Machine.execSmbIrqComplete n s pec
  | .smbIrqTop => Sys2Proof.Machine.execSmbIrqTop s
  | .smbAlertResponse => Sys2Proof.Machine.execSmbAlertResponse s
  -- boot, identity, access (18, 21)
  | .attest r => Sys2Proof.Machine.execAttest r s
  | .challenge r => Sys2Proof.Machine.execChallenge r s
  | .unlockVendor r => Sys2Proof.Machine.execUnlockVendor r s
  | .unlockOwner r => Sys2Proof.Machine.execUnlockOwner r s
  | .unlockPassword r => Sys2Proof.Machine.execUnlockPassword r s
  | .updateImage r => Sys2Proof.Machine.execUpdateImage r s
  | .installCfg r => Sys2Proof.Machine.execInstallCfg r s
  | .installOwner r => Sys2Proof.Machine.execInstallOwner r s
  | .hmCmdDone => Sys2Proof.Machine.execHmCmdDone s
  | .challengeExpiry => Sys2Proof.Machine.execChallengeExpiry s
  | .unlockWaitEnd => Sys2Proof.Machine.execUnlockWaitEnd s
  | .extest cells => Sys2Proof.Machine.execExtest s cells
  | .samplePreload cells => Sys2Proof.Machine.execSamplePreload s cells
  | .idcode => Sys2Proof.Machine.execIdcode s
  | .bypass => Sys2Proof.Machine.execBypass s
  | .jtagVendorInstruction code act => Sys2Proof.Machine.execJtagVendorInstruction code s act
  | .firmwareBringupDone => Sys2Proof.Machine.execFirmwareBringupDone s
  | .selftestDone layersFail lanes => Sys2Proof.Machine.execSelftestDone layersFail lanes s
  | .clockLockTimeout => Sys2Proof.Machine.execClockLockTimeout s
  | .linkTrainDeadline => Sys2Proof.Machine.execLinkTrainDeadline s
  | .wavelengthsLocked p locked => Sys2Proof.Machine.execWavelengthsLocked p locked s
  | .clockRecoveryLost p lam => Sys2Proof.Machine.execClockRecoveryLost p lam s
  | .rxPowerLow p lam dbm => Sys2Proof.Machine.execRxPowerLow p lam dbm s
  | .patrolScrubRead m chan sector x => Sys2Proof.Machine.execPatrolScrubRead m chan sector x s
  | .regulatorFault => Sys2Proof.Machine.execRegulatorFault s
  | .vauxLost => Sys2Proof.Machine.execVauxLost s
  | .bootRomDone x => Sys2Proof.Machine.execBootRomDone x s
  | .readyToggle => Sys2Proof.Machine.execReadyToggle s
  | .tapReset => Sys2Proof.Machine.execTapReset s

end Sys2Proof.Machine
end

