-- ==== Sys2Proof/Machine/Step.lean ====
section
/-! DEFINITION. One step of the block: the command at the front of the queue, on an empty queue one word of the
lowest-numbered running pilot, else nothing (log 1). -/

namespace Sys2Proof.Machine
open Sys2Proof

def step (s : State) : Host.Outcome State Fault Refusal :=
  match s.pending with
  | c :: rest => exec c { s with pending := rest }
  | [] =>
    match Sys2Proof.Machine.runningPilot s with
    | some b => .next (Sys2Proof.Machine.pilotCycle b s)
    | none => .next s

/-- The state with the command that a word spells at the front of its queue: the table gives no row bits, so no
word spells a command. -/
def State.withFetchWord (s : State) (_nbits _w : Nat) : State := s

end Sys2Proof.Machine
end

