-- ==== Sys2Proof/Safety.lean ====
section
/-! DEFINITION. What counts as a safe run, and the vocabulary the statements use: what an invariant keeps, which part of
the state a command has changed, when the pilot issues a word. -/

namespace Sys2Proof.Machine
open Sys2Proof

/-- The invariant every step keeps: the memory has its canonical form. -/
def Inv (s : State) : Prop := Memory.wf s.mem

/-- What no command does to the state around its effect: the queue is kept, what was sent stays sent, the count
of free values read does not fall, and the memory keeps its canonical form. -/
structure Evolves (s t : State) : Prop where
  pending : t.pending = s.pending
  outbox : ∃ sent, t.outbox = s.outbox ++ sent
  freeCtr : s.freeCtr ≤ t.freeCtr
  mem : Memory.wf s.mem → Memory.wf t.mem

/-- The device is out of reset: the commands outside the VAUX domain act (R453, R457). -/
abbrev Awake (s : State) : Prop := s.startUp.phase ≠ .reset

/-- The commands that act in reset as well: the supplies and reset themselves, the board's signals, the power and thermal
controllers, the SMBus target, the TAP, and the base tick that records inputs (R453, R454, R457). -/
def inVaux (c : Instr) : Bool :=
  match c with
  | .vauxValid | .vauxLost | .smbAddrSample .. | .resetRelease .. | .resetAssert .. | .refclkLost | .regulatorFault
  | .thermtrip | .prochotSample .. | .pwrbrkSample .. | .powerControl .. | .thermalSensorRead .. | .railCheck ..
  | .smbState | .smbHottestTemp | .smbDieTemp .. | .smbPower | .smbEnergy | .smbIdentity | .smbVersion | .smbResetCause
  | .smbLastErr | .smbIrqClaim | .smbIrqComplete .. | .smbIrqTop | .smbAlertResponse
  | .extest .. | .samplePreload .. | .idcode | .bypass | .jtagVendorInstruction .. | .tapReset | .baseTick .. => true
  | _ => false

/-- From `s` to `t` only berth `b` has changed, into `be`. -/
structure OnlyBerth (b : BerthIdx) (be : Berth) (s t : State) : Prop where
  here : berth b t = be
  others : ∀ c, c ≠ b → berth c t = berth c s
  rest : { t with berths := s.berths } = s

/-- From `s` to `t` only domain `d` has changed, into `x`. -/
structure OnlyDom (d : Nat) (x : Domain) (s t : State) : Prop where
  here : dom d t = x
  others : ∀ e, e ≠ d → dom e t = dom e s
  rest : { t with domains := s.domains } = s

/-- From `s` to `t` domain `d`, which was `x`, has been disabled: IDLE, with its frame number, guard and length kept and no
run marked; what its caravan held ahead is forgotten, and nothing else changes (R34, R229). -/
structure Disabled (d : DomIdx) (x : Domain) (s t : State) : Prop where
  idle : (dom d.toNat t).st = .idle ∧ (dom d.toNat t).en = false ∧ (dom d.toNat t).marks = []
  kept : (dom d.toNat t).num = x.num ∧ (dom d.toNat t).guard = x.guard ∧ (dom d.toNat t).len = x.len
  ahead : (caravan d.toNat t).ahead = none
  others : ∀ e, e ≠ d.toNat → dom e t = dom e s
  rest : { t with domains := s.domains, weights := s.weights, mem := s.mem } = s

/-- The pilot of `b` issues a word that uses the scalars `rs`: out of reset it runs, at a word of its memory, the predicate is
1 and none of the scalars waits for the VXE (R128, R130, R131, R457). -/
structure Issues (b : BerthIdx) (p : BitVec 3) (rs : List (BitVec 5)) (s : State) : Prop where
  awake : Awake s
  runs : (berth b s).pl = .run
  inMem : (berth b s).pc.toNat < 32768
  pred : preg (berth b s) p = true
  free : ∀ r ∈ rs, r ≠ 0 → r ∉ pendingScal (berth b s)

/-- From `s` to `t` the pilot of `b` has written scalar `rd` with `v` and gone on to the next word; a write of s0 is
discarded (R139). -/
structure WroteScalar (b : BerthIdx) (rd : BitVec 5) (v : W64) (s t : State) : Prop where
  scalars : ∀ r, sreg (berth b t) r = if r = rd ∧ rd ≠ 0 then v else sreg (berth b s) r
  frame : OnlyBerth b { berth b s with scal := (berth b t).scal, pc := (berth b s).pc + 1 } s t

/-- From `s` to `t` the pilot of `b` has written predicate `pd` with `v` and gone on to the next word; a write of p0 is
discarded (R139). -/
structure WrotePred (b : BerthIdx) (pd : BitVec 3) (v : Bool) (s t : State) : Prop where
  predicates : ∀ q, preg (berth b t) q = if q = pd ∧ pd ≠ 0 then v else preg (berth b s) q
  frame : OnlyBerth b { berth b s with pred := (berth b t).pred, pc := (berth b s).pc + 1 } s t

/-- A register write by `r` reaches a page: the device is out of reset, and the page belongs to the house or to the
client that writes (R411, R493). -/
structure Reaches (r : Req) (page : Nat) (s : State) : Prop where
  awake : Awake s
  owned : ownerClient page s = 0xFF ∨ ownerClient page s = r.client

/-- The lock of a page does not keep `r` from changing an RWL field (R412). -/
def Unlocked (r : Req) (page : Nat) (s : State) : Prop :=
  (hdr page s).lock = 0 ∨ r.hm = true ∨ ((hdr page s).lock = 1 ∧ r.client = 0xFF)

/-- Whether the queue of unit `n` takes one more word (R54). -/
def roomIn (be : Berth) (n : QName) : Prop :=
  match n with
  | .mx => be.mxq.length < 16
  | .vx => be.vxq.length < 16
  | .lt k => be.lt[k.toNat].queue.length < 8

/-- The berth after the word `q` has joined the queue of unit `n` (R54). -/
def joined (be : Berth) (n : QName) (q : QEnt) : Berth :=
  match n with
  | .mx => { be with mxq := be.mxq ++ [q], seq := be.seq + 1, pc := be.pc + 1 }
  | .vx => { be with vxq := be.vxq ++ [q], seq := be.seq + 1, pc := be.pc + 1 }
  | .lt k => { be with
      lt := be.lt.set k.toNat { be.lt[k.toNat] with queue := be.lt[k.toNat].queue ++ [q] }, seq := be.seq + 1
      pc := be.pc + 1 }

/-- From `s` to `t` the bytes `bs` have been written from physical address `a` on: every other byte reads as before,
and nothing else of the memory has changed. -/
structure StoredBytes (a : Nat) (bs : List Byte) (s t : State) : Prop where
  bytes : ∀ k, t.mem.byteAt k = if a ≤ k ∧ k < a + bs.length then bs.getD (k - a) 0 else s.mem.byteAt k
  rest : { t.mem with bytes := s.mem.bytes, unk := s.mem.unk } = s.mem

/-- From `s` to `t` the port of the last data from device `src` has been noted, and nothing else has changed (R338). -/
structure Arrived (src : W16) (port : Nat) (s t : State) : Prop where
  here : lastPort src t = BitVec.ofNat 8 port
  others : ∀ c, c ≠ src → lastPort c t = lastPort c s
  rest : { t with health := { t.health with arrived := s.health.arrived } } = s

/-- The byte of device memory that a request outside any frame finds at a local address: in the committed version of its
extent. -/
def committedAt (a : Nat) (s : State) : Nat := (ext (extOf a).1 s).phys.toNat * 2 ^ 20 + (extOf a).2

/-- From `s` to `t` one message has been sent, after any others: an answer of a kind to a memory request, back along its
path, with a status. -/
def Answers (q : MemReq) (kind : BitVec 8) (status : W16) (s t : State) : Prop :=
  ∃ (l : List Sent) (m : OutMsg), t.outbox = s.outbox ++ l ++ [.msg m] ∧ m.kind = kind ∧ m.dst = q.src ∧ m.tag = q.tag ∧
    m.h = q.h ∧ m.path = q.back.map pathBack ∧ m.body.take 2 = [status.setWidth 8, (status >>> 8).setWidth 8]

/-- From `s` to `t` the device has sent `n` messages of a kind. -/
def SendsOf (n : Nat) (kind : BitVec 8) (s t : State) : Prop :=
  ∃ l : List OutMsg, t.outbox = s.outbox ++ l.map .msg ∧ l.length = n ∧ ∀ m ∈ l, m.kind = kind

/-- A port after the acknowledgement and the credits of a passing flit (R295, R298). -/
def ackedPort (a : AckFields) (x : Port) : Port :=
  { x with
    unacked := if a.ackValid then ackFlits a.ackSeq x.unacked else x.unacked
    credits := if h : a.pool.toNat < 8 then x.credits.set a.pool.toNat (x.credits[a.pool.toNat] + a.credit.toNat)
      else x.credits
    sharedCr := if a.pool = 8 then x.sharedCr + a.credit.toNat else x.sharedCr }

/-- From `s` to `t` port `p` has become `x` and its link has done `acts`; nothing else has changed. -/
structure OnlyPort (p : PortIdx) (x : Port) (acts : List LinkAct) (s t : State) : Prop where
  here : port p t = x
  others : ∀ q, q ≠ p.val → port q t = port q s
  sent : t.outbox = s.outbox ++ acts.map (.link p)
  rest : { t with ports := s.ports, outbox := s.outbox } = s

/-- The command that stands for a word of the pilot of `b` under predicate `p`; `x` is what the slice reports while a load
reads. -/
def wordCommand (b : BerthIdx) (p : BitVec 3) (x : ReadEvent) (w : PWord) : Instr :=
  match w with
  | .sr .add rd a c => .add b p rd a c
  | .sr .sub rd a c => .sub b p rd a c
  | .sr .and rd a c => .and b p rd a c
  | .sr .or rd a c => .or b p rd a c
  | .sr .xor rd a c => .xor b p rd a c
  | .sr .shl rd a c => .shl b p rd a c
  | .sr .shr rd a c => .shr b p rd a c
  | .sr .sar rd a c => .sar b p rd a c
  | .sr .mul rd a c => .mul b p rd a c
  | .sr .mulhu rd a c => .mulhu b p rd a c
  | .sr .minu rd a c => .minu b p rd a c
  | .sr .maxu rd a c => .maxu b p rd a c
  | .si .addi rd a i => .addi b p rd a i
  | .si .andi rd a i => .andi b p rd a i
  | .si .ori rd a i => .ori b p rd a i
  | .si .xori rd a i => .xori b p rd a i
  | .si .shli rd a i => .shli b p rd a i
  | .si .shri rd a i => .shri b p rd a i
  | .si .sari rd a i => .sari b p rd a i
  | .si .lih rd a i => .lih b p rd a i
  | .cmp .eq pd a c => .cmpEq b p pd a c
  | .cmp .ne pd a c => .cmpNe b p pd a c
  | .cmp .lt pd a c => .cmpLt b p pd a c
  | .cmp .le pd a c => .cmpLe b p pd a c
  | .cmp .gt pd a c => .cmpGt b p pd a c
  | .cmp .ge pd a c => .cmpGe b p pd a c
  | .cmp .ltu pd a c => .cmpLtu b p pd a c
  | .cmp .leu pd a c => .cmpLeu b p pd a c
  | .cmp .gtu pd a c => .cmpGtu b p pd a c
  | .cmp .geu pd a c => .cmpGeu b p pd a c
  | .btst pd a i => .btst b p pd a i
  | .plog .pand pd a c => .pand b p pd a c
  | .plog .por pd a c => .por b p pd a c
  | .plog .pandn pd a c => .pandn b p pd a c
  | .ld false rd rb z o => .ld b p rd rb z o x
  | .ld true rd rb z o => .lds b p rd rb z o x
  | .st rs rb z o => .st b p rs rb z o
  | .br o => .br b p o
  | .brl rd o => .brl b p rd o
  | .jr a => .jr b p a
  | .jrl rd a => .jrl b p rd a
  | .nop => .nop b p
  | .frameEnd => .frameEnd b p
  | .sync m => .sync b p m
  | .rdctx rd i => .rdctx b p rd i
  | .vsetvl c r m n => .vsetvl b p c r m n
  | .ltIssue n sc ss sd sg => .ltIssue b p n sc ss sd sg
  | .ltWait n pd sn c => .ltWait b p n pd sn c
  | .chSend n t c f => .chSend b p n t c f
  | .chRecv n t c => .chRecv b p n t c
  | .accOpen g w i sk sn => .accOpen b p g w i sk sn
  | .accClose g => .accClose b p g
  | .mma g m r => .mma b p g m r
  | .mmaG g m n r => .mmaG b p g m n r
  | .mmaF g m n r => .mmaF b p g m n r
  | .mxFclr => .mxFclr b p
  | .vec .vadd v => .vadd b p v
  | .vec .vsub v => .vsub b p v
  | .vec .vmul v => .vmul b p v
  | .vec .vfma v => .vfma b p v
  | .vec .vmax v => .vmax b p v
  | .vec .vmin v => .vmin b p v
  | .vec .vdiv v => .vdiv b p v
  | .vec .vabs v => .vabs b p v
  | .vec .vneg v => .vneg b p v
  | .vec .vcvt v => .vcvt b p v
  | .vec .vrcp v => .vrcp b p v
  | .vec .vsqrt v => .vsqrt b p v
  | .vec .vrsqrt v => .vrsqrt b p v
  | .vec .vexp v => .vexp b p v
  | .vec .vexp2 v => .vexp2 b p v
  | .vec .vlog v => .vlog b p v
  | .vec .vlog2 v => .vlog2 b p v
  | .vec .vtanh v => .vtanh b p v
  | .vec .vsigmoid v => .vsigmoid b p v
  | .vec .verf v => .verf b p v
  | .vred v => .vred b p v
  | .vget sd a sx f xa => .vget b p sd a sx f xa
  | .vput d sv sx f => .vput b p d sv sx f
  | .flagsRd sd => .flagsRd b p sd
  | .vxFclr => .vxFclr b p
  | .optMom t1 t2 g a => .optMom b p t1 t2 g a
  | .optStep t1 t2 t4 a c => .optStep b p t1 t2 t4 a c
  | .optApply t1 t2 t4 g a c => .optApply b p t1 t2 t4 g a c

end Sys2Proof.Machine
end

