-- ==== Sys2Proof/Certificates/Slice0/Obligations.lean ====
section
/-! DEFINITION. The statements for the provers, one proposition each, in the order of OBLIGATIONS.json. -/

open Sys2Proof Sys2Proof.Machine

/-- For every command c, every rest of the queue and every state, step of the state whose queue is c followed by the
rest is exec of c on the state whose queue is the rest. The queue is the model's own (log 1).
(95_what_each_step_holds.md; opcode_table.json) -/
def Obligations.StepRunsFrontCommand : Prop :=
  ∀ (c : Instr) (rest : List Instr) (s : State), step { s with pending := c :: rest } = exec c { s with pending := rest }

/-- On an empty queue: with no running pilot a step changes nothing. With b the berth that runningPilot picks, its
pilot running at a PC below 32,768, a step is the command of the word that lies at PC of b's instruction memory, under
the predicate in bits 55 to 53 of the word. A word that decodes to no instruction halts the pilot with its code and
writes nothing else of the berth. Which pilot runs in a step is the model's choice (log 1).
(05_vector_engine_and_pilot.md; 06_berth_instruction_set.md) -/
def Obligations.IdleStepRunsPilotWord : Prop :=
  ∀ s : State, s.pending = [] →
    (runningPilot s = none → step s = .next s) ∧
    ∀ b, runningPilot s = some b → (berth b s).pc.toNat < 32768 →
      (∀ i, decodeWord (tget (berth b s).imem 0 (berth b s).pc.toNat) = .ok i →
        (berth b s).pl = .run →
        step s = exec (wordCommand b ((tget (berth b s).imem 0 (berth b s).pc.toNat).extractLsb' 53 3) .clean i) s) ∧
      ∀ c, decodeWord (tget (berth b s).imem 0 (berth b s).pc.toNat) = .error c →
        step s = .next (report (Blk.pl b) c (setBerth b { berth b s with pl := .halted, stall := none } s))

/-- Every interrupt source is in one of the states INACTIVE, PENDING, ACTIVE or COMPLETING; at reset every source is
INACTIVE, with PRIORITY 0 and TARGET 0, and every THRESHOLD is 0; every ledger resource is unowned except GPIO0, which
the house owns with function READY (4). At reset, too, the tick period is 10 µs, the device address is 0xFFFF, every
frame domain is IDLE and not enabled, with a fresh limit of 64, every extent is at its reset kind with a slice extent
at its own number, every page is enabled and its error status clear, PL1 is 2,600 W and PL2 2,900 W, the remind period
is 100 ticks, and the transaction time limit is 100 µs. (R393; R415; 02_ticks_frames_commit.md;
08_memory_tiers_and_objects.md; 13_voxle_addressing_routing_transactions.md; 16_interrupt_controller.md;
17_register_pages.md; 20_electrical_and_thermal.md) -/
def Obligations.ResetValues : Prop :=
  (∀ s n, (irqSrc n s).st = .inactive ∨ (irqSrc n s).st = .pending ∨ (irqSrc n s).st = .active ∨
    (irqSrc n s).st = .completing) ∧
  (∀ n, (irqSrc n State.reset).st = .inactive ∧ (irqSrc n State.reset).priority = 0 ∧ (irqSrc n State.reset).target = 0) ∧
  (∀ t : Fin 3, State.reset.irq.thresh[t] = 0) ∧
  (ledgerEntry 0 State.reset) = { owner := some 0xFF, func := 4 } ∧ (∀ r, r ≠ 0 → (ledgerEntry r State.reset).owner = none) ∧
  State.reset.tick.periodUs = 10 ∧ State.reset.route.addr = 0xFFFF ∧
  (∀ d, (dom d State.reset).st = .idle ∧ (dom d State.reset).en = false ∧ (dom d State.reset).freshLimit = 64) ∧
  (∀ x, x < 65536 → (ext x State.reset).kind = .scratch ∧ (ext x State.reset).phys.toNat = x) ∧
  (∀ x, 65536 ≤ x → (ext x State.reset).kind = .pool) ∧
  (∀ p, (hdr p State.reset).enable = true ∧ (hdr p State.reset).errStatus = 0 ∧ (hdr p State.reset).errFirst = 0) ∧
  State.reset.power.pl1 = 2600 ∧ State.reset.power.pl2 = 2900 ∧ State.reset.irq.remind = 100 ∧
  State.reset.route.timeout = 100

/-- The invariant (addresses strictly rising, no listed byte that reads as an unlisted one, open ranges rising, not
empty and without listed bytes) holds at reset. The form is the model's (log 2). (08_memory_tiers_and_objects.md) -/
def Obligations.ResetKeepsInvariant : Prop := Inv State.reset

/-- From every state whose memory has its canonical form, whatever command stands at the front of the queue or
whatever pilot runs, a step answers a next state whose memory has it too. The form is the model's (log 2).
(08_memory_tiers_and_objects.md) -/
def Obligations.StepKeepsInvariant : Prop :=
  ∀ s : State, Inv s → ∃ t, step s = .next t ∧ Inv t

/-- For every command and every state exec answers a next state: no command faults or is refused. The queue is
unchanged, what the device had sent before is the beginning of what it has sent after, and the number of free values
read does not fall. Queue, record of what was sent and free values are the model's (log 1, 5, 7).
(95_what_each_step_holds.md; 17_register_pages.md; opcode_table.json) -/
def Obligations.EveryCommandEvolves : Prop :=
  ∀ (c : Instr) (s : State), ∃ t, exec c s = .next t ∧ Evolves s t

/-- A block that reports a code on a page (whose page is not HEALTH) adds one to ERR_COUNT, which stays at its largest
value, takes the code into ERR_FIRST only when ERR_STATUS had no code yet, sets ERR_STATUS bits 0 and 1, and sets
EVENT_STATUS bit 31 unless ERR_MASK bit 0 masks it. A refused write sets bit 2 in place of bit 1 and is masked by bit
1. Every other page keeps its header, and apart from the headers and the LAST_ERR fields nothing changes.
(17_register_pages.md) -/
def Obligations.ErrorRecord : Prop :=
  ∀ (k : Blk) (c : W16) (s : State), k.page ≠ Pg.health →
    ∀ (refused : Bool) (t : State), t = (if refused then refuse k c s else report k c s) →
    (hdr k.page t).errCount.toNat = min ((hdr k.page s).errCount.toNat + 1) (2 ^ 32 - 1) ∧
    (hdr k.page t).errFirst = (if (hdr k.page s).errStatus.getLsbD 0 then (hdr k.page s).errFirst else c) ∧
    (hdr k.page t).errStatus = (hdr k.page s).errStatus ||| (if refused then 5 else 3) ∧
    (∀ i, i < 32 → (hdr k.page t).eventStatus.getLsbD i = ((hdr k.page s).eventStatus.getLsbD i ||
      (i == 31 && !(hdr k.page s).errMask.getLsbD (if refused then 1 else 0)))) ∧
    (∀ p, p ≠ k.page → hdr p t = hdr p s) ∧
    (hdr k.page t).enable = (hdr k.page s).enable ∧ (hdr k.page t).quiesce = (hdr k.page s).quiesce ∧
    (hdr k.page t).lock = (hdr k.page s).lock ∧ (hdr k.page t).errMask = (hdr k.page s).errMask ∧
    (hdr k.page t).eventEnable = (hdr k.page s).eventEnable ∧
    { t with pages := s.pages, lastErr := s.lastErr } = s

/-- When a word of group 0x1 issues (the pilot runs, the predicate is 1, no scalar it uses is pending), rd takes the
result of rs1 and rs2: the wrapped sum, difference and product, the bitwise operations, shifts by rs2 modulo 64 (SAR
keeps the sign), the upper 64 bits of the unsigned product, the unsigned minimum and maximum. A write of s0 is
discarded. The PC goes to the next word, every other scalar, every other field of the berth, every other berth and the
rest of the state are unchanged. (06_berth_instruction_set.md; 05_vector_engine_and_pilot.md) -/
def Obligations.ScalarArithmeticWords : Prop :=
  ∀ (s : State) (b : BerthIdx) (p : BitVec 3) (rd r1 r2 : BitVec 5), Issues b p [rd, r1, r2] s →
    ∀ x y : W64, x = sreg (berth b s) r1 → y = sreg (berth b s) r2 →
    ∀ q ∈ [(Instr.add b p rd r1 r2, BitVec.ofNat 64 (x.toNat + y.toNat)),
           (.sub b p rd r1 r2, BitVec.ofInt 64 (x.toInt - y.toInt)),
           (.and b p rd r1 r2, x &&& y), (.or b p rd r1 r2, x ||| y), (.xor b p rd r1 r2, x ^^^ y),
           (.shl b p rd r1 r2, BitVec.ofNat 64 (x.toNat * 2 ^ (y.toNat % 64))),
           (.shr b p rd r1 r2, BitVec.ofNat 64 (x.toNat / 2 ^ (y.toNat % 64))),
           (.sar b p rd r1 r2, BitVec.ofInt 64 (x.toInt / 2 ^ (y.toNat % 64))),
           (.mul b p rd r1 r2, BitVec.ofNat 64 (x.toNat * y.toNat)),
           (.mulhu b p rd r1 r2, BitVec.ofNat 64 (x.toNat * y.toNat / 2 ^ 64)),
           (.minu b p rd r1 r2, BitVec.ofNat 64 (min x.toNat y.toNat)),
           (.maxu b p rd r1 r2, BitVec.ofNat 64 (max x.toNat y.toNat))],
      ∃ t, exec q.1 s = .next t ∧ WroteScalar b rd q.2 s t

/-- When a word of group 0x2 issues, rd takes the wrapped sum with the sign-extended immediate, the bitwise operation
with the zero-extended immediate, the shift by the immediate (below 64), or imm32 above the low 32 bits of rs1 (LIH).
The frame is that of the arithmetic words. An immediate shift by 64 or more is refused with IS_RESERVED_BITS: the
pilot halts and writes nothing else of the berth. (06_berth_instruction_set.md; 05_vector_engine_and_pilot.md) -/
def Obligations.ImmediateWords : Prop :=
  ∀ (s : State) (b : BerthIdx) (p : BitVec 3) (rd r1 : BitVec 5) (imm : W32), Issues b p [rd, r1] s →
    ∀ x : W64, x = sreg (berth b s) r1 →
    (∀ q ∈ [(Instr.addi b p rd r1 imm, BitVec.ofInt 64 (x.toInt + imm.toInt)),
            (.andi b p rd r1 imm, x &&& BitVec.ofNat 64 imm.toNat), (.ori b p rd r1 imm, x ||| BitVec.ofNat 64 imm.toNat),
            (.xori b p rd r1 imm, x ^^^ BitVec.ofNat 64 imm.toNat),
            (.lih b p rd r1 imm, BitVec.ofNat 64 (imm.toNat * 2 ^ 32 + x.toNat % 2 ^ 32))],
      ∃ t, exec q.1 s = .next t ∧ WroteScalar b rd q.2 s t) ∧
    (∀ q ∈ [(Instr.shli b p rd r1 imm, BitVec.ofNat 64 (x.toNat * 2 ^ imm.toNat)),
            (.shri b p rd r1 imm, BitVec.ofNat 64 (x.toNat / 2 ^ imm.toNat)),
            (.sari b p rd r1 imm, BitVec.ofInt 64 (x.toInt / 2 ^ imm.toNat))],
      (imm.toNat < 64 → ∃ t, exec q.1 s = .next t ∧ WroteScalar b rd q.2 s t) ∧
      (64 ≤ imm.toNat → exec q.1 s =
        .next (report (Blk.pl b) 0x4102 (setBerth b { berth b s with pl := .halted, stall := none } s))))

/-- When a word of group 0x3 issues, pd takes whether rs1 and rs2 are equal, unequal, or ordered as signed or unsigned
numbers as the word says, the bit of rs1 that the word names, or pa and pb, pa or pb, pa and not pb. A write of p0 is
discarded. The PC goes to the next word; every other predicate, every other field of the berth, every other berth and
the rest of the state are unchanged. (06_berth_instruction_set.md; 05_vector_engine_and_pilot.md) -/
def Obligations.PredicateWords : Prop :=
  ∀ (s : State) (b : BerthIdx) (p pd : BitVec 3),
    (∀ r1 r2 : BitVec 5, Issues b p [r1, r2] s → ∀ x y : W64, x = sreg (berth b s) r1 → y = sreg (berth b s) r2 →
      (∀ q ∈ [(Instr.cmpEq b p pd r1 r2, decide (x.toNat = y.toNat)), (.cmpNe b p pd r1 r2, decide (x.toNat ≠ y.toNat)),
             (.cmpLt b p pd r1 r2, decide (x.toInt < y.toInt)), (.cmpLe b p pd r1 r2, decide (x.toInt ≤ y.toInt)),
             (.cmpGt b p pd r1 r2, decide (y.toInt < x.toInt)), (.cmpGe b p pd r1 r2, decide (y.toInt ≤ x.toInt)),
             (.cmpLtu b p pd r1 r2, decide (x.toNat < y.toNat)), (.cmpLeu b p pd r1 r2, decide (x.toNat ≤ y.toNat)),
             (.cmpGtu b p pd r1 r2, decide (y.toNat < x.toNat)), (.cmpGeu b p pd r1 r2, decide (y.toNat ≤ x.toNat))],
        ∃ t, exec q.1 s = .next t ∧ WrotePred b pd q.2 s t) ∧
      ∀ bit : BitVec 6, ∃ t, exec (.btst b p pd r1 bit) s = .next t ∧
        WrotePred b pd (decide (x.toNat / 2 ^ bit.toNat % 2 = 1)) s t) ∧
    (∀ pa pb : BitVec 3, Issues b p [] s → ∀ x y : Bool, x = preg (berth b s) pa → y = preg (berth b s) pb →
      ∀ q ∈ [(Instr.pand b p pd pa pb, x && y), (.por b p pd pa pb, x || y), (.pandn b p pd pa pb, x && !y)],
        ∃ t, exec q.1 s = .next t ∧ WrotePred b pd q.2 s t)

/-- When a branch word issues, its target is the PC plus the signed offset (BR, BRL) or the whole of rs1 as an
unsigned number (JR, JRL). A target from 0 to 32,767 becomes the PC, and BRL and JRL write rd with PC + 1; nothing
else changes. Any other target is refused with PL_PC_RANGE: the pilot halts and nothing else of the berth changes, the
link included. (06_berth_instruction_set.md; 05_vector_engine_and_pilot.md) -/
def Obligations.BranchWords : Prop :=
  ∀ (s : State) (b : BerthIdx) (p : BitVec 3) (rd r1 : BitVec 5) (off : W16), Issues b p [rd, r1] s →
    ∀ (be : Berth), be = berth b s →
    ∀ q ∈ [(Instr.br b p off, be.pc.toNat + off.toInt, (0 : BitVec 5)), (.brl b p rd off, be.pc.toNat + off.toInt, rd),
           (.jr b p r1, ((sreg be r1).toNat : Int), 0), (.jrl b p rd r1, ((sreg be r1).toNat : Int), rd)],
      (0 ≤ q.2.1 ∧ q.2.1 < 32768 → ∃ t, exec q.1 s = .next t ∧
        OnlyBerth b { be with scal := (berth b t).scal, pc := BitVec.ofInt 16 q.2.1 } s t ∧
        ∀ r, sreg (berth b t) r = if r = q.2.2 ∧ r ≠ 0 then BitVec.ofNat 64 (be.pc.toNat + 1) else sreg be r) ∧
      (¬ (0 ≤ q.2.1 ∧ q.2.1 < 32768) → exec q.1 s =
        .next (report (Blk.pl b) 0x4004 (setBerth b { be with pl := .halted, stall := none } s)))

/-- When they issue: NOP only advances the PC. SYNC advances it when every unit its mask names has an empty queue and
nothing running, and stalls otherwise. RDCTX writes rd with the berth's number (0), the frame number (1), the domain
(2), the device address (3), the slice's base (4), its size 2^28 (5), STEP (6) or the run mode word (7). VSETVL sets
ROWS and COLS, each from 1 to 128, from its fields or from bits 15:8 and 7:0 of rs; a count of 0 or above 128 halts
the pilot with VX_SHAPE and writes nothing else of the berth. LT.WAIT, when LT_DONE of lighter ln is at least the low
32 bits of sn as unsigned numbers, writes the check flag to pd and, with CLR, clears the flag; otherwise it stalls. A
stall leaves the berth as it is but for the pilot's state and the word it holds. FRAME_END stalls until the MXE and
VXE queues are empty and complete and then stops the pilot after this word; it changes no other berth and no domain
but that of the berth. (06_berth_instruction_set.md; 05_vector_engine_and_pilot.md; 03_berths_tiles_lighters.md) -/
def Obligations.SystemWords : Prop :=
  ∀ (s : State) (b : BerthIdx) (p : BitVec 3) (be : Berth), be = berth b s →
    (Issues b p [] s → ∃ t, exec (.nop b p) s = .next t ∧ OnlyBerth b { be with pc := be.pc + 1 } s t) ∧
    (∀ mask : BitVec 6, mask ≠ 0 → Issues b p [] s →
      let idle := (mask.getLsbD 5 = true → be.mxq = [] ∧ be.closing = [] ∧ be.mxStopped = false) ∧
        (mask.getLsbD 4 = true → be.vxq = [] ∧ be.vxStopped = false) ∧
        (∀ n : Fin 4, mask.getLsbD n = true → be.lt[n].queue = [] ∧ be.lt[n].run = none ∧ be.lt[n].stopped = false)
      ∃ t, exec (.sync b p mask) s = .next t ∧
        (idle → OnlyBerth b { be with pc := be.pc + 1 } s t) ∧
        (¬ idle → OnlyBerth b { be with pl := .stalled, stall := some (p, .sync mask) } s t)) ∧
    (∀ (rd : BitVec 5) (sel : BitVec 4), sel.toNat < 8 → Issues b p [rd] s →
      let d := ((berthDom b s).getD 0)
      ∃ t, exec (.rdctx b p rd sel) s = .next t ∧
        WroteScalar b rd ([BitVec.ofNat 64 b.toNat, (dom d s).num, BitVec.ofNat 64 d, BitVec.ofNat 64 s.route.addr.toNat,
          BitVec.ofNat 64 (b.toNat * 2 ^ 28), BitVec.ofNat 64 (2 ^ 28), (member d s).step, (member d s).mode].getD sel.toNat 0)
          s t) ∧
    (∀ (src : Bool) (rs : BitVec 5) (rows cols : BitVec 8),
      (if src then rows = 0 ∧ cols = 0 else rs = 0) → Issues b p (if src then [rs] else []) s →
      let r := if src then (sreg be rs).toNat / 256 % 256 else rows.toNat
      let c := if src then (sreg be rs).toNat % 256 else cols.toNat
      (1 ≤ r ∧ r ≤ 128 ∧ 1 ≤ c ∧ c ≤ 128 → ∃ t, exec (.vsetvl b p src rs rows cols) s = .next t ∧
        OnlyBerth b { be with vlRows := BitVec.ofNat 8 r, vlCols := BitVec.ofNat 8 c, pc := be.pc + 1 } s t) ∧
      (r = 0 ∨ 128 < r ∨ c = 0 ∨ 128 < c → exec (.vsetvl b p src rs rows cols) s =
        .next (report (Blk.pl b) 0x4002 (setBerth b { be with pl := .halted, stall := none } s)))) ∧
    (∀ (ln : BitVec 2) (pd : BitVec 3) (sn : BitVec 5) (clr : Bool), Issues b p [sn] s →
      ∃ t, exec (.ltWait b p ln pd sn clr) s = .next t ∧
        ((sreg be sn).toNat % 2 ^ 32 ≤ be.lt[ln.toNat].done.toNat →
          OnlyBerth b { be with pred := (berth b t).pred, ltFlag := be.ltFlag && !clr, pc := be.pc + 1 } s t ∧
          ∀ q, preg (berth b t) q = if q = pd ∧ q ≠ 0 then be.ltFlag else preg be q) ∧
        (be.lt[ln.toNat].done.toNat < (sreg be sn).toNat % 2 ^ 32 →
          OnlyBerth b { be with pl := .stalled, stall := some (p, .ltWait ln pd sn clr) } s t)) ∧
    (Issues b p [] s →
      let idle := be.mxq = [] ∧ be.closing = [] ∧ be.vxq = [] ∧ be.mxStopped = false ∧ be.vxStopped = false
      ∃ t, exec (.frameEnd b p) s = .next t ∧
        (idle → berth b t = { be with pc := be.pc + 1, pl := .idle, ended := true } ∧
          (∀ c, c ≠ b → berth c t = berth c s) ∧
          (∀ d, some d ≠ berthDom b s → dom d t = dom d s) ∧
          { t with berths := s.berths, domains := s.domains } = s) ∧
        (¬ idle → OnlyBerth b { be with pl := .stalled, stall := some (p, .frameEnd) } s t))

/-- When a word of groups 0x7 to 0xC that goes to a unit issues and passes the checks of the pilot, it joins the end
of the queue of its unit (a lighter holds 8 waiting descriptors, each engine 16 words) with the values its scalar
operands and VL have at issue; the PC goes to the next word and nothing else changes. With the queue full the pilot
stalls, holding the word. CH.SEND and CH.RECV queue the descriptor of the channel shorthand table. A field of formats
V and RD that names no scalar in its mode is captured all the same and not used. (06_berth_instruction_set.md;
05_vector_engine_and_pilot.md; 03_berths_tiles_lighters.md) -/
def Obligations.QueuedWordsCaptureOperands : Prop :=
  ∀ (s : State) (b : BerthIdx) (p : BitVec 3) (x : ReadEvent) (be : Berth) (v : BitVec 5 → W64), be = berth b s →
    v = sreg be →
    ∀ (ln : BitVec 2) (sc ss sd sg : BitVec 5) (t t2 t4 f : BitVec 4) (chan m : BitVec 8) (g : BitVec 3) (w c : Bool)
      (mm mm2 : MmPair) (op : VOp) (vf : VFields) (rf : RdFields),
    ∀ q ∈ ([(.ltIssue ln sc ss sd sg, .lt ln, [v sc, v ss, v sd, v sg]),
            (.chSend ln t chan f, .lt ln,
              [BitVec.ofNat 64 (0x703 + f.toNat * 2 ^ 12 + chan.toNat * 2 ^ 40), BitVec.ofNat 64 t.toNat]),
            (.chRecv ln t chan, .lt ln, [BitVec.ofNat 64 (0x074 + chan.toNat * 2 ^ 40), 0, BitVec.ofNat 64 t.toNat]),
            (.accOpen g w c sc ss, .mx, [v sc, v ss]), (.accClose g, .mx, []), (.mma g mm m, .mx, []),
            (.mmaG g mm f m, .mx, []), (.mmaF g mm mm2 m, .mx, []), (.mxFclr, .mx, []),
            (.vec op vf, .vx, [v vf.a, v vf.b, v vf.sk, v vf.sn]), (.vred rf, .vx, [v rf.a, v rf.b]),
            (.vget sc ss sd f c, .vx, [v sd]), (.vput sc ss sd f, .vx, [v ss, v sd]), (.flagsRd sc, .vx, []),
            (.vxFclr, .vx, []), (.optMom t t2 sc ss, .vx, [v ss]), (.optStep t t2 t4 sc ss, .vx, [v sc, v ss]),
            (.optApply t t2 t4 sc ss sd, .vx, [v ss, v sd, v (sd + 1)])] : List (PWord × QName × List W64)),
      wordCheck q.1 = none → Issues b p (wordReads q.1 ++ wordWrites q.1) s →
      let e : QEnt := { seq := be.seq, w := q.1, a := q.2.2.getD 0 0, b := q.2.2.getD 1 0, c := q.2.2.getD 2 0,
                        d := q.2.2.getD 3 0, rows := be.vlRows, cols := be.vlCols }
      ∃ u, exec (wordCommand b p x q.1) s = .next u ∧
        (roomIn be q.2.1 → OnlyBerth b (joined be q.2.1 e) s u) ∧
        (¬ roomIn be q.2.1 → OnlyBerth b { be with pl := .stalled, stall := some (p, q.1) } s u)

/-- For every word of a berth program and a pilot that runs out of reset: a PC beyond 32,767 halts the pilot with
PL_PC_RANGE. A word that fails the checks on its decoded fields halts it with the code of the check, whatever the
predicate, and writes nothing else of the berth. A word that passes them under a predicate of 0 only advances the PC.
A word under a predicate of 1 that reads or writes a scalar other than s0 that waits for the VXE stalls the pilot. A
pilot that does not run issues nothing (log 11). (06_berth_instruction_set.md; 05_vector_engine_and_pilot.md) -/
def Obligations.WordsThatDoNotIssue : Prop :=
  ∀ (s : State) (b : BerthIdx) (p : BitVec 3) (x : ReadEvent) (w : PWord) (be : Berth), be = berth b s →
    (be.pl ≠ .run → exec (wordCommand b p x w) s = .next s) ∧
    (be.pl = .run → Awake s → 32768 ≤ be.pc.toNat → exec (wordCommand b p x w) s =
      .next (report (Blk.pl b) 0x4004 (setBerth b { be with pl := .halted, stall := none } s))) ∧
    (be.pl = .run → Awake s → be.pc.toNat < 32768 →
      (∀ c, wordCheck w = some c → exec (wordCommand b p x w) s =
        .next (report (Blk.pl b) c (setBerth b { be with pl := .halted, stall := none } s))) ∧
      (wordCheck w = none → preg be p = false →
        ∃ t, exec (wordCommand b p x w) s = .next t ∧ OnlyBerth b { be with pc := be.pc + 1 } s t) ∧
      (wordCheck w = none → preg be p = true →
        (∃ r ∈ wordReads w ++ wordWrites w, r ≠ 0 ∧ r ∈ pendingScal be) →
        ∃ t, exec (wordCommand b p x w) s = .next t ∧
          OnlyBerth b { be with pl := .stalled, stall := some (p, w) } s t))

/-- When LD or LDS issues, its address is rb plus the sign-extended offset. An address outside the own slice or not a
multiple of the size halts the pilot with PL_ADDR and writes nothing else of the berth. With no earlier lighter write
of the bytes under way, the extent not a POOL extent, not POISONED, REBUILDING or MOVED and in no lost position of a
parity group, and no memory error, rd takes the 1, 2, 4 or 8 bytes of the version that the domain of the berth reads,
least significant first, zero-extended (LD) or sign-extended (LDS); memory, every other scalar and the rest of the
state are unchanged. (06_berth_instruction_set.md; 05_vector_engine_and_pilot.md; 02_ticks_frames_commit.md) -/
def Obligations.PilotLoads : Prop :=
  ∀ (s : State) (b : BerthIdx) (p : BitVec 3) (rd rb : BitVec 5) (size : BitVec 2) (off : W32), Issues b p [rb, rd] s →
    ∀ a : W64, a = BitVec.ofInt 64 ((sreg (berth b s) rb).toInt + off.toInt) →
    let n := 2 ^ size.toNat
    let here := a.toNat / 2 ^ 28 = b.toNat ∧ a.toNat % n = 0
    let x := a.toNat / 2 ^ 20
    let at_ := readPhys x (berthDom b s) s * 2 ^ 20 + a.toNat % 2 ^ 20
    let bytes := (List.range n).map (fun i => s.mem.byteAt (at_ + i))
    (¬ here → ∀ e, exec (.ld b p rd rb size off e) s = exec (.lds b p rd rb size off e) s ∧ exec (.ld b p rd rb size off e) s =
      .next (report (Blk.pl b) 0x4003 (setBerth b { berth b s with pl := .halted, stall := none } s))) ∧
    (here → readHeld (berth b s) (berth b s).seq (a.toNat % 2 ^ 28) n = false → (ext x s).kind ≠ .pool →
      (ext x s).st ≠ .poisoned → (ext x s).st ≠ .rebuilding → (ext x s).st ≠ .moved →
      (∀ d, berthDom b s = some d → lostPosAt d (ownDev s) [x] s = none) →
      (∃ t, exec (.ld b p rd rb size off .clean) s = .next t ∧ WroteScalar b rd (BitVec.ofNat 64 (leVal bytes)) s t) ∧
      ∃ t, exec (.lds b p rd rb size off .clean) s = .next t ∧
        WroteScalar b rd (BitVec.ofInt 64 (BitVec.ofNat (8 * n) (leVal bytes)).toInt) s t)

/-- When ST issues, its address is rb plus the sign-extended offset. An address outside the own slice or not a
multiple of the size halts the pilot with PL_ADDR; one that meets the channel table, the landing words, the result
word, or the post word otherwise than with all 8 bytes, halts it with LT_RANGE; both write nothing else of the berth.
With no earlier lighter access of the bytes under way, a store to a SCRATCH extent elsewhere than the post word puts
the low bytes of rs, least significant first, at that address; every other byte of memory reads as before, the PC goes
to the next word, and nothing else changes. To an OBJECT extent that the domain of the berth may write, outside the
fields of the device and the driver: where the extent has a fresh version of the domain and no copy for it is under
way, the bytes go to FRESH_PHYS; where it is IDLE, with a fresh extent left to the domain and a free physical extent,
the extent becomes FRESH with such a physical extent, the copy starts, no byte has changed yet, and the pilot stalls
at the word (log 36); where the domain may not write it, its open frame is recalled. A store of 8 bytes to the post
word stores them, and posts: with reserved bits, a context not enabled for the domain, or a COUNT above NRED it
reports RED_POST_BAD; a COUNT that is not above the berth's count does nothing more; a higher one becomes the berth's
count, every other berth's count and every other context's counts are kept. (06_berth_instruction_set.md;
05_vector_engine_and_pilot.md; 03_berths_tiles_lighters.md; 08_memory_tiers_and_objects.md;
10_grains_mapping_and_elastic_jobs.md) -/
def Obligations.PilotStores : Prop :=
  ∀ (s : State) (b : BerthIdx) (p : BitVec 3) (rs rb : BitVec 5) (size : BitVec 2) (off : W32), Issues b p [rs, rb] s →
    ∀ a : W64, a = BitVec.ofInt 64 ((sreg (berth b s) rb).toInt + off.toInt) →
    let n := 2 ^ size.toNat
    let o := a.toNat % 2 ^ 28
    let x := a.toNat / 2 ^ 20
    let v := sreg (berth b s) rs
    let bytes := (List.range n).map (fun i => BitVec.ofNat 8 (v.toNat / 256 ^ i))
    let here := a.toNat / 2 ^ 28 = b.toNat ∧ a.toNat % n = 0
    let barred := 0x0FFFF7F0 ≤ o ∨ (o < 0x0FFFF7E8 ∧ 0x0FFFF7E0 < o + n) ∨ (o < 0x0FFFF7F0 ∧ 0x0FFFF7E8 < o + n ∧ n ≠ 8)
    (¬ here → exec (.st b p rs rb size off) s =
      .next (report (Blk.pl b) 0x4003 (setBerth b { berth b s with pl := .halted, stall := none } s))) ∧
    (here → barred → exec (.st b p rs rb size off) s =
      .next (report (Blk.pl b) 0x2004 (setBerth b { berth b s with pl := .halted, stall := none } s))) ∧
    (here → ¬ barred → o ≠ 0x0FFFF7E8 → writeHeld (berth b s) (berth b s).seq o n = false →
      (ext x s).kind = .scratch →
      ∃ t, exec (.st b p rs rb size off) s = .next t ∧
        StoredBytes ((ext x s).phys.toNat * 2 ^ 20 + a.toNat % 2 ^ 20) bytes s t ∧
        OnlyBerth b { berth b s with pc := (berth b s).pc + 1 } { s with mem := t.mem } t) ∧
    (here → ¬ barred → o ≠ 0x0FFFF7E8 → writeHeld (berth b s) (berth b s).seq o n = false →
      (ext x s).kind = .object → ∀ d, berthDom b s = some d → ∀ k : Nat, k = (ext x s).obj.toNat →
      (mayWrite d k s = true → ctlCode d k ((ext x s).ord.toNat * 2 ^ 20 + a.toNat % 2 ^ 20) n s = none →
        ((ext x s).st = .fresh → (ext x s).freshFd.toNat = d → cowOn x s = false →
          ∃ t, exec (.st b p rs rb size off) s = .next t ∧
            StoredBytes ((ext x s).freshPhys.toNat * 2 ^ 20 + a.toNat % 2 ^ 20) bytes s t ∧
            OnlyBerth b { berth b s with pc := (berth b s).pc + 1 } { s with mem := t.mem, serve := t.serve } t) ∧
        ((ext x s).st = .idle → (dom d s).freshUsed.toNat < (dom d s).freshLimit.toNat → sliceFree b.toNat s ≠ [] →
          d < 16 → ∃ t q, exec (.st b p rs rb size off) s = .next t ∧ q ∈ sliceFree b.toNat s ∧ q ∉ sliceFree b.toNat t ∧
            ext x t = { ext x s with st := .fresh, freshFd := BitVec.ofNat 4 d, freshPhys := BitVec.ofNat 21 q } ∧
            (∀ y, y ≠ x → ext y t = ext y s) ∧ t.mem.cow = s.mem.cow ++ [{ ext := x, writes := [] }] ∧
            (∀ c, t.mem.byteAt c = s.mem.byteAt c) ∧ (dom d t).freshUsed = (dom d s).freshUsed + 1 ∧
            OnlyBerth b { berth b s with pl := .stalled, stall := some (p, .st rs rb size off) }
              { s with mem := t.mem, domains := t.domains, serve := t.serve, freeCtr := t.freeCtr } t)) ∧
      (mayWrite d k s = false → (dom d s).st = .opened ∨ (dom d s).st = .done →
        ∃ t, exec (.st b p rs rb size off) s = .next t ∧ (dom d t).st = .recalling ∧ (dom d t).num = (dom d s).num)) ∧
    (here → o = 0x0FFFF7E8 → n = 8 → writeHeld (berth b s) (berth b s).seq o n = false → (ext x s).kind = .scratch →
      ∀ (c m : Nat), c = v.toNat / 2 ^ 56 % 64 → m = v.toNat % 2 ^ 32 →
      let bad := 2 ^ 62 ≤ v.toNat ∨ v.toNat / 2 ^ 32 % 2 ^ 23 ≠ 0 ∨ (redCtx c s).en = false ∨
        berthDom b s ≠ some (redCtx c s).dom.toNat
      ∃ u, StoredBytes ((ext x s).phys.toNat * 2 ^ 20 + a.toNat % 2 ^ 20) bytes s u ∧
        (bad ∨ nred (redCtx c s).tableObj.toNat u < m → exec (.st b p rs rb size off) s = .next (setBerth b
          { berth b s with pc := (berth b s).pc + 1 } (report (Blk.rc c) 0x7007 u))) ∧
        (¬ bad → m ≤ nred (redCtx c s).tableObj.toNat u →
          (m ≤ tget (redCtx c s).counts 0 b.toNat → exec (.st b p rs rb size off) s = .next (setBerth b
            { berth b s with pc := (berth b s).pc + 1 } u)) ∧
          (tget (redCtx c s).counts 0 b.toNat < m → ∃ t, exec (.st b p rs rb size off) s = .next t ∧
            OnlyBerth b { berth b s with pc := (berth b s).pc + 1 }
              { u with redctx := t.redctx, pages := t.pages, lastErr := t.lastErr } t ∧
            (∀ i, tget (redCtx c t).counts 0 i = if i = b.toNat then m else tget (redCtx c s).counts 0 i) ∧
            ∀ e, e ≠ c → redCtx e t = redCtx e s)))

/-- Answering a register request appends one REG_RESP to what the device has sent, to the requester's address with its
tag, back along the path of a path-routed request, with the status code and the data in little-endian bytes; nothing
else changes. The harbourmaster's own accesses are not answered by a message (log 7). (17_register_pages.md;
13_voxle_addressing_routing_transactions.md) -/
def Obligations.RegisterAnswers : Prop :=
  ∀ (r : Req) (status : W16) (data : W32) (s : State),
    (r.hm = true → answerReq r status data s = s) ∧
    (r.hm = false → ∃ m : OutMsg, answerReq r status data s = { s with outbox := s.outbox ++ [.msg m] } ∧
      m.dst = r.src ∧ m.tag = r.tag ∧ m.kind = 0x03 ∧ m.mc = false ∧ m.path = r.back.map pathBack ∧
      m.body = [status.setWidth 8, (status >>> 8).setWidth 8, 0, 0, data.setWidth 8, (data >>> 8).setWidth 8,
        (data >>> 16).setWidth 8, (data >>> 24).setWidth 8])

/-- Out of reset: a locked device that is not master and has accepted no TICK for its edge (nor for the next) enters
holdover at HOLDOVER_START. A locked backup that is not master becomes master at BACKUP_TAKEOVER. A write of TICK_CFG
that reaches the page takes a period of 2 to 1,000 µs on a master without an enabled domain, in effect at the second
tick after the write, and is refused with CONFIG_REFUSED otherwise. A write of TK_ROLE with ports 0 to 23 stores the
roles and ports, and a device given MASTER_EN becomes master. In each case nothing else changes but the answer.
(02_ticks_frames_commit.md; 13_voxle_addressing_routing_transactions.md) -/
def Obligations.TickUnitCommands : Prop :=
  ∀ (s : State) (r : Req) (v : W32),
    (Awake s → s.tick.locked = true → s.tick.master = false → s.tick.holdover = false → s.tick.taken ≠ some s.tick.num →
      s.tick.taken ≠ some (s.tick.num + 1) →
      exec .holdoverStart s = .next { s with tick := { s.tick with holdover := true, missed := some s.tick.num.toNat } }) ∧
    (Awake s → s.tick.locked = true → s.tick.master = false → s.tick.backupEn = true →
      exec .backupTakeover s = .next { s with tick := { s.tick with
        master := true, asBackup := true, holdover := false, missed := none, masterAddr := some s.route.addr } }) ∧
    (Reaches r Pg.tick s → Unlocked r Pg.tick s →
      let ok := 2 ≤ v.toNat % 1024 ∧ v.toNat % 1024 ≤ 1000 ∧ s.tick.master = true ∧ (∀ d, d < 16 → (dom d s).en = false)
      (ok → exec (.tickCfgWrite r v) s = .next (answerReq r 0 0 { s with tick := { s.tick with
        periodNext := some (BitVec.ofNat 10 v.toNat, 2) } })) ∧
      (¬ ok → exec (.tickCfgWrite r v) s = .next (answerReq r 0x1009 0 (refuse ⟨Pg.tick, 0⟩ 0x1009 s)))) ∧
    (Reaches r Pg.tick s → Unlocked r Pg.tick s → v.toNat % 32 ≤ 23 → v.toNat / 256 % 32 ≤ 23 →
      ∃ u, exec (.tkRoleWrite r v) s = .next (answerReq r 0 0 { s with tick := u }) ∧
        u.masterEn = v.getLsbD 31 ∧ u.backupEn = v.getLsbD 30 ∧ u.upPort.toNat = v.toNat % 32 ∧
        u.upAlt.toNat = v.toNat / 256 % 32 ∧ u.num = s.tick.num ∧
        (v.getLsbD 31 = true → s.tick.masterEn = false → u.master = true ∧ u.asBackup = false) ∧
        (v.getLsbD 31 = false → s.tick.masterEn = true → u.master = false) ∧
        (v.getLsbD 31 = s.tick.masterEn → u.master = s.tick.master))

/-- Out of reset: a device that is not master accepts a TICK that comes on its upstream port in step: it ends holdover
and takes the message's number, period, depth, master and offset; a locked device keeps its count and stays locked,
and only the tick unit and the start-up record may change. A TICK on another port changes nothing. A TICK out of step
at a locked device, or another master's at a master, is reported with TICK_CONFLICT and changes nothing else. What
counts as in step, and that the message's period is taken as it is, are the model's choice (log 30).
(13_voxle_addressing_routing_transactions.md; 02_ticks_frames_commit.md) -/
def Obligations.TickAccepted : Prop :=
  ∀ (s : State) (p : PortIdx) (m : TickMsg), Awake s →
    (s.tick.masterEn = false → s.tick.master = false →
      (p.val ≠ tickPort s → exec (.tick p m) s = .next s) ∧
      (p.val = tickPort s → s.tick.inStep m.num = true → ∃ t, exec (.tick p m) s = .next t ∧
        t.tick.taken = some m.num ∧ t.tick.holdover = false ∧ t.tick.missed = none ∧ t.tick.offsetNs = m.offsetNs ∧
        t.tick.periodUs = m.periodUs ∧ t.tick.depth = m.depth ∧ t.tick.masterAddr = some m.master ∧
        (s.tick.locked = true → t.tick.locked = true ∧ t.tick.num = s.tick.num) ∧
        (s.tick.locked = false → t.tick.locked = true → t.tick.num = m.num) ∧
        { t with tick := s.tick, startUp := s.startUp } = s) ∧
      (p.val = tickPort s → s.tick.inStep m.num = false →
        exec (.tick p m) s = .next (report ⟨Pg.tick, 0⟩ 0xA00C s))) ∧
    ((s.tick.masterEn = true ∨ s.tick.master = true) →
      exec (.tick p m) s = .next (if m.master = s.route.addr then s else report ⟨Pg.tick, 0⟩ 0xA00C s))

/-- Out of reset: HOLD of a domain that is neither IDLE nor HELD marks it to become HELD at its next boundary. RESUME
of a HELD domain, with the device locked and FD_START at least two ticks ahead, arms it for that tick, as a replay
where its frame was recalled; otherwise it is refused with CONFIG_REFUSED. Writing FD_CFG with EN = 0 and nothing else
changed disables a domain that has no frame open and no abort under way, and is kept until then otherwise. A domain
that is disabled keeps its frame number, forgets what its caravan sent or received ahead and its marks. ABORT_COMPLETE
ends the abort: with nothing pending the domain waits for its replay, with disabling pending it is IDLE, with a hold
pending it is HELD. Nothing else changes but the answer, the memory and weights of a domain that is disabled and, for
a hold, LAST_ERR of the domain. That disabling is done at ABORT_COMPLETE is the model's choice (log 30), and that a
disabled domain forgets what its caravan sent or received ahead is the model's reading (log 15).
(02_ticks_frames_commit.md) -/
def Obligations.DomainControl : Prop :=
  ∀ (s : State) (r : Req) (d : DomIdx) (x : Domain), x = dom d.toNat s →
    (Reaches r Pg.frame s → x.st ≠ .idle → x.st ≠ .held →
      exec (.hold r d) s = .next (answerReq r 0 0 (setDom d.toNat { x with holdReq := true } s))) ∧
    (Reaches r Pg.frame s →
      (x.st = .held ∧ s.tick.num.toNat + 2 ≤ x.start.toNat ∧ s.tick.locked = true →
        exec (.resume r d) s = .next (answerReq r 0 0 (setDom d.toNat { x with
          st := .armed, resumeAt := some x.start.toNat, nextRun := if x.heldRecalled then .replay else .fresh
          heldRecalled := false } s))) ∧
      (¬ (x.st = .held ∧ s.tick.num.toNat + 2 ≤ x.start.toNat ∧ s.tick.locked = true) →
        exec (.resume r d) s = .next (answerReq r 0x1009 0 (refuse (Blk.fd d.toNat) 0x1009 s)))) ∧
    (∀ v : W32, Reaches r Pg.frame s → Unlocked r Pg.frame s → x.en = true → v.getLsbD 31 = false →
      v.toNat / 65536 % 4096 = x.guard.toNat → v.toNat % 65536 = x.len.toNat →
      (x.st = .armed ∨ x.st = .held → ∃ t, exec (.fdCfgWrite r d v) s = .next (answerReq r 0 0 t) ∧ Disabled d x s t) ∧
      (x.st = .opened ∨ x.st = .done → exec (.fdCfgWrite r d v) s =
        .next (answerReq r 0 0 (setDom d.toNat { x with offReq := true } s)))) ∧
    (Awake s → x.st = .recalling → x.abortDone = false →
      (x.offReq = false → x.holdAfterAbort = none →
        exec (.abortComplete d) s = .next (setDom d.toNat { x with abortDone := true } s)) ∧
      (x.offReq = true → ∃ t, exec (.abortComplete d) s = .next t ∧ Disabled d x s t) ∧
      (∀ c, x.offReq = false → x.holdAfterAbort = some c →
        ∃ y, exec (.abortComplete d) s = .next (setDom d.toNat y { s with lastErr := (setLastErr (Blk.fd d.toNat) c s).lastErr }) ∧
        y.st = .held ∧ y.num = x.num ∧ y.replays = x.replays ∧ y.heldRecalled = decide (c ≠ 0x1007)))

/-- A write of FD_CFG with EN = 1 that reaches the page, for a domain not enabled, is refused with CONFIG_REFUSED in
every start-up state other than OPERATIONAL (8) and RUNNING (9), and while a channel of LPDDR5X has failed training. A
guard below 2 µs or a length of 0 is refused with CONFIG_REFUSED whatever EN is. With a guard of at least 2 µs, a
length of at least one tick that holds guard and 1 µs: guard and length are stored while EN stays 0; with EN = 1 and
no reason to refuse (enableCode) the domain is ARMED, with the frame number it had, REPLAYS 0 and no recall marked.
Those last three are the model's reading (log 30, DEDUCED). (R34; R490; 02_ticks_frames_commit.md;
21_start_up_sequence.md) -/
def Obligations.DomainEnabled : Prop :=
  ∀ (s : State) (r : Req) (d : DomIdx) (v : W32) (x : Domain), x = dom d.toNat s →
    Reaches r Pg.frame s → Unlocked r Pg.frame s → x.en = false →
    let g := v.toNat / 65536 % 4096
    let n := v.toNat % 65536
    (v.getLsbD 31 = true → ((suState s ≠ 8 ∧ suState s ≠ 9) ∨ ∃ m, m < 24 ∧ (lpxDev m s).chFail ≠ 0) →
      exec (.fdCfgWrite r d v) s = .next (answerReq r 0x1009 0 (refuse (Blk.fd d.toNat) 0x1009 s))) ∧
    (20 ≤ g ∧ 0 < n ∧ g + 10 ≤ n * s.tick.periodUs.toNat * 10 →
      (v.getLsbD 31 = false → exec (.fdCfgWrite r d v) s = .next (answerReq r 0 0 (setDom d.toNat { x with
        guard := BitVec.ofNat 12 g, len := BitVec.ofNat 16 n } s))) ∧
      (v.getLsbD 31 = true → enableCode d.toNat s = none → ∃ t, exec (.fdCfgWrite r d v) s = .next (answerReq r 0 0 t) ∧
        (dom d.toNat t).en = true ∧ (dom d.toNat t).st = .armed ∧ (dom d.toNat t).num = x.num ∧
        (dom d.toNat t).replays = 0 ∧ (dom d.toNat t).guard.toNat = g ∧ (dom d.toNat t).len.toNat = n ∧
        (dom d.toNat t).marks = [] ∧ (dom d.toNat t).start = x.start ∧
        ∀ e, e ≠ d.toNat → dom e t = dom e s)) ∧
    (g < 20 ∨ n = 0 → exec (.fdCfgWrite r d v) s = .next (answerReq r 0x1009 0 (refuse (Blk.fd d.toNat) 0x1009 s)))

/-- Out of reset: a RECALL (without a source of missing data) of the open run of an enabled domain, not recalled
before, makes the domain RECALLING with its frame number and REPLAYS kept, records the run as recalled, keeps the
replay tick it names, puts its cause into LAST_ERR of the domain, stops every pilot of the domain's berths that runs,
is stalled or is held by a debugger, and empties the engines' queues there; other berths and domains are unchanged. A
RECALL of a run already recalled, or for a domain that is not enabled, changes nothing. (02_ticks_frames_commit.md) -/
def Obligations.RecallsOfRuns : Prop :=
  ∀ (s : State) (m : RecallMsg) (x : Domain), x = dom m.dom.toNat s →
    ((x.en = false ∨ (m.f, m.replays) ∈ x.taken) → exec (.recall m) s = .next s) ∧
    (Awake s → x.en = true → (m.f, m.replays) ∉ x.taken → (x.st = .opened ∨ x.st = .done) → m.f = x.num → m.replays = x.replays →
      m.data = none → ∃ t, exec (.recall m) s = .next t ∧
      (dom m.dom.toNat t).st = .recalling ∧ (dom m.dom.toNat t).abortDone = false ∧ (dom m.dom.toNat t).num = x.num ∧
      (dom m.dom.toNat t).replays = x.replays ∧ (m.f, m.replays) ∈ (dom m.dom.toNat t).taken ∧
      (dom m.dom.toNat t).resumeAt = (if m.replayTick = 0 then none else some m.replayTick.toNat) ∧
      (dom m.dom.toNat t).freshUsed = 0 ∧
      lastErr (Blk.fd m.dom.toNat) t = m.cause ∧ (∀ e, e ≠ m.dom.toNat → dom e t = dom e s) ∧
      (∀ b, holdsBerth m.dom.toNat b s = true → (berth b t).mxq = [] ∧ (berth b t).vxq = [] ∧
        (berth b t).pl = (if (berth b s).pl = .run ∨ (berth b s).pl = .stalled ∨ (berth b s).pl = .held then .idle else (berth b s).pl)) ∧
      (∀ b, holdsBerth m.dom.toNat b s = false → berth b t = berth b s))

/-- Out of reset: GUARD_POINT of a domain with a run open whose guard point lies in the present tick and has not been
seen: a run that is finished stays or becomes DONE and is not recalled; an unfinished run, DONE before or not, that is
not itself the replay of an overrun reports FRAME_OVERRUN on the domain, the device sends one RECALL of it to the
domain's recall group with cause FRAME_OVERRUN, or AUD_MISMATCH where only its audits keep it from finishing, LAST_ERR
of the domain takes that cause, and the domain is RECALLING with the first replay tick at least 9 µs after the ending
tick. For a domain without a run open it changes nothing. (02_ticks_frames_commit.md) -/
def Obligations.GuardPointOverrun : Prop :=
  ∀ (s : State) (d : DomIdx) (x : Domain), x = dom d.toNat s →
    (x.st ≠ .opened ∧ x.st ≠ .done → exec (.guardPoint d) s = .next s) ∧
    (Awake s → (x.st = .opened ∨ x.st = .done) → x.guardSeen = false →
      x.ending * (s.tick.periodUs.toNat * 10) - x.guard.toNat < (s.tick.num.toNat + 1) * (s.tick.periodUs.toNat * 10) →
      (finished d.toNat s = true → ∃ t, exec (.guardPoint d) s = .next t ∧
        OnlyDom d.toNat { x with st := .done, guardSeen := true, guardFresh := true } s t) ∧
      (finished d.toNat s = false → x.replayOfOver = false →
        ∀ cause : W16, cause = (if workDone d.toNat s then 0xB002 else 0x1001) → ∃ t, exec (.guardPoint d) s = .next t ∧
        (dom d.toNat t).st = .recalling ∧ (dom d.toNat t).num = x.num ∧ (dom d.toNat t).replays = x.replays ∧
        (dom d.toNat t).replayOfOver = true ∧
        (dom d.toNat t).resumeAt = (if replayTick s 0 x.ending 0 = 0 then none else some (replayTick s 0 x.ending 0)) ∧
        lastErr (Blk.fd d.toNat) t = cause ∧ (hdr Pg.frame t).errStatus.getLsbD 1 = true ∧
        ∃ m : OutMsg, t.outbox = s.outbox ++ [.msg m] ∧ m.kind = 0x51 ∧ m.dst = recGroup d.toNat s ∧ m.mc = true ∧
          (m.body.drop 10).take 2 = [cause.setWidth 8, (cause >>> 8).setWidth 8]))

/-- Out of reset: on a locked device in holdover TICK_LOST clears LOCKED. Every enabled domain with a run open is
RECALLING and will be HELD when its abort completes; every enabled domain without one and without an abort under way
is HELD at once, with its frame recalled. A domain that is not enabled is unchanged. On a device not locked or not in
holdover it changes nothing. The recall of enabled domains without an open run is the model's reading (log 30).
(02_ticks_frames_commit.md) -/
def Obligations.TickLossHoldsDomains : Prop :=
  ∀ s : State,
    ((s.tick.locked = false ∨ s.tick.holdover = false) → exec .tickLost s = .next s) ∧
    (Awake s → s.tick.locked = true → s.tick.holdover = true → ∃ t, exec .tickLost s = .next t ∧ t.tick.locked = false ∧
      t.tick.num = s.tick.num ∧
      ∀ d x, d < 16 → x = dom d s →
        (x.en = false → dom d t = x) ∧
        (x.en = true → (x.st = .opened ∨ x.st = .done) →
          (dom d t).st = .recalling ∧ (dom d t).holdAfterAbort = some 0x1005 ∧ (dom d t).num = x.num) ∧
        (x.en = true → x.st = .armed ∨ x.st = .held ∨ (x.st = .recalling ∧ x.abortDone = true) →
          (dom d t).st = .held ∧ (dom d t).heldRecalled = true ∧ (dom d t).num = x.num))

/-- Out of reset: a write of TMR_CFG by the owner of a timer slot, with mode and action not 0b11 and no 0b01 slot
armed at an offset outside the frame, stores its fields; a slot nobody owns refuses it with TIMER_UNCLAIMED, another
client's with CLAIM_DENIED. FRAME_TIMER_FIRE of a slot that is due sets FIRED, disarms a one-shot slot and, where slot
and pin have one owner and the pin is a TIMER output, starts a pulse or toggles the pin; a slot that is not due, or of
mode 0b10, which fires with the base tick, does nothing. GPIO_PULSE_END returns a pin in a pulse to the level it had.
Nothing else changes. That a firing acts once per tick is the model's (log 27). (02_ticks_frames_commit.md;
17_register_pages.md) -/
def Obligations.FrameTimers : Prop :=
  ∀ (s : State) (r : Req) (i : BitVec 3) (v : W32),
    (Reaches r Pg.frame s →
      ((ledgerEntry (0x10 + i.toNat) s).owner = none →
        exec (.tmrCfgWrite r i .cfg v) s = .next (answerReq r 0x100B 0 (refuse ⟨Pg.frame, 0⟩ 0x100B s))) ∧
      (∀ c, (ledgerEntry (0x10 + i.toNat) s).owner = some c →
        (c ≠ r.client → exec (.tmrCfgWrite r i .cfg v) s = .next (answerReq r 0xE101 0 (refuse ⟨Pg.frame, 0⟩ 0xE101 s))) ∧
        (c = r.client → v.toNat / 2 ^ 24 % 4 ≠ 3 → v.toNat / 2 ^ 22 % 4 ≠ 3 →
          (v.getLsbD 31 = true → v.toNat / 2 ^ 24 % 4 = 1 →
            (timer i.toNat s).cmp.toNat % 65536 < (dom (v.toNat / 65536 % 16) s).len.toNat) →
          exec (.tmrCfgWrite r i .cfg v) s = .next (answerReq r 0 0 (setTimer i.toNat { timer i.toNat s with
            arm := v.getLsbD 31, fired := (timer i.toNat s).fired && !v.getLsbD 30
            mode := BitVec.ofNat 2 (v.toNat / 2 ^ 24), action := BitVec.ofNat 2 (v.toNat / 2 ^ 22)
            domain := BitVec.ofNat 4 (v.toNat / 2 ^ 16), gpio := BitVec.ofNat 4 (v.toNat / 2 ^ 12) } s))))) ∧
    (∀ t, t = timer i.toNat s →
      (timerDue i.toNat s = false ∨ t.mode = 2 → exec (.frameTimerFire i) s = .next s) ∧
      (Awake s → timerDue i.toNat s = true → t.mode ≠ 2 → ∃ u, exec (.frameTimerFire i) s = .next u ∧
        timer i.toNat u = { t with fired := true, arm := t.arm && decide (t.mode ≠ 0), at_ := some s.tick.num.toNat } ∧
        (∀ j, j ≠ i.toNat → timer j u = timer j s) ∧
        (∀ n, n ≠ t.gpio.toNat → gpio n u = gpio n s) ∧
        gpio t.gpio.toNat u = (let g := gpio t.gpio.toNat s
          if timerDrives i.toNat t.gpio.toNat s = true ∧ t.action = 1 ∧ g.pulse = none then
            { g with drive := true, pulse := some g.drive }
          else if timerDrives i.toNat t.gpio.toNat s = true ∧ t.action = 2 then
            (match g.pulse with
            | some l => { g with pulse := some (!l) }
            | none => { g with drive := !g.drive })
          else g) ∧
        { u with timers := s.timers, ledger := s.ledger } = s)) ∧
    (∀ n : BitVec 4, Awake s → exec (.gpioPulseEnd n) s = .next (match (gpio n.toNat s).pulse with
      | some l => setGpio n.toNat { gpio n.toNat s with drive := l, pulse := none } s
      | none => s))

/-- Outside reset BASE_TICK is the edge (edgeStart), ranks 3 to 6, rank 7 with the openings, ranks 8 and 9, the
caravans of the domains that open, ranks 10 and 11, then the recalls asked for and the account clears. It adds one to
the tick number of a device that has locked; a new master locks at its first edge; pins and board signals take the
levels found; a client holding one enabled domain is charged its berths' µs. Of each rank's state: 3, an activation
whose tick has come takes the next map and epoch, or reports MAP_BAD; the bank switches at its tick. 4, a run that
ends is committed: next frame number, REPLAYS 0, ARMED, HELD or IDLE; its fresh extents take the fresh version where
no FINAL reduction ended it. 5, a release that may be made removes the object and frees its extents. 6, a switch makes
a READY slot of its GEN CURRENT and drains the other; else it recalls with WS_NOT_READY. 7, a change of WRITER takes
effect; nothing stays staged. 8 and 9, a copied promote or evict switches, a promote or an evict starts, PIN pins;
results are posted. 11, every interrupt source is sampled, and one INTERRUPT is sent for a new eligible source. The
end: a cleared client's counters are 0. In reset nothing but the inputs changes, and without VAUX nothing (log 28).
What the device's first edges count is log 30. (02_ticks_frames_commit.md; 08_memory_tiers_and_objects.md;
09_weight_sets_and_caravans.md; 10_grains_mapping_and_elastic_jobs.md; 11_lending_serving_and_accounting.md;
16_interrupt_controller.md; 17_register_pages.md) -/
def Obligations.BaseTickCounts : Prop :=
  (∀ (s : State) (i : TickIn),
    (s.startUp.phase ≠ .reset → ∃ t, exec (.baseTick i) s = .next t ∧
      (∀ p, p = ranks3to6 (edgeStart i s) → t = firstOfCycle s (suNote (clearClients (takeRecallNow
        (rank11 (foldS allDoms readManifest (openCaravans i.legs (moves (rank7 p.1 p.2))))))))) ∧
      t.tick.num = (if s.tick.masterFirst = true ∨ s.tick.everLocked = true then s.tick.num + 1 else s.tick.num) ∧
      (s.tick.masterFirst = true → t.tick.locked = true ∧ t.tick.masterFirst = false) ∧
      (s.tick.masterFirst = false → t.tick.locked = s.tick.locked) ∧
      (∀ n, n < 16 → (gpio n t).input = i.gpio.getLsbD n) ∧
      t.board.prochotLow = i.prochotLow ∧ t.board.pwrbrkLow = i.pwrbrkLow ∧ t.pending = s.pending) ∧
    (∀ d c, d < 16 → c = (serveOf d s).client → c ≠ 0xFF → (∀ e, e < 16 → ((dom e s).en = true ↔ e = d)) →
      acctr c.toNat 0 (edgeStart i s) =
        satAdd (acctr c.toNat 0 s) (maskCount (serveOf d s).mask * s.tick.periodUs.toNat)) ∧
    (s.startUp.phase = .reset → (s.board.vaux = false → exec (.baseTick i) s = .next s) ∧
      (s.board.vaux = true → ∃ t, exec (.baseTick i) s = .next t ∧
        (∀ n, n < 16 → gpio n t = { gpio n s with input := i.gpio.getLsbD n }) ∧
        t.board.prochotLow = i.prochotLow ∧ t.board.pwrbrkLow = i.pwrbrkLow ∧
        { t with ledger := s.ledger, board := s.board } = s))) ∧
  (∀ s : State,
    -- rank 3
    (∀ d x t, d < 16 → x = member d s → t = rank3 s → x.actPending = true → x.act = s.tick.num →
      (surv d s).staged = none → (surv d s).received = none →
      (mapOk d x.nextMap.toNat s = true →
        member d t = { x with actPending := false, epoch := x.epoch + 1, map := x.nextMap, st := .activated }) ∧
      (mapOk d x.nextMap.toNat s = false →
        member d t = { x with actPending := false } ∧ lastErr (Blk.mb d) t = 0x7004 ∧ (hdr Pg.member t).errStatus.getLsbD 1 = true)) ∧
    ((∀ d, d < 16 → (surv d s).staged = none) →
      (rank3 s).route.active = (if s.route.switchWaits = true ∧ s.route.switchAt = s.tick.num then !s.route.active else s.route.active)) ∧
    -- rank 4
    (∀ d x t, d < 16 → x = dom d s → t = commits (endsNow s) s → (∀ e, e < 16 → (surv e s).safeAt = none ∧ (surv e s).en = false) →
      (d ∉ endsNow s → dom d t = x) ∧
      (d ∈ endsNow s →
        (dom d t).num = x.num + 1 ∧ (dom d t).replays = 0 ∧ t.startUp.committed = true ∧
        ((dom d t).en = (x.en && !x.offReq)) ∧
        (dom d t).st = (if x.offReq then .idle else if x.holdReq ∨ drainsAt d x.num s = true then .held else .armed)) ∧
      (d ∈ endsNow s → (∀ e, e < 16 → finalOutcome e s = (false, false)) → (s.mem.exts.map (·.1)).Nodup →
        ∀ k y, y = ext k s → y.st = .fresh → y.freshFd.toNat = d → (∀ o ∈ s.mem.old, o.moved = true → o.ext ≠ k) →
          ext k t = { y with st := .idle, phys := y.freshPhys, freshPhys := 0, freshFd := 0 })) ∧
    -- rank 5
    (∀ r t, s.mem.staged.filter isRelease = [r] → t = stagedReleases s → (obj r.index s).valid = true →
      objReserved r.data = false → busyMember r.index s = false →
      (∀ k, (ext k s).kind = .object → (ext k s).obj.toNat = r.index → (ext k s).st ≠ .fresh ∧ (ext k s).pin = false) →
      (s.mem.exts.map (·.1)).Nodup →
      obj r.index t = {} ∧ t.mem.staged = s.mem.staged.filter (fun e => !isRelease e) ∧
      ∀ k, (ext k s).kind = .object → (ext k s).obj.toNat = r.index → (ext k s).st ≠ .moved → ext k t = (ext k s).toPool) ∧
    -- rank 6
    (∀ x w t, s.weights.switches = [x] → x.tick = s.tick.num.toNat → w = wsSlot (slotKey x.set x.slot) s → t = switchSets s →
      t.weights.switches = [] ∧
      (w.st = .ready ∧ w.gen = x.gen → wsSlot (slotKey x.set x.slot) t = { w with st := .current } ∧
        ∀ o, o = wsSlot (slotKey x.set !x.slot) s → wsSlot (slotKey x.set !x.slot) t =
          (if o.st = .current then { o with st := .draining, drainMask := x.mask, drainTick := x.tick } else o)) ∧
      (w.st ≠ .ready → w.st ≠ .current → lastErr cvPage t = 0x6006 ∧ t.weights.slots = s.weights.slots ∧
        ∀ d, d < 16 → x.mask.getLsbD d = true → (d, (0x6006 : W16)) ∈ t.weights.recallNow)) ∧
    -- rank 7
    (∀ t, t = stagedWrites s → t.mem.staged = [] ∧
      ∀ (r : Staged) (e : ObjEntry) (w : BitVec 5), s.mem.staged = [r] → r.extTable = false → e = obj r.index s → e.valid = true →
        w.toNat ≤ 0x10 → (e.sclass = 1 → w = e.writer) → r.data = objWord { e with writer := w } →
        (∀ k ∈ extsOf r.index s, (ext k s).st ≠ .fresh) → busyMember r.index s = false →
        obj r.index t = { e with writer := w }) ∧
    -- ranks 8 and 9
    (∀ m y t, s.mem.moves = [m] → s.mem.moveReqs = [] → y = ext m.src s → m.copied = true → m.dead = false → m.waiting = false →
      m.src ≠ m.dst → (m.op = .promote ∧ t = movesRank8 s ∨ m.op = .evict ∧ t = movesRank9 s) → y.st = .promoting ∨ y.st = .evicting →
      ext m.dst t = { kind := .object, obj := y.obj, ord := y.ord, pin := y.pin, phys := BitVec.ofNat 21 m.dstPhys } ∧
      ext m.src t = (if openDoms s = [] then y.toPool else { y with st := .moved }) ∧
      t.mem.moves = [] ∧ t.mem.moveRes = s.mem.moveRes ++ [(m.tag, 0)] ∧ (hdr Pg.object t).eventStatus.getLsbD 0 = true) ∧
    (∀ r y t, s.mem.moves = [] → s.mem.moveReqs = [r] → y = ext r.src s → r.src ≤ lastExt →
      (r.op = .evict → t = movesRank9 s) → (r.op ≠ .evict → t = movesRank8 s) →
      t.mem.moveReqs = [] ∧
      (r.op = .pin → y.kind = .object → ext r.src t = { y with pin := true } ∧ t.mem.moveRes = s.mem.moveRes ++ [(r.tag, 0)]) ∧
      (r.op = .unpin → y.kind = .object → ext r.src t = { y with pin := false } ∧ t.mem.moveRes = s.mem.moveRes ++ [(r.tag, 0)]) ∧
      (r.op = .promote → moveBadCode true r.src r.dst s = none → y.st = .idle → y.pin = false → takePhys r.dst s ≠ none →
        ext r.src t = { y with st := .promoting } ∧ ∃ p, t.mem.moves =
          [{ op := .promote, src := r.src, dst := r.dst, dstPhys := p, tag := r.tag, waiting := false, copied := false }]) ∧
      (r.op = .evict → moveBadCode false r.src r.dst s = none → y.st = .idle → y.pin = false → takePhys r.dst s ≠ none →
        ext r.src t = { y with st := .evicting } ∧ ∃ p, t.mem.moves =
          [{ op := .evict, src := r.src, dst := r.dst, dstPhys := p, tag := r.tag, waiting := false, copied := false }])) ∧
    -- rank 11
    (∀ t, t = presentIrq s → (s.irq.src.map (·.1)).Nodup →
      (∀ n, irqSrc n t = (irqSrc n s).settle.sample (srcLevel n s)) ∧
      (∀ n, (irqSrc n s).settle.st ≠ .pending → eligible 0 (irqSrc n t) s = true → s.irq.evtDev ≠ 0xFFFF →
        ∃ m : OutMsg, t.outbox = s.outbox ++ [.msg m] ∧ m.kind = 0x60 ∧ m.dst = s.irq.evtDev)) ∧
    -- the end of the tick
    (∀ c ∈ s.acct.clear, ∀ k, k < 16 → acctr c.toNat k (clearClients s) = 0) ∧ (clearClients s).acct.clear = [])

/-- Outside reset, at a BASE_TICK, in the state that ranks 3 to 6 and the staged writes of rank 7 leave: where the
next run of a domain is due, not to be disabled or held and not marked recalled, and no other domain holding the berth
is due, then after BASE_TICK the berth, unless its frame was recalled within the tick, holds this: its pilot runs from
PL_ENTRY with s1 the berth's number, s2 the frame number and every other scalar 0, p0 alone 1; VL is 128 by 128; the
flags of both engines and the lighter-check flag are clear, no engine and no lighter is stopped, LT_DONE is 0, every
group is CLOSED with its flags clear; no posting of a channel is left; queued words, the instruction memory and the
entry point are kept. A berth that no domain with a due run or a run recalled in the tick holds is after BASE_TICK as
before it, but for its count of corrected reads, which a caravan leg's source can raise.
(05_vector_engine_and_pilot.md; 03_berths_tiles_lighters.md; 04_matrix_engine_and_accumulation.md;
02_ticks_frames_commit.md) -/
def Obligations.BerthAtOpening : Prop :=
  ∀ (s : State) (i : TickIn), Awake s → ∃ t, exec (.baseTick i) s = .next t ∧
    ∀ p u, p = ranks3to6 (edgeStart i s) → u = beforeOpenings p.1 p.2 →
    (∀ (d : Nat) (x : Domain) (b : BerthIdx) (be o : Berth), d < 16 → x = dom d u → runDue x (now u) = true →
      x.offReq = false → x.holdReq = false → (∀ m ∈ x.marks, m.f ≠ x.num) → holdsBerth d b u = true →
      (∀ e, e < 16 → e ≠ d → holdsBerth e b u = true → (dom e t).taken = (dom e u).taken ∧
        runDue (dom e u) (now u) = false ∧ extsBack e u = false) →
      isOpen d t = true → be = berth b u → o = berth b t →
      o.pl = .run ∧ o.pc.toNat = be.entry.toNat ∧ sreg o 1 = BitVec.ofNat 64 b.toNat ∧ sreg o 2 = x.num ∧
      (∀ r : BitVec 5, r ≠ 1 → r ≠ 2 → sreg o r = 0) ∧ (∀ p : BitVec 3, preg o p = decide (p = 0)) ∧
      o.vlRows = 128 ∧ o.vlCols = 128 ∧ o.vflags = 0 ∧ o.mxflags = 0 ∧ o.ltFlag = false ∧ o.mxStopped = false ∧
      o.vxStopped = false ∧ o.ended = false ∧ (∀ n : Fin 4, o.lt[n].stopped = false ∧ o.lt[n].done = 0 ∧
        o.lt[n].queue = be.lt[n].queue ∧ o.lt[n].digest = be.lt[n].digest) ∧
      (∀ g, g < 8 → (tget o.groups {} g).opened = false ∧ (tget o.groups {} g).flags = 0) ∧
      o.postings = [] ∧ o.mxq = be.mxq ∧ o.vxq = be.vxq ∧ o.imem = be.imem ∧ o.entry = be.entry) ∧
    (∀ b, (∀ e, e < 16 → holdsBerth e b s = true → (dom e t).taken = (dom e s).taken ∧
        runDue (dom e u) (now u) = false ∧ extsBack e u = false) →
      { berth b t with ce := (berth b s).ce } = berth b s)

/-- Out of reset, for a stalled pilot that holds a word and does not wait for a load that never completes,
PILOT_STALL_END completes and is the command of that word, with the read event it brings, on a berth whose pilot runs
and holds nothing; QUEUE_ENTRY_FREE completes and is the same for a word that goes to a queue. Where such a word
passes the pilot's checks under a predicate of 1, at a PC of the memory, none of its scalars waits for the VXE and its
queue has room, either command puts it at the end of its queue with what it captures, the pilot runs at the next word,
and nothing else changes. For a pilot that holds no word both change nothing (log 11). (03_berths_tiles_lighters.md;
05_vector_engine_and_pilot.md) -/
def Obligations.StalledPilotTriesAgain : Prop :=
  ∀ (s : State) (b : BerthIdx) (be : Berth), be = berth b s →
    (∀ p w x, Awake s → be.pl = .stalled → be.stall = some (p, w) → be.dead = false →
      ∃ t, exec (.pilotStallEnd b x) s = .next t ∧
        exec (wordCommand b p x w) (setBerth b { be with pl := .run, stall := none } s) = .next t ∧
        (queueOf w ≠ none → exec (.queueEntryFree b) s = .next t) ∧
        (∀ n, queueOf w = some n → wordCheck w = none → preg be p = true → be.pc.toNat < 32768 →
          (∀ r ∈ wordReads w ++ wordWrites w, r ≠ 0 → r ∉ pendingScal be) → roomIn be n →
          OnlyBerth b (joined { be with pl := .run, stall := none } n (capture be w)) s t)) ∧
    (be.stall = none → (∀ x, exec (.pilotStallEnd b x) s = .next s) ∧ exec (.queueEntryFree b) s = .next s)

/-- Out of reset, for a free unit (not stopped; a lighter without a running descriptor) with a word at the head of its
queue, ENGINE_WORD_CHECK completes: a word that passes keeps its place and nothing changes. A word that fails its
check leaves the queue and stops the unit with the code, recorded on the berth's page (on the lighter page for a
descriptor), whether ENGINE_WORD_CHECK or the unit's start finds it; a scalar that a refused VXE word would have
written stays pending (both log 39). No tile, group, scalar, memory byte or other berth changes.
(03_berths_tiles_lighters.md; 04_matrix_engine_and_accumulation.md; 05_vector_engine_and_pilot.md) -/
def Obligations.RefusedUnitWordsStop : Prop :=
  ∀ (s : State) (b : BerthIdx) (q : QEnt) (r : List QEnt) (be : Berth), be = berth b s →
    (be.mxq = q :: r → be.mxStopped = false → Awake s →
      (mxCode b q s = none → exec (.engineWordCheck b .mxe) s = .next s) ∧
      (∀ c, mxCode b q s = some c → exec (.mxeStart b) s = exec (.engineWordCheck b .mxe) s ∧
        ∃ t, exec (.engineWordCheck b .mxe) s = .next t ∧
        OnlyBerth b { be with mxq := r, mxStopped := true } { s with pages := t.pages, lastErr := t.lastErr } t ∧
        (hdr (Pg.berth b) t).errStatus.getLsbD 1 = true ∧ (∀ p, p ≠ Pg.berth b → hdr p t = hdr p s))) ∧
    (be.vxq = q :: r → be.vxStopped = false → Awake s →
      (vxCode b q s = none → exec (.engineWordCheck b .vxe) s = .next s) ∧
      (∀ c, vxCode b q s = some c → exec (.vxeStart b) s = exec (.engineWordCheck b .vxe) s ∧
        ∃ t, exec (.engineWordCheck b .vxe) s = .next t ∧
        OnlyBerth b { be with vxq := r, vxStopped := true, stuck := be.stuck ++ (vxDest q.w).toList }
          { s with pages := t.pages, lastErr := t.lastErr } t ∧
        (hdr (Pg.berth b) t).errStatus.getLsbD 1 = true ∧ (∀ p, p ≠ Pg.berth b → hdr p t = hdr p s))) ∧
    (∀ n : BitVec 2, be.lt[n.toNat].queue = q :: r → be.lt[n.toNat].stopped = false → be.lt[n.toNat].run = none →
      Awake s → (ltCode b q s = none → exec (.engineWordCheck b (.lt n)) s = .next s) ∧
      (∀ c, ltCode b q s = some c → (∀ x, exec (.ltDescStart b n x) s = exec (.engineWordCheck b (.lt n)) s) ∧
        ∃ t, exec (.engineWordCheck b (.lt n)) s = .next t ∧
        OnlyBerth b { be with lt := be.lt.set n.toNat { be.lt[n.toNat] with queue := r, stopped := true } }
          { s with pages := t.pages, lastErr := t.lastErr } t ∧
        (hdr (Pg.lighter b) t).errStatus.getLsbD 1 = true ∧ (∀ p, p ≠ Pg.lighter b → hdr p t = hdr p s)))

/-- Out of reset, with the word at the head of the MXE queue accepted and ready: ACC_OPEN with INIT 0 opens its group
with every cell 0 (INIT 1 keeps the cells of a 32-bit group as they are, and rounds each cell of a 16-bit group to
BF16, to nearest even, in bits 31 to 16), its flags clear and its width, key and counter as the word gives (key and
counter 0 for a 32-bit group: the model's, log 43), every other group as before, whichever INIT the word has;
ACC_CLOSE of an OPEN group leaves the queue and puts the close behind those that wait (log 39); MX_FCLR clears
MXFLAGS. ACC_CLOSE_FOLD of the group whose close waits longest closes it and ORs its flags, and NF where a cell is an
infinity or a NaN, into MXFLAGS, its cells unchanged. A word of the VXE queue issued before the close or the clear
keeps the MXFLAGS it found, unless it keeps some already (log 41). The queue loses its head; tiles, scalars, memory
and other berths are unchanged. (04_matrix_engine_and_accumulation.md) -/
def Obligations.GroupsOpenAndClose : Prop :=
  ∀ (s : State) (b : BerthIdx) (q : QEnt) (r : List QEnt) (be : Berth), be = berth b s →
    let cellOf (g : BitVec 3) (k : Bank) (c : Nat) : Nat := leVal (bankBytes k (bankBase b (16 + g.toNat)) (4 * c) 4)
    let kept (n : Nat) (e : QEnt) : QEnt := if e.seq < n ∧ e.mx = none then { e with mx := some be.mxflags } else e
    (Awake s → be.mxq = q :: r → be.mxStopped = false → mxCode b q s = none → mxReady be q = true →
      (∀ g w sk sn, q.w = .accOpen g w false sk sn → ∃ t, exec (.mxeStart b) s = .next t ∧
        OnlyBerth b { be with mxq := r, groups := (berth b t).groups } { s with acct := t.acct } t ∧
        tget (berth b t).groups {} g.toNat = { opened := true, w16 := w, key := if w then q.a else 0
                                               ctr := if w then BitVec.ofNat 32 q.b.toNat else 0, flags := 0, bank := {} } ∧
        ∀ h, h ≠ g.toNat → tget (berth b t).groups {} h = tget be.groups {} h) ∧
      (∀ g sk sn, q.w = .accOpen g false true sk sn → ∃ t, exec (.mxeStart b) s = .next t ∧
        OnlyBerth b { be with mxq := r, groups := (berth b t).groups } { s with acct := t.acct } t ∧
        (∀ h, h ≠ g.toNat → tget (berth b t).groups {} h = tget be.groups {} h) ∧
        tget (berth b t).groups {} g.toNat = { opened := true, w16 := false, key := 0, ctr := 0, flags := 0
                                               bank := (tget be.groups {} g.toNat).bank }) ∧
      (∀ g sk sn, q.w = .accOpen g true true sk sn → ∃ t, exec (.mxeStart b) s = .next t ∧
        OnlyBerth b { be with mxq := r, groups := (berth b t).groups } { s with acct := t.acct } t ∧
        (∀ h, h ≠ g.toNat → tget (berth b t).groups {} h = tget be.groups {} h) ∧
        ∀ y : Group, y = tget (berth b t).groups {} g.toNat → y.opened = true ∧ y.w16 = true ∧ y.key = q.a ∧
          y.ctr.toNat = q.b.toNat % 2 ^ 32 ∧ y.flags = 0 ∧
          ∀ k, k < 16384 → cellOf g y.bank k = 65536 * (roundVal bf16 .rne (decodeNum fp32
            (cellOf g (tget be.groups {} g.toNat).bank k))).1) ∧
      (∀ g, q.w = .accClose g → (tget be.groups {} g.toNat).opened = true → ∃ t, exec (.mxeStart b) s = .next t ∧
        OnlyBerth b { be with mxq := r, closing := be.closing ++ [(q.seq, g)] } { s with acct := t.acct } t) ∧
      (q.w = .mxFclr → ∃ t, exec (.mxeStart b) s = .next t ∧
        OnlyBerth b { be with mxq := r, mxflags := 0, vxq := be.vxq.map (kept q.seq) } { s with acct := t.acct } t)) ∧
    (∀ n g rest, Awake s → be.closing = (n, g) :: rest → ∃ t, exec (.accCloseFold b g) s = .next t ∧
      OnlyBerth b { be with
        closing := rest, groups := (berth b t).groups, mxflags := (berth b t).mxflags, vxq := be.vxq.map (kept n) } s t ∧
      (berth b t).mxflags = be.mxflags ||| (tget be.groups {} g.toNat).flags |||
        (if cellsNonfinite (tget be.groups {} g.toNat).bank (bankBase b (16 + g.toNat)) then 8 else 0) ∧
      tget (berth b t).groups {} g.toNat = { tget be.groups {} g.toNat with opened := false } ∧
      ∀ h, h ≠ g.toNat → tget (berth b t).groups {} h = tget be.groups {} h)

/-- Out of reset, with an MMA, MMA.G or MMAF at the head of the MXE queue that has its operands ready and is accepted,
MXE_START removes it from the queue. Each of its groups receives its pairs one after another (MMA.G: the pair with B
tile tB + t into group g + t; MMAF: pair 1, then pair 2): cell (i, j), i below MROWS, takes block by block the rounded
sum of the running cell and the block value of row i of A and column j of B with their scales (FP32 to nearest even,
or BF16 in bits 31 to 16 with the draw of the group's key, row, column and the block's ordinal, counted from the
group's counter); the cells from MROWS on keep their bytes; the counter advances by KBLK for each pair modulo 2^32;
width, key, state and every flag set are kept. The value of a block of finite elements, scales not 0xFF, is the sum of
the 32 products, each cut toward zero to 40 fraction bits below the largest leading exponent, times the scales,
rounded once to FP32 to nearest even. Every other group, every tile register and scalar, MXFLAGS, the VXE's state,
memory, every other berth and every domain but the berth's own are unchanged. A product of good shape, allowed pairs
and OPEN groups stops the MXE with ACC_MODE where an F4 pair meets a 16-bit group or its groups differ in width; else,
on a berth without DOUBLE_EN, with MX_RATE_DISABLED where an F8 pair meets a 16-bit group or an F4 pair an FP32 group;
else it is accepted. (R91; R105; 04_matrix_engine_and_accumulation.md; 07_numerics_and_rymouc_order.md) -/
def Obligations.ProductsTouchOnlyTheirGroup : Prop :=
  (∀ (s : State) (b : BerthIdx) (q : QEnt) (r : List QEnt) (be : Berth), be = berth b s →
    Awake s → be.mxq = q :: r → be.mxStopped = false → mxReady be q = true →
    let targets : List (Nat × List (MmPair × Nat)) := match q.w with
      | .mma g p _ => [(g.toNat, [(p, p.tb.toNat)])]
      | .mmaG g p n _ => (List.range n.toNat).map (fun t => (g.toNat + t, [(p, p.tb.toNat + t)]))
      | .mmaF g p p2 _ => [(g.toNat, [(p, p.tb.toNat), (p2, p2.tb.toNat)])]
      | _ => []
    let m := mmRows q.w
    let grp (g : Nat) : Group := tget be.groups {} g
    let tb (t o : Nat) : Nat := (bankByte (tget be.tiles {} t) (bankBase b t) o).toNat
    let el (f t i e : Nat) : Val := decodeNum (numFmt f)
      ((List.range (rowSize f)).foldr (fun o n => tb t (rowSize f * i + o) + 256 * n) 0 / 2 ^ (elemBits f * e) %
        2 ^ elemBits f)
    let blk (p : MmPair) (t i j k : Nat) : Val := (blockSum
      ((List.range 32).map (fun e => (el p.fa.toNat p.ta.toNat i (32 * k + e), el p.fb.toNat t (32 * k + e) j)))
      (if isMx p.fa.toNat then tb p.ta.toNat (dataBytes p.fa.toNat + 4 * i + k) else 127)
      (if isMx p.fb.toNat then tb t (dataBytes p.fb.toNat + 128 * k + j) else 127)).1
    let sum (x : Group) (i j c : Nat) (n : W32) (v : Val) : Nat :=
      if x.w16 then 65536 * (roundVal bf16 (.sr (berthDraw x.key 1 i j n)) (vAdd (decodeNum fp32 c) v)).1
      else (roundVal fp32 .rne (vAdd (decodeNum fp32 c) v)).1
    let cell (g i j : Nat) (k : Bank) : Nat := leVal (bankBytes k (bankBase b (16 + g)) (512 * i + 4 * j) 4)
    let pair (x : Group) (i j : Nat) (cn : Nat × W32) (p : MmPair × Nat) : Nat × W32 :=
      ((List.range p.1.kblk.toNat).foldl (fun c k => sum x i j c (cn.2 + BitVec.ofNat 32 k) (blk p.1 p.2 i j k)) cn.1,
        cn.2 + BitVec.ofNat 32 p.1.kblk.toNat)
    targets ≠ [] →
    (mxCode b q s = none → ∃ t, exec (.mxeStart b) s = .next t ∧
      (∀ gp ∈ targets, ∀ y : Group, y = tget (berth b t).groups {} gp.1 →
        y.opened = (grp gp.1).opened ∧ y.w16 = (grp gp.1).w16 ∧ y.key = (grp gp.1).key ∧
        y.ctr = (grp gp.1).ctr + BitVec.ofNat 32 ((gp.2.map (fun p => p.1.kblk.toNat)).sum) ∧
        y.flags &&& (grp gp.1).flags = (grp gp.1).flags ∧
        (∀ i j, i < m → j < 128 → cell gp.1 i j y.bank =
          (gp.2.foldl (pair (grp gp.1) i j) (cell gp.1 i j (grp gp.1).bank, (grp gp.1).ctr)).1) ∧
        (∀ k, 512 * m ≤ k → k < 65536 →
          bankByte y.bank (bankBase b (16 + gp.1)) k = bankByte (grp gp.1).bank (bankBase b (16 + gp.1)) k)) ∧
      (∀ h, h ∉ targets.map (·.1) → tget (berth b t).groups {} h = grp h) ∧
      { berth b t with mxq := be.mxq, groups := be.groups, audZ := be.audZ } = be ∧ (berth b t).mxq = r ∧
      (∀ c, c ≠ b → berth c t = berth c s) ∧ t.mem = s.mem ∧ ∀ d, some d ≠ berthDom b s → dom d t = dom d s) ∧
    (mmShapeBad q.w = false → (∀ p ∈ mmPairs q.w, pairRateOf p ≠ .bad) →
      (∀ gp ∈ targets, openBefore be q.seq gp.1 = true) →
      let wide := targets.any (fun gp => (grp gp.1).w16)
      let narrow := targets.any (fun gp => !(grp gp.1).w16)
      let f4 := (mmPairs q.w).any (fun p => pairRateOf p == .f4)
      let f8 := (mmPairs q.w).any (fun p => pairRateOf p == .f8)
      ((wide && narrow) || (wide && f4) → ∃ t, exec (.mxeStart b) s = .next t ∧
        OnlyBerth b { be with mxq := r, mxStopped := true } { s with pages := t.pages, lastErr := t.lastErr } t ∧
        lastErr (Blk.mx b) t = 0x3005) ∧
      (((wide && narrow) || (wide && f4)) = false → ((f8 && wide) || f4) = true → be.doubleEn = false →
        ∃ t, exec (.mxeStart b) s = .next t ∧
          OnlyBerth b { be with mxq := r, mxStopped := true } { s with pages := t.pages, lastErr := t.lastErr } t ∧
          lastErr (Blk.mx b) t = 0x3006) ∧
      (((wide && narrow) || (wide && f4)) = false → (((f8 && wide) || f4) = false ∨ be.doubleEn = true) →
        mxCode b q s = none))) ∧
  (∀ (es : List ((Bool × Nat × Int) × (Bool × Nat × Int))) (sa sb : Nat) (top : Int), es.length = 32 → sa < 255 → sb < 255 →
    let lead (e : (Bool × Nat × Int) × (Bool × Nat × Int)) : Int := e.1.2.2 + e.2.2.2 + ((e.1.2.1 * e.2.2.1).log2 : Int)
    (∃ e ∈ es, e.1.2.1 * e.2.2.1 ≠ 0 ∧ lead e = top) → (∀ e ∈ es, e.1.2.1 * e.2.2.1 ≠ 0 → lead e ≤ top) →
    let cut (e : (Bool × Nat × Int) × (Bool × Nat × Int)) : Int :=
      (if e.1.1 = e.2.1 then 1 else -1) *
        ((if top - 40 ≤ e.1.2.2 + e.2.2.2 then e.1.2.1 * e.2.2.1 * 2 ^ (e.1.2.2 + e.2.2.2 - (top - 40)).toNat
          else e.1.2.1 * e.2.2.1 / 2 ^ (top - 40 - (e.1.2.2 + e.2.2.2)).toNat : Nat) : Int)
    ∀ acc : Int, acc = (es.map cut).sum → acc ≠ 0 →
    blockSum (es.map (fun e => (.fin e.1.1 e.1.2.1 e.1.2.2 false, .fin e.2.1 e.2.2.1 e.2.2.2 false))) sa sb =
      (decodeNum fp32 (roundVal fp32 .rne (.fin (acc < 0) acc.natAbs (top - 40 + sa + sb - 254) false)).1,
        if (roundVal fp32 .rne (.fin (acc < 0) acc.natAbs (top - 40 + sa + sb - 254) false)).2.getLsbD 1 then 1 else 0))

/-- Out of reset, with the word at the head of the VXE queue accepted and ready, VXE_START removes it from the queue.
FLAGS.RD writes its scalar with MXFLAGS (as the word found them, where a later close or clear has taken effect since,
log 41) in bits 11 to 8 and VXFLAGS in bits 5 to 0; VX_FCLR clears VXFLAGS; every other word keeps the flags that are
set. Every word leaves unchanged each tile register and group but those it names as written, each scalar but the one
it names, the predicates, the PC, the instruction memory, the MXE's state, the lighters, memory, every domain and
every other berth. (05_vector_engine_and_pilot.md; 06_berth_instruction_set.md) -/
def Obligations.VectorWordsRun : Prop :=
  ∀ (s : State) (b : BerthIdx) (q : QEnt) (r : List QEnt) (be : Berth), be = berth b s →
    Awake s → be.vxq = q :: r → be.vxStopped = false → vxCode b q s = none → vxReady be q = true →
    ∃ t, exec (.vxeStart b) s = .next t ∧ (berth b t).vxq = r ∧
      (∀ sd, q.w = .flagsRd sd → ∀ i, sreg (berth b t) i = if i = sd ∧ sd ≠ 0 then
        BitVec.ofNat 64 ((q.mx.getD be.mxflags).toNat * 256 + be.vflags.toNat) else sreg be i) ∧
      (q.w = .vxFclr → (berth b t).vflags = 0) ∧
      (q.w ≠ .vxFclr → (berth b t).vflags &&& be.vflags = be.vflags) ∧
      (∀ k, k < 16 → k ∉ writesOf q → tget (berth b t).tiles {} k = tget be.tiles {} k) ∧
      (∀ g, g < 8 → 16 + g ∉ writesOf q → tget (berth b t).groups {} g = tget be.groups {} g) ∧
      (∀ i, some i ≠ vxDest q.w → sreg (berth b t) i = sreg be i) ∧
      { berth b t with vxq := be.vxq, vflags := be.vflags, tiles := be.tiles, groups := be.groups, scal := be.scal } = be ∧
      (∀ c, c ≠ b → berth c t = berth c s) ∧ { t with berths := s.berths, acct := s.acct } = s

/-- For each of the nine number formats (FP64, FP32, BF16, FP16, E5M2, E4M3, E3M2, E2M3, E2M1) and each bit pattern of
it that is neither an infinity nor a NaN, rounding the value of the pattern to the format, to nearest even or toward
zero, gives the pattern back and sets no flag. (07_numerics_and_rymouc_order.md) -/
def Obligations.RoundingIsExactOnFormatValues : Prop :=
  ∀ f ∈ [fp64, fp32, bf16, fp16, e5m2, e4m3, e3m2, e2m3, e2m1], ∀ mode ∈ [Mode.rne, Mode.rz],
    ∀ raw : Nat, raw < 2 ^ (1 + f.eb + f.mb) → (decodeNum f raw).isNan = false → (decodeNum f raw).isInf = false →
      roundVal f mode (decodeNum f raw) = (raw, 0)

/-- Out of reset, for a lighter that is neither stopped nor busy, with a descriptor of TILE or LINEAR from a tile
register, a group or the own slice's SCRATCH to a tile register at the head of its queue, accepted and not held by the
scoreboard or the interlock, its source in no lost position of a parity group, and no memory error, LT_DESC_START
takes the descriptor from the queue and runs it; nothing else of the berth changes, and neither tiles, memory nor
other berths do (that no byte moves yet is log 36). (03_berths_tiles_lighters.md) -/
def Obligations.DescriptorsStart : Prop :=
  ∀ (s : State) (b : BerthIdx) (n : BitVec 2) (q : QEnt) (r : List QEnt) (be : Berth), be = berth b s →
    Awake s → be.lt[n.toNat].queue = q :: r → be.lt[n.toNat].stopped = false → be.lt[n.toNat].run = none →
    ltCode b q s = none → ltHeld be q = false → (q.op = 1 ∨ q.op = 2) → q.dstKind = 0 →
    (q.srcKind = 0 ∨ q.srcKind = 1 ∨ (q.srcKind = 2 ∧ ∀ p ∈ piecesOf q.b.toNat q.size, (ext p.1 s).kind = .scratch ∧
      (ext p.1 s).st = .idle ∧ ∀ d, frameDom b s = some d → lostPosAt d (ownDev s) [p.1] s = none)) →
    ∃ t, exec (.ltDescStart b n .clean) s = .next t ∧
      OnlyBerth b { be with
        starts := be.starts + 1
        lt := be.lt.set n.toNat { be.lt[n.toNat] with queue := r, run := some { ent := q, start := be.starts } } } s t

/-- Out of reset, for a lighter that runs a TILE, LINEAR or IMEM_LOAD descriptor whose bytes are all there and that
reads and writes no extent POISONED or REBUILDING, LT_DESC_COMPLETE takes the bytes that it has sent, or that a peer
has brought, or that its tile register, its group (as FP32) or its memory holds (as the berth's frame reads it, or,
for the driver's load, as committed), transposes them where the descriptor says so, and lands them: in a tile register
from its first byte on; in the extents of its destination, byte i at the place of address + i; in the instruction
memory, 8 bytes a word, from the word of its offset on; nothing of a destination at a peer. Every other byte of the
register, of memory and every other word are unchanged. The lighter is left free, LT_DONE counts one, the digest is
the CRC-64 of the bytes landed. With CHECK and a CRC-64 of the bytes read other than the descriptor's, MISMATCH and
the berth's lighter-check flag are set and DIGEST_MISMATCH is reported; otherwise they stay as they are and nothing is
reported. Every other tile register, every group, scalar and flag, and every other berth are unchanged. A lighter that
runs nothing changes nothing (log 11). That the bytes are read and land at completion is log 36.
(03_berths_tiles_lighters.md) -/
def Obligations.DescriptorsComplete : Prop :=
  ∀ (s : State) (b : BerthIdx) (n : BitVec 2) (be : Berth) (l : Lighter), be = berth b s → l = be.lt[n.toNat] →
    (l.run = none → exec (.ltDescComplete b n) s = .next s) ∧
    (∀ (r : Running) (q : QEnt), q = r.ent → Awake s → l.run = some r → descDone r s = true → (q.op = 1 ∨ q.op = 2 ∨ q.op = 5) →
      (2 ≤ q.srcKind → q.srcKind ≤ 4 → ∀ p ∈ piecesOf q.b.toNat q.size,
        (ext p.1 s).st ≠ .poisoned ∧ (ext p.1 s).st ≠ .rebuilding) →
      (2 ≤ q.dstKind → q.dstKind ≤ 4 → ∀ p ∈ piecesOf q.c.toNat q.size,
        (ext p.1 s).st ≠ .poisoned ∧ (ext p.1 s).st ≠ .rebuilding) →
      let bytes := r.sentData.getD (match q.srcKind with
        | 0 => bankBytes (tget be.tiles {} (q.b.toNat % 16)) (bankBase b (q.b.toNat % 16)) 0 q.size
        | 1 => bankBytes (tget be.groups {} (q.b.toNat % 8)).bank (bankBase b (16 + q.b.toNat % 8)) 0 q.size
        | 5 => (List.range r.got.length).flatMap (fun i => ((r.got.find? (fun g => g.1 == 65536 * i)).getD (0, [])).2)
        | _ => readPieces (if q.driver then none else frameDom b s) (piecesOf q.b.toNat q.size) s)
      let out := if q.transpose then transposeTile q.fmt q.axis bytes else bytes
      let bad := q.check && crc64 bytes != q.d
      let here (i : Nat) : Nat :=
        writePhys ((extOf q.c.toNat).1 + ((extOf q.c.toNat).2 + i) / 2 ^ 20) s * 2 ^ 20 + ((extOf q.c.toNat).2 + i) % 2 ^ 20
      ∃ t, exec (.ltDescComplete b n) s = .next t ∧
        (berth b t).lt = be.lt.set n.toNat { l with
          run := none, done := l.done + 1, digest := crc64 out, mismatch := l.mismatch || bad } ∧
        (berth b t).ltFlag = (be.ltFlag || bad) ∧
        (bad = true → (hdr (Pg.lighter b) t).errStatus.getLsbD 1 = true ∧ lastErr ⟨Pg.health, 0⟩ t = 0xB001) ∧
        (bad = false → t.pages = s.pages ∧ t.lastErr = s.lastErr ∧ t.health = s.health) ∧
        { berth b t with tiles := be.tiles, imem := be.imem, lt := be.lt, ltFlag := be.ltFlag } = be ∧
        (∀ c, c ≠ b → berth c t = berth c s) ∧ t.route = s.route ∧
        (q.dstKind = 0 → out.length ≤ 65536 → (berth b t).imem = be.imem ∧ t.mem = s.mem ∧
          (∀ k, k < 65536 → bankByte (tget (berth b t).tiles {} (q.c.toNat % 16)) (bankBase b (q.c.toNat % 16)) k =
            if k < out.length then out.getD k 0
            else bankByte (tget be.tiles {} (q.c.toNat % 16)) (bankBase b (q.c.toNat % 16)) k) ∧
          ∀ k, k ≠ q.c.toNat % 16 → tget (berth b t).tiles {} k = tget be.tiles {} k) ∧
        (2 ≤ q.dstKind → q.dstKind ≤ 4 → out.length = q.size → (∀ p ∈ piecesOf q.c.toNat q.size, (ext p.1 s).kind ≠ .pool) →
          (∀ i j, i < q.size → j < q.size → here i = here j → i = j) →
          (berth b t).tiles = be.tiles ∧ (berth b t).imem = be.imem ∧
          (∀ i, i < q.size → t.mem.byteAt (here i) = out.getD i 0) ∧
          (∀ k, (∀ i, i < q.size → k ≠ here i) → t.mem.byteAt k = s.mem.byteAt k) ∧
          { t.mem with bytes := s.mem.bytes, unk := s.mem.unk } = s.mem) ∧
        (q.dstKind = 5 ∨ q.dstKind = 7 → (berth b t).tiles = be.tiles ∧ (berth b t).imem = be.imem ∧ t.mem = s.mem) ∧
        (q.dstKind = 6 → (berth b t).tiles = be.tiles ∧ t.mem = s.mem ∧
          ∀ k, tget (berth b t).imem 0 k = if q.c.toNat / 8 ≤ k ∧ k < q.c.toNat / 8 + out.length / 8 then
            w64 (leAt out (8 * (k - q.c.toNat / 8)) 8) else tget be.imem 0 k))

/-- A write of 1 to LT_GO that reaches the lighter's page, with an accepted IMEM_LOAD in the descriptor registers, a
lighter not stopped and room in its queue, queues it as the driver's; an operation other than IMEM_LOAD is refused
with LT_BAD_DESC and a write of 0 does nothing. Out of reset, the second read of a slice word that waits for it, when
it succeeds and no request waits, counts one transient fault of the class of SRAM_RETRY_OK, 0xB (the model's reading,
log 37), and pushes one fault record; when it fails, one lasting fault, four points, and an OBJECT extent (not FRESH)
is POISONED. A word that does not wait changes nothing (log 11). (03_berths_tiles_lighters.md;
14_faults_health_and_audit.md) -/
def Obligations.LighterRegisterAndRetry : Prop :=
  ∀ (s : State) (r : Req) (b : BerthIdx) (n : BitVec 2) (v : W32) (l : Lighter) (q : QEnt), l = lighter b n s →
    q = driverDesc l →
    (Reaches r (Pg.lighter b) s →
      (v.getLsbD 0 = false → exec (.ltGo r b n v) s = .next (answerReq r 0 0 s)) ∧
      (v.getLsbD 0 = true → q.op = 5 → descCode b q s = none → l.stopped = false → l.queue.length < 8 →
        exec (.ltGo r b n v) s = .next (answerReq r 0 0 (setLighter b n { l with queue := l.queue ++ [q] } s))) ∧
      (v.getLsbD 0 = true → q.op ≠ 5 →
        exec (.ltGo r b n v) s = .next (answerReq r 0x2001 0 (refuse (Blk.lt b n.toNat) 0x2001 s)))) ∧
    (∀ off : BitVec 28,
      ((b, off) ∉ s.health.sramRetry → ∀ ok, exec (.sliceReadRetry b off ok) s = .next s) ∧
      ((b, off) ∈ s.health.sramRetry → Awake s → s.mem.waitGets = [] → s.health.ring.length < 255 →
        (∃ t, exec (.sliceReadRetry b off true) s = .next t ∧
          healthCnt 0xB t = satInc (healthCnt 0xB s) ∧ t.health.ring.length = s.health.ring.length + 1 ∧
          t.health.score = s.health.score ∧ t.health.sramRetry = s.health.sramRetry.erase (b, off) ∧
          t.mem = s.mem ∧ t.berths = s.berths) ∧
        ((ext (b.toNat * 256 + off.toNat / 2 ^ 20) s).st ≠ .fresh → ∃ t, exec (.sliceReadRetry b off false) s = .next t ∧
          healthCnt 0x12 t = satInc (healthCnt 0x12 s) ∧ t.health.ring.length = s.health.ring.length + 1 ∧
          t.health.score.toNat = min (s.health.score.toNat + 1024) (2 ^ 32 - 1) ∧
          ((ext (b.toNat * 256 + off.toNat / 2 ^ 20) s).kind = .object →
            (ext (b.toNat * 256 + off.toNat / 2 ^ 20) t).st = .poisoned) ∧
          t.mem.bytes = s.mem.bytes ∧ t.berths = s.berths)))

/-- Out of reset: CHAN of the run that is open here, of the domain's epoch, on a channel whose entry receives from
that producer, fills the one posted receive of the channel: its bytes lie in the receive's tile register from the
first byte on (those of a whole MX tile, which come with the scale region first, with the rows first), the receive may
complete, and the acknowledgement leaves for the producer; on an undeclared channel it is dropped, reported, and the
notice of that leaves (all rows land with the message, log 6; the notice is the dropped operand of CHAN_ACK, logs 8
and 36). CHAN_POST of the open run, of the epoch, on an entry that sends to that consumer, with no SEND of the channel
running, is kept for the producer. CHAN_ACK for a lighter whose SEND has been sent lets it complete: LT_DONE counts
one; where the consumer has dropped the message, the lighter stops with CHAN_UNDECLARED and nothing is counted. A
message of another epoch is dropped, reported and counted as EPOCH_STALE or EPOCH_AHEAD; one of the epoch but of a run
that is not open changes nothing (log 20). Memory is unchanged by all three. (03_berths_tiles_lighters.md;
13_voxle_addressing_routing_transactions.md; 10_grains_mapping_and_elastic_jobs.md) -/
def Obligations.ChannelMessages : Prop :=
  ∀ (s : State) (h : ChanHdr) (fmt : BitVec 4) (data : List Byte),
    (h.epoch = (member h.tag.dom.toNat s).epoch → tagLive h.tag s = false →
      exec (.chanPost h) s = .next s ∧ exec (.chan h fmt data) s = .next s) ∧
    (Awake s → h.epoch ≠ (member h.tag.dom.toNat s).epoch → exec (.chan h fmt data) s = exec (.chanPost h) s ∧
      ∃ t, exec (.chanPost h) s = .next t ∧ { t with members := s.members, pages := s.pages, lastErr := s.lastErr } = s ∧
        lastErr (Blk.mb h.tag.dom.toNat) t =
          (if h.epoch.toNat < (member h.tag.dom.toNat s).epoch.toNat then 0x7002 else 0x7003) ∧
        t.members = (if h.epoch.toNat < (member h.tag.dom.toNat s).epoch.toNat then
          { s.members with stale := satInc s.members.stale } else { s.members with ahead := satInc s.members.ahead })) ∧
    (Awake s → tagLive h.tag s = true → h.epoch = (member h.tag.dom.toNat s).epoch →
      (entryNames h.consumer h.chan true h.src h.producer s = true → data.length ≤ 65536 →
        ∀ body : List Byte, body = (if data.length = tileBytes fmt.toNat then
          data.drop (scaleBytes fmt.toNat) ++ data.take (scaleBytes fmt.toNat) else data) →
        ∀ n r, recvs h.consumer h.chan true s = [(n, r)] → recvs h.consumer h.chan false s = [] →
        ∃ t, exec (.chan h fmt data) s = .next t ∧ t.mem = s.mem ∧
          t.outbox = s.outbox ++ [.chanAck h.src h.producer h.chan false] ∧
          (∀ k, k < data.length → bankByte (tget (berth h.consumer t).tiles {} (r.ent.c.toNat % 16))
            (bankBase h.consumer (r.ent.c.toNat % 16)) k = body.getD k 0) ∧
          (∃ r', (lighter h.consumer n t).run = some r' ∧ r'.ok = true ∧ r'.rows = 128 ∧ r'.ent = r.ent) ∧
          (∀ k, k ≠ r.ent.c.toNat % 16 → tget (berth h.consumer t).tiles {} k = tget (berth h.consumer s).tiles {} k) ∧
          ∀ c, c ≠ h.consumer → berth c t = berth c s) ∧
      (entryNames h.consumer h.chan true h.src h.producer s = false → h.chan ∉ (berth h.consumer s).checked →
        ∃ t, exec (.chan h fmt data) s = .next t ∧ t.mem = s.mem ∧ t.berths = s.berths ∧
          t.outbox = s.outbox ++ [.chanAck h.src h.producer h.chan true] ∧ (hdr (Pg.lighter h.consumer) t).errStatus.getLsbD 1 = true) ∧
      (entryNames h.producer h.chan false h.src h.consumer s = true → sends h.producer h.chan s = [] →
        ∃ t, exec (.chanPost h) s = .next t ∧ OnlyBerth h.producer { berth h.producer s with
          postings := (berth h.producer s).postings ++ [⟨h.chan, h.src, h.consumer⟩] } s t)) ∧
    (∀ (b : BerthIdx) (n : BitVec 2) (r : Running), Awake s → (lighter b n s).run = some r → r.ent.op = 3 → r.sent = true →
      (r.ent.srcKind = 0 → r.ent.dstKind = 7 → r.wait = 0 → r.dead = false → r.ent.transpose = false → r.ent.check = false →
        ∃ t, exec (.chanAck b n false) s = .next t ∧ (lighter b n t).run = none ∧
          (lighter b n t).done = (lighter b n s).done + 1 ∧ (berth b t).tiles = (berth b s).tiles ∧ t.mem = s.mem ∧
          ∀ c, c ≠ b → berth c t = berth c s) ∧
      ∃ t, exec (.chanAck b n true) s = .next t ∧
        OnlyBerth b { berth b s with lt := (berth b s).lt.set n.toNat { lighter b n s with stopped := true, run := none } }
          { s with lastErr := t.lastErr } t ∧ lastErr (Blk.lt b n.toNat) t = 0x2007)

/-- OBJ_WIN_READ that reaches the page puts the entry that OBJ_WIN_SEL names, of the extent table where its bit 31 is
set and of the object table otherwise, into the four data words, and OBJ_WIN_WRITE stages the four data words as a
write of the named entry behind the writes already staged; the tables are unchanged until the next base tick, and
nothing else changes but the answer. (08_memory_tiers_and_objects.md) -/
def Obligations.ObjectWindowAccess : Prop :=
  ∀ (s : State) (r : Req), Reaches r Pg.object s →
    (∃ m : Mem, exec (.objWinRead r) s = .next (answerReq r 0 0 { s with mem := m }) ∧
      { m with win0 := s.mem.win0, win1 := s.mem.win1, win2 := s.mem.win2, win3 := s.mem.win3 } = s.mem ∧
      m.win3 ++ m.win2 ++ m.win1 ++ m.win0 = (if s.mem.winSel.getLsbD 31 then extWord (s.mem.winSel.toNat % 2 ^ 21) s
        else objWord (obj (s.mem.winSel.toNat % 2 ^ 21) s))) ∧
    (exec (.objWinWrite r) s = .next (answerReq r 0 0 { s with mem := { s.mem with staged := s.mem.staged ++
      [{ extTable := s.mem.winSel.getLsbD 31, index := s.mem.winSel.toNat % 2 ^ 21
         data := s.mem.win3 ++ s.mem.win2 ++ s.mem.win1 ++ s.mem.win0 }] } }))

/-- For every object entry, the 128-bit word in which the window shows it decodes to the entry: VALID, CLASS, WRITER,
OWNER, AUDIT, PRIV_MAP, GROUP, LABEL and the extent count each keep every bit, and the reserved bits of the word are
0. (08_memory_tiers_and_objects.md) -/
def Obligations.ObjectEntryRoundTrip : Prop :=
  ∀ e : ObjEntry, objOfWord (objWord e) = e ∧ (objWord e).toNat / 2 ^ 96 % 2 ^ 12 = 0 ∧ (objWord e).toNat / 2 ^ 21 % 2 ^ 11 = 0

/-- With fewer than 64 requests waiting, each of the five move commands that reaches the page appends its request,
with the extents that MOVE_SRC and MOVE_DST name and the tag given, to those that wait for the next base tick; with 64
waiting it is refused with MOVE_FULL, whose number the spec does not give (log 4). A read of MOVE_RES takes the oldest
result, its tag in the upper and its code in the lower half, and on an empty queue answers 0 and counts one error.
Nothing else changes but the answer. (08_memory_tiers_and_objects.md) -/
def Obligations.MoveRequestsQueue : Prop :=
  ∀ (s : State) (r : Req) (tag : W16), Reaches r Pg.object s →
    (∀ q ∈ [(Instr.promote r tag, MoveOp.promote), (.evict r tag, .evict), (.pin r tag, .pin), (.unpin r tag, .unpin),
            (.remap r tag, .remap)],
      (s.mem.moveReqs.length < 64 → exec q.1 s = .next (answerReq r 0 0 { s with mem := { s.mem with
        moveReqs := s.mem.moveReqs ++ [{ op := q.2, src := s.mem.moveSrc.toNat, dst := s.mem.moveDst.toNat, tag := tag }] } })) ∧
      (64 ≤ s.mem.moveReqs.length →
        exec q.1 s = .next (answerReq r Code.moveFull 0 (refuse ⟨Pg.object, 0⟩ Code.moveFull s)))) ∧
    (∀ t c rest, s.mem.moveRes = (t, c) :: rest → exec (.moveResRead r) s =
      .next (answerReq r 0 (t ++ c) { s with mem := { s.mem with moveRes := rest } })) ∧
    (s.mem.moveRes = [] → ∃ u, exec (.moveResRead r) s = .next (answerReq r 0 0 u) ∧
      (hdr Pg.object u).errCount = satInc (hdr Pg.object s).errCount ∧
      { u with pages := s.pages } = s ∧ ∀ p, p ≠ Pg.object → hdr p u = hdr p s)

/-- Out of reset, in a state whose memory has its canonical form: when a version-on-write copy of an extent completes
without a memory error, each byte of the fresh version's 1 MiB reads as the last of the waiting writes that cover it
gives, else as the committed version's byte; every other byte outside the waiting writes reads as before, the extent
no longer waits for a copy, and its domain is DONE where its open frame is finished with that, OPEN otherwise. A
MEM_PUT of another device whose only copy this was is acknowledged with status 0 and waits no more. When the copy of a
move completes without an error, the destination's physical extent reads as the committed version of the source, every
other byte as before, and the move is marked copied. Extent numbers without a copy under way are unchanged (log 11).
Nothing else of the state changes but what a version-on-write copy charges. That the acknowledgement waits for the
copies, and that the end of a copy lets the frame be finished, are the model's readings (log 42).
(08_memory_tiers_and_objects.md; 02_ticks_frames_commit.md) -/
def Obligations.CopiesComplete : Prop :=
  ∀ (s : State) (x : BitVec 21) (e : Ext), Inv s → Awake s → e = ext x.toNat s →
    (cowOn x.toNat s = false → exec (.cowCopyComplete x .clean) s = .next s) ∧
    (∀ c, s.mem.cow.find? (fun c => c.ext == x.toNat) = some c →
      ∃ t, exec (.cowCopyComplete x .clean) s = .next t ∧ cowOn x.toNat t = false ∧
        (∀ k, t.mem.byteAt k = c.writes.foldl
          (fun v w => if e.freshPhys.toNat * 2 ^ 20 + w.off ≤ k ∧ k < e.freshPhys.toNat * 2 ^ 20 + w.off + w.data.length then
            w.data.getD (k - (e.freshPhys.toNat * 2 ^ 20 + w.off)) 0 else v)
          (if e.freshPhys.toNat * 2 ^ 20 ≤ k ∧ k < e.freshPhys.toNat * 2 ^ 20 + 2 ^ 20 then
            s.mem.byteAt (e.phys.toNat * 2 ^ 20 + (k - e.freshPhys.toNat * 2 ^ 20)) else s.mem.byteAt k)) ∧
        { t.mem with bytes := s.mem.bytes, unk := s.mem.unk, cow := s.mem.cow, putWaits := s.mem.putWaits } = s.mem ∧
        { t with mem := s.mem, acct := s.acct, domains := s.domains, outbox := s.outbox } = s ∧
        (∀ d, d ≠ e.freshFd.toNat → dom d t = dom d s) ∧
        (∃ st, dom e.freshFd.toNat t = { dom e.freshFd.toNat s with st := st } ∧
          (isOpen e.freshFd.toNat s = true → st = if finished e.freshFd.toNat t then .done else .opened) ∧
          (isOpen e.freshFd.toNat s = false → st = (dom e.freshFd.toNat s).st)) ∧
        (s.mem.putWaits = [] → t.outbox = s.outbox) ∧
        (∀ w, s.mem.putWaits = [w] → w.exts = [x.toNat] → t.mem.putWaits = [] ∧ Answers w.q 0x13 0 s t)) ∧
    ((∀ m ∈ s.mem.moves, m.src ≠ x.toNat) → exec (.moveCopyComplete x .clean) s = .next s) ∧
    (∀ m, s.mem.moves.find? (fun m => m.src == x.toNat && !m.waiting && !m.copied) = some m →
      (e.st = .promoting ∨ e.st = .evicting) →
      ∃ t, exec (.moveCopyComplete x .clean) s = .next t ∧ { m with copied := true } ∈ t.mem.moves ∧
        (∀ k, t.mem.byteAt k = (if m.dstPhys * 2 ^ 20 ≤ k ∧ k < m.dstPhys * 2 ^ 20 + 2 ^ 20 then
          s.mem.byteAt (e.phys.toNat * 2 ^ 20 + (k - m.dstPhys * 2 ^ 20)) else s.mem.byteAt k)) ∧
        { t.mem with bytes := s.mem.bytes, unk := s.mem.unk, moves := s.mem.moves } = s.mem ∧ { t with mem := s.mem } = s)

/-- Out of reset: a MEM_PUT that belongs to no frame, of at least one byte in a range that requests may reach, over
one or several extents that lie in different physical extents and that no checkpoint retains, stores its bytes in the
committed versions, every other byte of memory reading as before; the last message sent is a PUT_ACK of status 0 to
the requester, back along the path of a path-routed request. A MEM_GET without a memory error of such a range is
answered with one MEM_RESP of status 0 and the bytes that lie there, or, of an open run, the bytes that the run reads,
and changes nothing else; of a range with a lost position of a parity group, a run's is answered with EXTENT_POISONED.
Accounts may change with all of these. A MEM_PUT of a run that is open here, within one extent, stores in the fresh
version that its domain holds and is acknowledged; to a SCRATCH extent it is answered with LT_SCRATCH_FOREIGN. A
request of a run that is not open changes nothing (log 20). A range refused with a code is answered with the code,
nothing but accounts changing. A slice read that meets an uncorrectable word waits for the second read, unanswered; an
LPDDR5X read whose second read fails too is answered with MEM_UNCORRECTABLE. (08_memory_tiers_and_objects.md;
13_voxle_addressing_routing_transactions.md; 03_berths_tiles_lighters.md) -/
def Obligations.OutsideMemoryRequests : Prop :=
  ∀ (s : State) (q : MemReq) (data : List Byte) (n a : Nat), a = q.addr.toNat → Awake s →
    (q.frame.noFrame = true → requestCode a data.length s = none → data ≠ [] →
      (∀ p ∈ piecesOf a data.length, retained (ext p.1 s).phys.toNat s = false) →
      ((piecesOf a data.length).map (fun p => (ext p.1 s).phys)).Nodup →
      ∃ t, exec (.memPut q data) s = .next t ∧ Answers q 0x13 0 s t ∧
        (∀ i, i < data.length → t.mem.byteAt (committedAt (a + i) s) = data.getD i 0) ∧
        (∀ k, (∀ i, i < data.length → k ≠ committedAt (a + i) s) → t.mem.byteAt k = s.mem.byteAt k) ∧
        { t with mem := s.mem, survive := s.survive, acct := s.acct, outbox := s.outbox } = s ∧
        { t.mem with bytes := s.mem.bytes, unk := s.mem.unk } = s.mem) ∧
    (∀ c, requestCode a data.length s = some c → ∃ t, exec (.memPut q data) s = .next t ∧ Answers q 0x13 c s t ∧
      t.outbox.length = s.outbox.length + 1 ∧ { t with outbox := s.outbox, acct := s.acct } = s) ∧
    (q.frame.noFrame = true → requestCode a n s = none → 0 < n → ∃ (m : OutMsg) (u : Acct),
      exec (.memGet q n .clean) s = .next { s with outbox := s.outbox ++ [.msg m], acct := u } ∧
      m.path = q.back.map pathBack ∧ m.kind = 0x12 ∧ m.dst = q.src ∧ m.tag = q.tag ∧ m.h = q.h ∧
      m.body.take 2 = [0, 0] ∧ m.body.drop 8 = (List.range n).map (fun i => s.mem.byteAt (committedAt (a + i) s))) ∧
    (∀ c, requestCode a n s = some c → tagLive q.frame s = true → 0 < n → ∀ x, ∃ t, exec (.memGet q n x) s = .next t ∧
      Answers q 0x12 c s t ∧ t.outbox.length = s.outbox.length + 1 ∧ { t with outbox := s.outbox } = s) ∧
    (tagLive q.frame s = false → (∀ x, exec (.memGet q n x) s = .next s) ∧
      (requestCode a data.length s = none → exec (.memPut q data) s = .next s)) ∧
    (q.frame.noFrame = false → tagLive q.frame s = true → ∀ d, d = q.frame.dom.toNat →
      (requestCode a n s = none → 0 < n → lostPosAt d s.route.addr ((piecesOf a n).map (·.1)) s ≠ none → ∀ x,
        ∃ t, exec (.memGet q n x) s = .next t ∧ Answers q 0x12 0x500A s t ∧ { t with outbox := s.outbox } = s) ∧
      (requestCode a n s = none → 0 < n → lostPosAt d s.route.addr ((piecesOf a n).map (·.1)) s = none →
        (∀ p ∈ piecesOf a n, (ext p.1 s).st ≠ .moved) → ∃ t, exec (.memGet q n .clean) s = .next t ∧ Answers q 0x12 0 s t ∧
          (∃ m, t.outbox = s.outbox ++ [.msg m] ∧ m.body.drop 8 = (List.range n).map (fun i =>
            s.mem.byteAt (readPhys (extOf (a + i)).1 (some d) s * 2 ^ 20 + (extOf (a + i)).2))) ∧
          { t with outbox := s.outbox, acct := s.acct } = s) ∧
      (requestCode a data.length s = none → data ≠ [] → (extOf a).2 + data.length ≤ 2 ^ 20 → peerLast a data.length = false →
        ((ext (extOf a).1 s).kind = .scratch → ∃ t, exec (.memPut q data) s = .next t ∧ Answers q 0x13 0x2005 s t ∧
          { t with outbox := s.outbox, acct := s.acct } = s) ∧
        (∀ e, e = ext (extOf a).1 s → e.kind = .object → e.st = .fresh → e.freshFd.toNat = d →
          cowOn (extOf a).1 s = false → mayWrite d e.obj.toNat s = true →
          ctlCode d e.obj.toNat (e.ord.toNat * 2 ^ 20 + (extOf a).2) data.length s = none →
          ∃ t, exec (.memPut q data) s = .next t ∧ Answers q 0x13 0 s t ∧
            StoredBytes (e.freshPhys.toNat * 2 ^ 20 + (extOf a).2) data s t ∧
            { t with mem := s.mem, serve := s.serve, acct := s.acct, outbox := s.outbox } = s))) ∧
    (requestCode a n s = none → tagLive q.frame s = true → q.frame.noFrame = true → 0 < n →
      (a < 2 ^ 36 → ∀ o, ∃ t, exec (.memGet q n (.sramUncorrectable o)) s = .next t ∧ t.outbox = s.outbox ∧
        (hdr (Pg.lighter (BitVec.ofNat 8 (a / 2 ^ 28))) t).errStatus.getLsbD 1 = true ∧
        t.health.sramRetry = s.health.sramRetry ++ [(BitVec.ofNat 8 (a / 2 ^ 28), BitVec.ofNat 28 ((a + o) % 2 ^ 28))] ∧
        t.mem.waitGets = s.mem.waitGets ++
          [⟨BitVec.ofNat 8 (a / 2 ^ 28), BitVec.ofNat 28 ((a + o) % 2 ^ 28), q, n⟩] ∧
        ∀ k, t.mem.byteAt k = s.mem.byteAt k) ∧
      (2 ^ 36 ≤ a → ∀ o link, ∃ t, exec (.memGet q n (.lpxRetryFail o link)) s = .next t ∧
        Answers q 0x12 Code.memUncorrectable s t ∧ ∀ k, t.mem.byteAt k = s.mem.byteAt k))

/-- Out of reset: every MEM_RESP notes the port on which data from its device last arrived. One of status 0 for an
outstanding read of a running lighter ends the request, keeps the bytes under the offset that the request named, and
leaves one response fewer outstanding. A PUT_ACK of status 0 for an outstanding write does the same without bytes.
Nothing else of the berth, no byte of memory and no other berth changes. A response whose tag belongs to no request of
this device or of the host changes nothing else. (13_voxle_addressing_routing_transactions.md;
03_berths_tiles_lighters.md; 14_faults_health_and_audit.md) -/
def Obligations.ResponsesToLighters : Prop :=
  ∀ (s : State) (tag : BitVec 14) (src : W16) (data : List Byte),
    (Awake s → findReq tag src s = none → s.hostbr.tags.find? (fun t => t.1 == tag) = none → ∀ status,
      (∀ p bad, ∃ t, exec (.memResp tag src status data p bad) s = .next t ∧ Arrived src p.val s t) ∧
      exec (.putAck tag src status) s = .next s) ∧
    (∀ (o : OutReq) (b : BerthIdx) (n : BitVec 2) (r : Running), Awake s → findReq tag src s = some o →
      (lighter b n s).run = some r →
      (∀ off, o.what = .ltGet b n off → ∀ p bad, ∃ t u, exec (.memResp tag src 0 data p bad) s = .next t ∧
        Arrived src p.val s u ∧ t.reqs = s.reqs.erase o ∧ OnlyBerth b { berth b s with
          lt := (berth b s).lt.set n.toNat { lighter b n s with run := some { r with wait := r.wait - 1, got := r.got ++ [(off, data)] } } }
          { u with reqs := t.reqs } t) ∧
      (o.what = .ltPut b n → ∃ t, exec (.putAck tag src 0) s = .next t ∧
        t.reqs = s.reqs.erase o ∧ OnlyBerth b { berth b s with
          lt := (berth b s).lt.set n.toNat { lighter b n s with run := some { r with wait := r.wait - 1 } } }
          { s with reqs := t.reqs } t))

/-- A write of LPX_CFG that reaches the page, with a rate code 0 to 7 and no domain enabled, starts the training of
every controller, memory unchanged; another code or an enabled domain is refused with CONFIG_REFUSED. Out of reset, in
a state whose memory has its canonical form, LPX_TRAINING_COMPLETE records the channels that failed; the last
controller to end training leaves the LPDDR5X bytes 0 and the SRAM bytes as they were, and an earlier one leaves
memory unchanged. A refresh and a WCK oscillator read change nothing. An MR4 read stores the refresh rate and the
temperature mark. A scrub pass counts one, and a scrub read that the ECC corrects counts one corrected error, or one
link error, each scrub read charging accounts; each counter stays at its largest value.
(08_memory_tiers_and_objects.md; 20_electrical_and_thermal.md) -/
def Obligations.LpxControllers : Prop :=
  ∀ (s : State) (r : Req) (v : W32) (m : MemIdx) (x : LpxDev), x = lpxDev m.val s →
    (Reaches r (Pg.lpx 0) s → Unlocked r (Pg.lpx 0) s →
      ((∀ d, d < 16 → (dom d s).en = false) ∧ v.toNat % 16 < 8 →
        ∃ u : Mem, ∃ w : StartUp, exec (.lpxRateWrite r v) s = .next (answerReq r 0 0 { s with mem := u, startUp := w }) ∧
        u.rate.toNat = v.toNat % 16 ∧ u.training = true ∧ u.bytes = s.mem.bytes ∧ u.unk = s.mem.unk ∧
        w.lpxEnded = [] ∧ ∀ k, k < 24 → (tget u.lpx {} k) = { lpxDev k s with trained := false }) ∧
      (¬ ((∀ d, d < 16 → (dom d s).en = false) ∧ v.toNat % 16 < 8) →
        exec (.lpxRateWrite r v) s = .next (answerReq r 0x1009 0 (refuse ⟨Pg.lpx 0, 0⟩ 0x1009 s)))) ∧
    (Inv s → Awake s → ∀ cf : BitVec 8, ∃ t, exec (.lpxTrainingComplete m cf) s = .next t ∧
      lpxDev m.val t = { x with chFail := cf, trained := decide (cf = 0) } ∧
      (∀ k, k ≠ m.val → lpxDev k t = lpxDev k s) ∧
      ((insNat s.startUp.lpxEnded m.val).length ≠ 24 → t.mem.bytes = s.mem.bytes ∧ t.mem.unk = s.mem.unk ∧
        t.mem.training = s.mem.training) ∧
      ((insNat s.startUp.lpxEnded m.val).length = 24 → t.mem.training = false ∧
        (∀ k, k < 2 ^ 36 → t.mem.byteAt k = s.mem.byteAt k) ∧
        (∀ k, 2 ^ 36 ≤ k → k < 2 ^ 36 + 2 ^ 48 → t.mem.byteAt k = 0)) ∧ t.berths = s.berths ∧ t.domains = s.domains) ∧
    (∀ ch bank, exec (.lpxRefresh m ch bank) s = .next s) ∧ exec (.lpxWckOscRead m) s = .next s ∧
    (∀ rate hot, Awake s → ∃ t, exec (.lpxMr4Read m rate hot) s = .next t ∧ lpxDev m.val t = { x with mr4Rate := rate, hot := hot } ∧
      (∀ k, k ≠ m.val → lpxDev k t = lpxDev k s) ∧ t.mem.bytes = s.mem.bytes ∧
      (hot = false → { t with mem := s.mem } = s) ∧
      (hot = true → (hdr (Pg.lpx m.val) t).errStatus.getLsbD 1 = true)) ∧
    (Awake s → exec (.patrolScrubPass m) s = .next (setLpx m.val { x with scrub := satInc x.scrub } s)) ∧
    (∀ ch sec, Awake s → (∃ u, exec (.patrolScrubRead m ch sec .clean) s = .next { s with acct := u }) ∧
      (∀ o, ∃ u, exec (.patrolScrubRead m ch sec (.lpxCorrected o)) s =
        .next (setLpx m.val { x with ce := satInc x.ce } { s with acct := u })) ∧
      (∀ o, ∃ u, exec (.patrolScrubRead m ch sec (.linkCorrected o)) s =
        .next (setLpx m.val { x with link := satInc x.link } { s with acct := u })))

/-- Each command writes CTRL of the page with the fields that it does not name as they stand (log 8), so it is refused
with CONFIG_REFUSED where QUIESCE is written 1 while an enabled domain holds the berth, where ENABLE is written 0
while the berth is not quiesced, that is, marked and not busy, and, for BLOCK_RESET, while a domain of the berth runs
a frame or an abort. Otherwise, on an enabled, a disabled or a quiesced berth alike, QUIESCE and ENABLE take the value
written, 0 or 1, and nothing else changes; and BLOCK_RESET empties both engines' queues, clears their stops and flags,
makes the pilot IDLE and VL 128 by 128, closes every group, and keeps scalars, tiles, instruction memory and PC, and
both fields. On the lighter page BLOCK_RESET empties the four lighters and keeps their registers; it is refused while
a domain of the berth runs a frame or an abort. (17_register_pages.md) -/
def Obligations.BerthControl : Prop :=
  ∀ (s : State) (r : Req) (b : BerthIdx) (be : Berth) (h : PageHdr), be = berth b s → h = hdr (Pg.berth b) s →
    let held := berthDom b s ≠ none
    let still := h.quiesce = true ∧ pageBusy (Pg.berth b) s = false
    let refused (p : Nat) := Host.Outcome.next (answerReq r 0x1009 0 (refuse ⟨p, 0⟩ 0x1009 s))
    (Reaches r (Pg.berth b) s →
      (¬ (h.quiesce = true ∧ held) → (h.enable = true ∨ still) → berthRuns b s = false →
        ∃ o, (∃ t, exec (.ctrlBlockReset r false b) s = .next (answerReq r 0 0 t) ∧
          OnlyBerth b o { s with pages := t.pages } t ∧ ∀ p, hdr p t = hdr p s) ∧
        o.mxq = [] ∧ o.vxq = [] ∧ o.closing = [] ∧ o.mxStopped = false ∧ o.vxStopped = false ∧ o.mxflags = 0 ∧ o.vflags = 0 ∧
        o.pl = .idle ∧ o.stall = none ∧ o.vlRows = 128 ∧ o.vlCols = 128 ∧ (∀ g, (tget o.groups {} g).opened = false) ∧
        o.scal = be.scal ∧ o.pred = be.pred ∧ o.tiles = be.tiles ∧ o.imem = be.imem ∧ o.pc = be.pc ∧ o.lt = be.lt) ∧
      ((h.quiesce = true ∧ held) ∨ (h.enable = false ∧ ¬ still) ∨ berthRuns b s = true →
        exec (.ctrlBlockReset r false b) s = refused (Pg.berth b)) ∧
      (∀ v : Bool,
        (¬ (v = true ∧ held) → (h.enable = true ∨ still) → exec (.ctrlQuiesce r b v) s =
          .next (answerReq r 0 0 (setHdr (Pg.berth b) { h with quiesce := v } s))) ∧
        ((v = true ∧ held) ∨ (h.enable = false ∧ ¬ still) → exec (.ctrlQuiesce r b v) s = refused (Pg.berth b)) ∧
        (¬ (h.quiesce = true ∧ held) → (v = true ∨ still) → exec (.ctrlEnable r b v) s =
          .next (answerReq r 0 0 (setHdr (Pg.berth b) { h with enable := v } s))) ∧
        ((h.quiesce = true ∧ held) ∨ (v = false ∧ ¬ still) → exec (.ctrlEnable r b v) s = refused (Pg.berth b)))) ∧
    (Reaches r (Pg.lighter b) s →
      ((hdr (Pg.lighter b) s).enable = true → (hdr (Pg.lighter b) s).quiesce = false → berthRuns b s = false →
        ∃ o, (∃ t, exec (.ctrlBlockReset r true b) s = .next (answerReq r 0 0 t) ∧ OnlyBerth b o { s with reqs := t.reqs } t) ∧
        (∀ n : Fin 4, o.lt[n].queue = [] ∧ o.lt[n].run = none ∧ o.lt[n].stopped = false ∧ o.lt[n].done = 0 ∧
          o.lt[n].digest = be.lt[n].digest ∧ o.lt[n].desc = be.lt[n].desc) ∧ o.tiles = be.tiles ∧ o.scal = be.scal) ∧
      (berthRuns b s = true → exec (.ctrlBlockReset r true b) s = refused (Pg.lighter b)))

/-- WS_READ that reaches the page puts the selected slot's entry into the data words; WS_LOAD, WS_READY and WS_CLEAR
queue the command with the data words for the next base tick. LOAD_GO of a slot not LOADING is refused with WS_BUSY,
without a staging partition on each pier die with CV_UNCLAIMED; else it starts the load caravan and the slot keeps
state, generation, owner and references, every other slot and berth unchanged. SW_GO for a tick ahead queues the
switch; for a tick that has passed it queues none and reports EVENT_LATE. RQ_GO starts a query; any write of it while
one is in progress counts an error. ACC_CLEAR asks for the selected client's clear. Apart from that a word with bit 0
clear changes nothing. Forwarded entries that follow on what was read, for a tick ahead, wait in order, their payload
charged; a domain not enabled or not serving takes none. (09_weight_sets_and_caravans.md;
11_lending_serving_and_accounting.md) -/
def Obligations.WeightAndServingRequests : Prop :=
  ∀ (s : State) (r : Req) (v : W32) (k : Nat) (w : WsSlot), k = slotKey (selSet s) (selSlot s) → w = wsSlot k s →
    (Reaches r Pg.caravan s →
      (∃ u : Weights, exec (.wsRead r) s = .next (answerReq r 0 0 { s with weights := u }) ∧
        u.data3 ++ u.data2 ++ u.data1 ++ u.data0 = slotWord w ∧
        { u with data0 := s.weights.data0, data1 := s.weights.data1, data2 := s.weights.data2, data3 := s.weights.data3 } =
          s.weights) ∧
      (∀ q ∈ [(Instr.wsLoad r, WsOp.load), (.wsReady r, .ready), (.wsClear r, .clear)],
        exec q.1 s = .next (answerReq r 0 0 { s with weights := { s.weights with cmds := s.weights.cmds ++
          [{ op := q.2, set := selSet s, slot := selSlot s, data := winData s }] } })) ∧
      (w.st ≠ .loading → ∀ x, exec (.loadGo r x) s = .next (answerReq r 0x6004 0 (refuse ⟨Pg.caravan, 0⟩ 0x6004 s))) ∧
      (w.st = .loading → partsOk (heldParts w.owner s) = false → ∀ x,
        exec (.loadGo r x) s = .next (answerReq r 0x6009 0 (refuse ⟨Pg.caravan, 0⟩ 0x6009 s))) ∧
      (w.st = .loading → partsOk (heldParts w.owner s) = true → ∃ t, exec (.loadGo r) s = .next (answerReq r 0 0 t) ∧
        (wsSlot k t).st = .loading ∧ (wsSlot k t).gen = w.gen ∧ (wsSlot k t).owner = w.owner ∧ (wsSlot k t).refs = w.refs ∧
        (wsSlot k t).loadLegs = s.weights.loadLegs ∧ (∀ j, j ≠ k → wsSlot j t = wsSlot j s) ∧ t.berths = s.berths) ∧
      (v.getLsbD 0 = false → exec (.swGo r v) s = .next (answerReq r 0 0 s)) ∧
      (v.getLsbD 0 = true → s.tick.num.toNat < s.weights.swTick.toNat →
        exec (.swGo r v) s = .next (answerReq r 0 0 { s with weights := { s.weights with switches := s.weights.switches ++
          [{ set := selSet s, slot := selSlot s, gen := s.weights.swGen, tick := s.weights.swTick.toNat
             mask := s.weights.swDomains }] } })) ∧
      (v.getLsbD 0 = true → s.weights.swTick.toNat ≤ s.tick.num.toNat → ∃ t, exec (.swGo r v) s = .next (answerReq r 0 0 t) ∧
        t.weights.switches = s.weights.switches ∧ (hdr Pg.caravan t).errStatus.getLsbD 1 = true)) ∧
    (Reaches r Pg.client s →
      (v.getLsbD 0 = true → s.query.busy = false →
        exec (.rqGo r v) s = .next (answerReq r 0 0 { s with query := { s.query with busy := true } })) ∧
      (s.query.busy = true → exec (.rqGo r v) s = .next (answerReq r 0 0 (setHdr Pg.client
        { hdr Pg.client s with errCount := satInc (hdr Pg.client s).errCount } s))) ∧
      (v.getLsbD 0 = false → s.query.busy = false → exec (.rqGo r v) s = .next (answerReq r 0 0 s))) ∧
    (Reaches r Pg.account s → exec (.accClear r v) s = .next (answerReq r 0 0 { s with acct := { s.acct with
      clear := s.acct.clear ++ (if v.getLsbD 0 then [s.acct.sel] else []) } })) ∧
    (∀ (d : DomIdx) (eff first : W64) (es : List (List Byte)) (x : Serve), x = serveOf d.toNat s →
      ((dom d.toNat s).en = false ∨ x.serve = false → exec (.manifestFwd d eff first es) s = .next s) ∧
      (Awake s → (dom d.toNat s).en = true → x.serve = true → s.tick.num.toNat < eff.toNat → first.toNat = x.nextRead →
        ∃ (ps : List PendEntry) (u : Acct), exec (.manifestFwd d eff first es) s = .next (setServe d.toNat { x with
            pend := x.pend ++ ps, nextRead := x.nextRead + es.length } { s with acct := u }) ∧ ps.length = es.length ∧
          ∀ i, i < es.length → ps[i]? = some { idx := w64 (first.toNat + i), eff := eff.toNat
                                               data := bytesAt (es.getD i []) 0 64 }))

/-- Out of reset: a stream tile of a run that may land here, of a leg that is accepted and neither done nor bad, in
the leg's format and of one tile's size, is kept for the leg, and the port it came on is noted for the leg's source;
while tiles are missing nothing lands (log 15), and with the last one and a matching digest the leg is done. A tile
whose run may not land here changes nothing. CV_LEGREQ for an accepted leg whose source this device is, readable by
the frame, sends its NTILES tiles and stores nothing; for another device's leg it changes nothing. CARAVAN_PREFETCH of
an enabled prefetching caravan, all of whose own legs are accepted and readable, sends them, none left for the opening
tick, and marks the next frame as sent ahead (all legs in one command, log 15); with PREFETCH off it changes nothing.
The frame of a leg waits for the acknowledgement of each of its messages. (09_weight_sets_and_caravans.md) -/
def Obligations.CaravanTiles : Prop :=
  ∀ (s : State) (f : FrameTag) (d : Nat) (c : Caravan), d = f.dom.toNat → c = caravan d s →
    (∀ (l : W16) (k : BitVec 8) (fmt : BitVec 4) (data : List Byte) (g : Leg) (x : LegIn),
      g = legAt c.list.toNat l.toNat s → x = legIn d f.f.toNat l.toNat s →
      ((tileLive f s = false ∨ c.en = false) → ∀ p, exec (.cvTile (.stream f) l k fmt data p) s = .next s) ∧
      (Awake s → tileLive f s = true → c.en = true → l.toNat < c.nlegs.toNat → x.done = false → x.bad = false →
        (landHead c.land.toNat l.toNat s).1 ≠ 0 → legOk d c.list.toNat c.land.toNat c.nlegs.toNat l.toNat s = true →
        k.toNat < g.ntiles → fmt.toNat = g.fmt → data.length = tileBytes g.fmt →
        ∀ p, ∀ y : LegIn, y = { x with got := x.got.filter (fun e => e.1 != k.toNat) ++ [(k.toNat, data)] } →
        (y.got.length ≠ g.ntiles → ∃ t v, exec (.cvTile (.stream f) l k fmt data p) s = .next t ∧
          Arrived (BitVec.ofNat 16 g.src) p.val s v ∧ legIn d f.f.toNat l.toNat t = y ∧
          (∀ e n m, (e, n, m) ≠ (d, f.f.toNat, l.toNat) → legIn e n m t = legIn e n m s) ∧
          { t with weights := s.weights, acct := s.acct } = v) ∧
        (y.got.length = g.ntiles → (crc64 (legTiles y g.ntiles).flatten).toNat = g.digest →
          ∃ t, exec (.cvTile (.stream f) l k fmt data p) s = .next t ∧ (legIn d f.f.toNat l.toNat t).done = true ∧
          t.domains = s.domains ∧ t.redctx = s.redctx))) ∧
    (∀ (src l : W16) (g : Leg), g = legAt c.list.toNat l.toNat s → Awake s → tileLive f s = true → c.en = true →
      l.toNat < c.nlegs.toNat →
      (g.src ≠ s.route.addr.toNat → exec (.cvLegreq src (.stream f) l) s = .next s) ∧
      (g.src = s.route.addr.toNat → legOk d c.list.toNat c.land.toNat c.nlegs.toNat l.toNat s = true → srcExists g.ext s = true → (prepRead (some d) g.ext s).1 = .ok →
        ∃ t, exec (.cvLegreq src (.stream f) l) s = .next t ∧ SendsOf g.ntiles 0x30 s t ∧
          t.frameOut.length = s.frameOut.length + g.ntiles ∧
          { t with outbox := s.outbox, acct := s.acct, frameOut := s.frameOut, frameIds := s.frameIds } = s)) ∧
    (∀ (e : DomIdx) (b : Caravan) (x : Domain), b = caravan e.toNat s → x = dom e.toNat s →
      ((b.en = false ∨ b.prefetch = false) → exec (.caravanPrefetch e) s = .next s) ∧
      (Awake s → b.en = true → b.prefetch = true → (x.st = .opened ∨ x.st = .done) → b.allSent = true → b.ahead ≠ some (x.num + 1) →
        x.offReq = false → (∀ m ∈ x.marks, m.f ≠ x.num + 1) →
        (∀ l ∈ ownLegs b.list.toNat b.nlegs.toNat s, 
          legOk e.toNat b.list.toNat b.land.toNat b.nlegs.toNat l s = true ∧ srcExists (legAt b.list.toNat l s).ext s = true ∧
          (prepRead (some e.toNat) (legAt b.list.toNat l s).ext s).1 = .ok) →
        ∃ t n, exec (.caravanPrefetch e) s = .next t ∧ SendsOf n 0x30 s t ∧
          caravan e.toNat t = { b with ahead := some (x.num + 1), aheadLeft := [] } ∧ (∀ j, j ≠ e.toNat → caravan j t = caravan j s) ∧
          { t with outbox := s.outbox, acct := s.acct, weights := s.weights, frameOut := s.frameOut, frameIds := s.frameIds } = s))

/-- Out of reset: REDUCTION_SEND of a checked reduction whose counts are all posted adds the device's own items; while
a child has items to come nothing is sent. A RED_ITEM with the domain's epoch, for an enabled context, for a node of
its tree, of the open run joins the items, its LAST counted; when the last child has finished on a device with a
parent, the run is sent once, and the frame waits for the acknowledgement of what was sent, so that a finished one is
unfinished again. A RED_RESULT tile not had before joins the tiles; with the last one the reduction is delivered, or
its statistics write has recalled the frame. A message of an older epoch counts as stale and changes nothing else but
the error record; one whose context is not enabled for its domain, and an item for a node outside the tree, reports
RED_ORPHAN. That an item shows its G by the tree its node lies in is the model's reading (log 19).
(10_grains_mapping_and_elastic_jobs.md; 13_voxle_addressing_routing_transactions.md) -/
def Obligations.ReductionMessages : Prop :=
  ∀ (s : State) (m : RedMsg) (c r d : Nat) (k : RedCtx) (x : RedRun) (h : RedHead), c = m.ctx.toNat → r = m.r.toNat →
    d = m.tag.dom.toNat → k = redCtx c s → x = redRun c r s → h = redHead k.tableObj.toNat r s →
    (Awake s → k.en = true → isOpen k.dom.toNat s = true → r < nred k.tableObj.toNat s → x.own = false → x.bad = false →
      x.checked = true → (∀ e ∈ redEntries k.tableObj.toNat h s, r < tget k.counts 0 e.berth) → x.lasts < ctxChildren c s →
      exec (.reductionSend m.ctx m.r) s =
        .next (setRedRun c { x with own := true, items := x.items ++ ownItems c r s } s)) ∧
    (k.en = false → exec (.reductionSend m.ctx m.r) s = .next s) ∧
    (Awake s → m.epoch.toNat < (member d s).epoch.toNat → ∃ t, exec (.redItem m) s = .next t ∧ exec (.redResult m) s = .next t ∧
      t.members.stale = satInc s.members.stale ∧
      { t with members := s.members, pages := s.pages, lastErr := s.lastErr } = s) ∧
    (Awake s → m.epoch = (member d s).epoch → (k.en = false ∨ k.dom.toNat ≠ d) →
      exec (.redItem m) s = .next (report (Blk.rc c) 0xA00D s) ∧ exec (.redResult m) s = .next (report (Blk.rc c) 0xA00D s)) ∧
    (Awake s → m.epoch = (member d s).epoch → k.en = true → k.dom.toNat = d →
      inTree k.g.toNat m.level.toNat (m.word16.toNat % 2 ^ 20) = false →
      exec (.redItem m) s = .next (report (Blk.rc c) 0xA00D s)) ∧
    (Awake s → m.epoch = (member d s).epoch → k.en = true → k.dom.toNat = d → m.tag.noFrame = false → tagLive m.tag s = true →
      inTree k.g.toNat m.level.toNat (m.word16.toNat % 2 ^ 20) = true →
      (x.sent = true → exec (.redItem m) s = .next s) ∧
      (x.sent = false → x.lasts + b2n m.last < ctxChildren c s → ∃ t, exec (.redItem m) s = .next t ∧
        redRun c r t = { x with
          lasts := x.lasts + b2n m.last
          items := x.items ++ [{ level := m.level.toNat, node := m.word16.toNat % 2 ^ 20, tile := m.tile.toNat, nf := m.nf
                                 qSum := m.qSum, qMin := m.qMin, qMax := m.qMax, data := m.data }] } ∧
        (∀ e, e ≠ c → redCtx e t = redCtx e s) ∧ { t with redctx := s.redctx, acct := s.acct } = s) ∧
      (x.sent = false → x.bad = false → x.own = true → ctxChildren c s ≤ x.lasts + b2n m.last → ctxParent c s ≠ 0xFFFF →
        ∃ t n, exec (.redItem m) s = .next t ∧ SendsOf n 0x40 s t ∧ (redRun c r t).sent = true ∧
        (redCtx c t).sent = k.sent + 1 ∧ t.frameOut.length = s.frameOut.length + n ∧
        (∀ e, dom e t = { dom e s with st := (dom e t).st }) ∧ (∀ e, e ≠ d → dom e t = dom e s) ∧
        { t with redctx := s.redctx, acct := s.acct, outbox := s.outbox, frameOut := s.frameOut, frameIds := s.frameIds, domains := s.domains } = s) ∧
      (x.delivered = false → x.bad = false → h.ncon ≠ 0 → m.tile.toNat < h.ntiles → m.tile.toNat ∉ x.tilesIn →
        ((x.tilesIn ++ [m.tile.toNat]).length ≠ h.ntiles → ∃ t, exec (.redResult m) s = .next t ∧
          (redRun c r t).tilesIn = x.tilesIn ++ [m.tile.toNat] ∧ (redRun c r t).delivered = false ∧
          t.berths = s.berths ∧ t.domains = s.domains ∧ t.outbox = s.outbox) ∧
        ((x.tilesIn ++ [m.tile.toNat]).length = h.ntiles → ∃ t, exec (.redResult m) s = .next t ∧
          ((redRun c r t).delivered = true ∨ (dom d t).st = .recalling))))

/-- MB_DRAIN that reaches the page, in state RUN with a drain frame not passed, arms the drain; MB_ACTIVATE, drained
or without a map and at least two ticks ahead, waits for its tick; both are refused with REMOOR_REFUSED otherwise. Out
of reset: DRAIN_COMPLETE of a draining domain without a reduction in flight, here or as flits of its epoch in a port,
makes it DRAINED, and changes nothing before. SM_GO with a count queues a move with the fields of the registers, one
that may not run as ended and failed; count 0 is refused. SHARD_DATA of the own epoch for an extent that may take it
and that no checkpoint retains stores its bytes there, every other byte kept, notes the port it came on, and leaves
every parity group of the extent STALE, with PQ_STALE to the nine other positions; with the last of an extent it is
answered along the path back, with status 0 exactly where the extent's CRC-64 is the one that came. SHARD_ACK of
status 0 for the last extent ends the request; one for a move that was abandoned ends its request alone, and counts as
EPOCH_STALE where its epoch is an older one. SHARD_MOVE_COMPLETE ends a move with nothing left and charges it. A read
of SM_RES takes the oldest result, or answers 0. (10_grains_mapping_and_elastic_jobs.md) -/
def Obligations.MembershipAndShards : Prop :=
  ∀ (s : State) (r : Req) (d : DomIdx) (x : Member), x = member d.toNat s →
    (Reaches r Pg.member s →
      (x.st = .run ∧ (dom d.toNat s).num.toNat ≤ x.drain.toNat →
        exec (.mbDrain r d) s = .next (answerReq r 0 0 (setMember d.toNat { x with st := .drainArmed } s))) ∧
      (¬ (x.st = .run ∧ (dom d.toNat s).num.toNat ≤ x.drain.toNat) →
        exec (.mbDrain r d) s = .next (answerReq r 0x7005 0 (refuse (Blk.mb d.toNat) 0x7005 s))) ∧
      ((x.st = .drained ∨ x.st = .none) ∧ s.tick.num.toNat + 2 ≤ x.act.toNat →
        exec (.mbActivate r d) s = .next (answerReq r 0 0 (setMember d.toNat { x with actPending := true } s))) ∧
      (¬ ((x.st = .drained ∨ x.st = .none) ∧ s.tick.num.toNat + 2 ≤ x.act.toNat) →
        exec (.mbActivate r d) s = .next (answerReq r 0x7005 0 (refuse (Blk.mb d.toNat) 0x7005 s))) ∧
      (∀ v : W32, (v.toNat % 4096 = 0 →
          exec (.smGo r v) s = .next (answerReq r 0x7009 0 (refuse ⟨Pg.member, 0⟩ 0x7009 s))) ∧
        (v.toNat % 4096 ≠ 0 → ∃ y : ShardMove, exec (.smGo r v) s = .next (answerReq r 0 0 { s with members :=
            { s.members with moves := s.members.moves ++ [y] } }) ∧
          y.tag.toNat = v.toNat / 65536 ∧ y.dom.toNat = v.toNat / 4096 % 16 ∧ y.count = v.toNat % 4096 ∧
          y.src = s.members.src.toNat ∧ y.dst = s.members.dst.toNat ∧ y.dev = s.members.dev ∧
          y.ended = !shardOk y s ∧ y.failed = (if shardOk y s then none else some 0x7009))) ∧
      (∀ t c rest, s.members.results = (t, c) :: rest → exec (.smResRead r) s =
        .next (answerReq r 0 (t ++ c) { s with members := { s.members with results := rest } })) ∧
      (s.members.results = [] → exec (.smResRead r) s = .next (answerReq r 0 0 s))) ∧
    (Awake s → exec (.drainComplete d) s = .next (if x.st = .draining ∧ redInFlight d.toNat s = false ∧
      redInPorts d.toNat s = false then setMember d.toNat { x with st := .drained } s else s)) ∧
    (∀ src tag (e : BitVec 21) (off : W32) digest data, Awake s → shardTarget d.toNat e.toNat s = true →
      retained (ext e.toNat s).phys.toNat s = false → off.toNat + data.length ≤ 2 ^ 20 → ∀ back port, ∃ u v,
        exec (.shardData src tag d x.epoch e off false digest data back port) s = .next u ∧ Arrived src port.val s v ∧
        StoredBytes ((ext e.toNat s).phys.toNat * 2 ^ 20 + off.toNat) data s u ∧
        { u with mem := s.mem, survive := s.survive, outbox := s.outbox } = v ∧
        SendsOf (9 * (pgPlaces e.toNat { s with mem := u.mem }).length) 0x9A s u ∧
        (∀ q ∈ pgPlaces e.toNat { s with mem := u.mem }, pgroup q.1 q.2.1 u =
          { pgroup q.1 q.2.1 s with st := .stale, target := none, done := 0, bad := [] }) ∧
        (pgPlaces e.toNat { s with mem := u.mem } = [] → u.survive = s.survive) ∧
        ∃ t l m, exec (.shardData src tag d x.epoch e off true digest data back port) s = .next t ∧
          (∀ k, t.mem.byteAt k = u.mem.byteAt k) ∧ t.outbox = s.outbox ++ l ++ [.msg m] ∧ m.kind = 0x15 ∧ m.dst = src ∧
          m.tag = tag ∧ m.path = back.map pathBack ∧ m.epoch = x.epoch ∧
          (m.body.take 2 = [0, 0] ↔ crc64 ((List.range (2 ^ 20)).map
            (fun i => u.mem.byteAt ((ext e.toNat s).phys.toNat * 2 ^ 20 + i))) = digest)) ∧
    (∀ src tag (e : BitVec 21) (o : OutReq) (m : ShardMove), Awake s → shardOf tag src s = some (o, m) → m.dst + m.done = e.toNat →
      m.count ≤ m.done + 1 → m.failed = none → ∃ t, exec (.shardAck src tag (member m.dom.toNat s).epoch 0 e) s = .next t ∧
        t.reqs = s.reqs.erase o ∧ { m with done := m.done + 1, retried := false } ∈ t.members.moves ∧
        t.outbox = s.outbox ∧ t.mem = s.mem ∧ t.berths = s.berths) ∧
    (∀ src tag (e : BitVec 21) (o : OutReq) (k : Nat) status, Awake s → shardOf tag src s = none →
      goneReq tag src s = some (o, k) → ∀ epoch : W32,
      (epoch = (member k s).epoch → exec (.shardAck src tag epoch status e) s = .next { s with reqs := s.reqs.erase o }) ∧
      (epoch.toNat < (member k s).epoch.toNat → ∃ t, exec (.shardAck src tag epoch status e) s = .next t ∧
        lastErr (Blk.mb k) t = 0x7002 ∧ t.members = { s.members with stale := satInc s.members.stale } ∧
        { t with members := s.members, reqs := s.reqs, pages := s.pages, lastErr := s.lastErr } = s ∧
        t.reqs = s.reqs.erase o)) ∧
    (∀ tag, (∀ m, Awake s → s.members.moves.find? (fun y => y.tag == tag && y.started && !y.ended &&
        (y.count ≤ y.done || y.failed.isSome)) = some m → ∃ u : Acct, exec (.shardMoveComplete tag) s = .next { s with acct := u, members :=
          { s.members with moves := s.members.moves.map (fun z => if z = m then { m with ended := true } else z) } }) ∧
      ((∀ y ∈ s.members.moves, y.tag = tag → y.started = true → y.ended = false → y.done < y.count ∧ y.failed = none) →
        exec (.shardMoveComplete tag) s = .next s))

/-- Out of reset, on an ACTIVE port with nothing waiting to be sent, a flit being its 128 bytes, which pass where both
CRCs match: a DATA flit in order with a credit enters the receive buffer with the LEN bytes of its payload, advances
the sequence and is acknowledged; one without a credit starts a fast retrain with LINK_PROTOCOL; one out of order is
answered with one NAK. A flit that fails (in ACTIVE, PARAM or RETRAIN) counts an error and gets one NAK. A CTRL flit
gives its acknowledgement and credits, a KEEPALIVE marks the window and stores the delay besides, an IDLE flit changes
nothing; reserved fields or a reserved TYPE start a fast retrain with LINK_PROTOCOL, the fields of a flit of types 1
to 3 being taken all the same. A NAK, and the acknowledgement timer, resend every flit that is left unacknowledged;
the fourth send of one starts a fast retrain, the eighth takes the port DOWN with LINK_RETRY_EXHAUSTED. A codeword
beyond correction fails five flits, and a corrected one counts by wavelength. KEEPALIVE_SEND sends one; the NAK timer
repeats a NAK once; a window without a KEEPALIVE counts a miss, and the fourth in a row takes the port DOWN with
LINK_LOST, as does a fast retrain that ends late; one that ends in time makes the port ACTIVE. In RETRAIN and PARAM a
passing flit gives its fields alone: no DATA is accepted, nothing is resent, a reserved value is reported. Ports in
other states take no flit, and timers act on an ACTIVE port alone. Flits and codewords in PARAM and RETRAIN, IDLE
fields and windows are readings of log 24. (12_voxle_optical_links.md) -/
def Obligations.LinkFlits : Prop :=
  ∀ (s : State) (p : PortIdx) (x : Port), x = port p s →
    (x.st ≠ .active → x.st ≠ .param → x.st ≠ .retrain → ∀ bs n, ∀ c ∈ [Instr.flitData p bs, .flitIdle p bs, .flitCtrl p bs,
      .flitKeepalive p bs n, .flitParam p bs], exec c s = .next s) ∧
    (Awake s → x.st = .retrain ∨ x.st = .param → x.waiting = [] → (∀ g ∈ x.unacked, g.frame = none) → ∀ bs f n,
      readFlit bs = some f → ∀ y : Port, y = (if 1 ≤ f.typ.toNat ∧ f.typ.toNat ≤ 3 then ackedPort f.ack x else x) →
      ∀ c ∈ [Instr.flitData p bs, .flitIdle p bs, .flitCtrl p bs, .flitKeepalive p bs n, .flitParam p bs],
      (f.ack.resv = 0 → f.ack.pool.toNat < 9 → f.typ.toNat < 4 ∨ (f.typ = 4 ∧ x.st = .retrain) →
        ∃ t, exec c s = .next t ∧ OnlyPort p y [] s t) ∧
      (f.ack.resv ≠ 0 ∨ 9 ≤ f.ack.pool.toNat ∨ 5 ≤ f.typ.toNat → ∃ t, exec c s = .next t ∧ port p t = y ∧
        lastErr ⟨Pg.port p, 0⟩ t = 0x900D ∧ t.outbox = s.outbox ∧ ∀ k, k ≠ p.val → port k t = port k s)) ∧
    (x.st ≠ .active → exec (.ackTimeout p) s = .next s ∧ exec (.nakRetryTimeout p) s = .next s ∧
      exec (.keepaliveSend p) s = .next s ∧ exec (.kaWindowEnd p) s = .next s) ∧
    (Awake s → x.st = .active ∨ x.st = .retrain ∨ x.st = .param → ∀ bs n, readFlit bs = none →
      ∀ c ∈ [Instr.flitData p bs, .flitIdle p bs, .flitCtrl p bs, .flitKeepalive p bs n, .flitParam p bs],
      ∃ t, exec c s = .next t ∧ OnlyPort p { x with flitErr := satAdd x.flitErr 1, nakSent := true }
        (if x.nakSent then [] else [.nak (x.rxNext - 1)]) s t) ∧
    (Awake s → x.st = .active → x.waiting = [] →
      (∀ bs f a, readFlit bs = some f → a = f.ack → (∀ g ∈ x.unacked, g.frame = none) → ∀ y : Port, y = ackedPort a x →
        (a.nak = false → (a.resv ≠ 0 ∨ 9 ≤ a.pool.toNat ∨ 5 ≤ f.typ.toNat) → ∀ n,
          ∀ c ∈ [Instr.flitData p bs, .flitIdle p bs, .flitCtrl p bs, .flitKeepalive p bs n, .flitParam p bs],
          ∃ t, exec c s = .next t ∧ lastErr ⟨Pg.port p, 0⟩ t = 0x900D ∧
            port p t = { (if 1 ≤ f.typ.toNat ∧ f.typ.toNat ≤ 3 then y else x) with
              st := .retrain, retrains := satInc x.retrains }) ∧
        (a.resv = 0 → a.pool.toNat < 9 → a.nak = false →
          (f.typ = 0 → exec (.flitIdle p bs) s = .next s) ∧
          (f.typ = 2 → ∃ t, exec (.flitCtrl p bs) s = .next t ∧ OnlyPort p y [] s t) ∧
          (f.typ = 3 → ∀ n, ∃ t, exec (.flitKeepalive p bs n) s = .next t ∧
            OnlyPort p { y with kaSeen := true, delayNs := n } [] s t) ∧
          (f.typ = 1 → f.seq ≠ x.rxNext → ∃ t, exec (.flitData p bs) s = .next t ∧
            OnlyPort p { y with nakSent := true } (if x.nakSent then [] else [.nak (x.rxNext - 1)]) s t) ∧
          (f.typ = 1 → f.seq = x.rxNext → (if f.shared then x.farShared else x.farCredits[f.cls.toNat]) = 0 →
            ∃ t, exec (.flitData p bs) s = .next t ∧ lastErr ⟨Pg.port p, 0⟩ t = 0x900D ∧
              port p t = { y with st := .retrain, retrains := satInc x.retrains }) ∧
          (f.typ = 1 → f.seq = x.rxNext → 0 < (if f.shared then x.farShared else x.farCredits[f.cls.toNat]) →
            ∃ t, exec (.flitData p bs) s = .next t ∧
            OnlyPort p { y with
              rxNext := x.rxNext + 1, nakSent := false, nakTwice := false
              rxBuf := x.rxBuf ++ [{ cls := f.cls, shared := f.shared, data := f.payload.take f.len.toNat }]
              farShared := if f.shared then x.farShared - 1 else x.farShared
              farCredits := if f.shared then x.farCredits else x.farCredits.set f.cls.toNat (x.farCredits[f.cls.toNat] - 1) }
              [.ack x.rxNext] s t)) ∧
        (a.resv = 0 → a.pool.toNat < 9 → a.nak = true → f.typ = 2 → ∃ t, exec (.flitCtrl p bs) s = .next t ∧
          (y.unacked = [] → OnlyPort p y [] s t) ∧
          ∀ g r, y.unacked = g :: r → ∀ z : Port, z = { y with
              replay := satInc x.replay, unacked := y.unacked.map (fun g => { g with sends := g.sends + 1 }) } →
            ((∀ g ∈ y.unacked, g.sends < 3) → OnlyPort p z [.resend g.seq] s t) ∧
            ((∃ g ∈ y.unacked, g.sends = 3) → (∀ g ∈ y.unacked, g.sends < 7) →
              port p t = { z with st := .retrain, retrains := satInc x.retrains }) ∧
            ((∃ g ∈ y.unacked, 7 ≤ g.sends) → (port p t).st = .down ∧ lastErr ⟨Pg.port p, 0⟩ t = 0x9004))) ∧
      exec (.keepaliveSend p) s = .next { s with outbox := s.outbox ++ [.link p .keepalive] } ∧
      (x.nakSent = true → x.nakTwice = false → ∃ t, exec (.nakRetryTimeout p) s = .next t ∧
        OnlyPort p { x with nakTwice := true } [.nak (x.rxNext - 1)] s t) ∧
      (x.unacked = [] → exec (.ackTimeout p) s = .next s) ∧
      (∀ f r, x.unacked = f :: r → ∃ t, exec (.ackTimeout p) s = .next t ∧ ∀ z : Port, z = { x with
          replay := satInc x.replay, unacked := x.unacked.map (fun g => { g with sends := g.sends + 1 }) } →
        ((∀ g ∈ x.unacked, g.sends < 3) → OnlyPort p z [.resend f.seq] s t) ∧
        ((∃ g ∈ x.unacked, g.sends = 3) → (∀ g ∈ x.unacked, g.sends < 7) →
          port p t = { z with st := .retrain, retrains := satInc x.retrains } ∧
          t.outbox = s.outbox ++ [.link p (.resend f.seq), .link p .retrain]) ∧
        ((∃ g ∈ x.unacked, 7 ≤ g.sends) → (port p t).st = .down ∧ (port p t).unacked = [] ∧
          lastErr ⟨Pg.port p, 0⟩ t = 0x9004)) ∧
      (x.kaSeen = true → ∃ t, exec (.kaWindowEnd p) s = .next t ∧ OnlyPort p { x with kaSeen := false, missRow := 0 } [] s t) ∧
      (x.kaSeen = false → x.missRow < 3 → ∃ t, exec (.kaWindowEnd p) s = .next t ∧
        OnlyPort p { x with kaMiss := satInc x.kaMiss, missRow := x.missRow + 1 } [] s t) ∧
      (x.kaSeen = false → 3 ≤ x.missRow → ∃ t, exec (.kaWindowEnd p) s = .next t ∧ (port p t).st = .down ∧
        (port p t).unacked = [] ∧ (port p t).waiting = [] ∧ lastErr ⟨Pg.port p, 0⟩ t = 0x9001)) ∧
    (Awake s → x.st = .retrain → x.waiting = [] → x.unacked = [] →
      (∃ t, exec (.fastRetrainEnd p) s = .next t ∧ port p t = { x with st := .active } ∧
        lastErr ⟨Pg.port p, 0⟩ t = 0x9003 ∧ t.outbox = s.outbox) ∧
      (∃ t, exec (.fastRetrainTimeout p) s = .next t ∧ (port p t).st = .down ∧ lastErr ⟨Pg.port p, 0⟩ t = 0x9001)) ∧
    (Awake s → x.st = .active ∨ x.st = .retrain ∨ x.st = .param → ∀ l : List Nat,
      (l ≠ [] → ∃ t, exec (.codewordReceive p true l none) s = .next t ∧
        OnlyPort p { x with fecCe := satInc x.fecCe, sym := l.foldl (fun t k => tset t 0 k (tget t 0 k + 1)) x.sym } [] s t) ∧
      ∃ t, exec (.codewordReceive p false l none) s = .next t ∧
        OnlyPort p { x with fecUe := satInc x.fecUe, flitErr := satAdd x.flitErr 5, nakSent := true }
          (if x.nakSent then [] else [.nak (x.rxNext - 1)]) s t)

/-- Out of reset: MODE TRAIN takes a port from OFF to LIGHT, a reserved mode is refused; the retrain timer takes a
DOWN port with MODE TRAIN to LIGHT. Laser light in range on four wavelengths leads to LOCK, on fewer DOWN with
LASER_LOW; eight locked wavelengths lead to ALIGN with the eight lowest active, four to seven at the lock timeout to
ALIGN degraded, fewer DOWN with LINK_TRAIN_FAIL, as TRAIN_TIMEOUT does; ALIGN_DONE stores the transmit map and the
wavelengths that the far receiver has failed, and sends PARAM with the port's own fields; a PARAM that fits the port
makes it ACTIVE with the peer's fields, one that does not takes it DOWN with LINK_ROLE_MISMATCH. A wavelength that
loses its clock fails and its swap is announced; a swap with a spare replaces what has failed and reports
LAMBDA_SPARED. The end of a symbol window shows its counts; low received power is stored. A wavelength is lost in
ACTIVE, RETRAIN and PARAM, and the swaps announced in PARAM last. A seam beat that fails is replayed, and counted at
its lane in the one record of the group that both ends of the facing pair share (log 24). That a training counts at
its start, that sequence numbers start at 0, the wait for the lock timeout (DEDUCED) and the laser operand (DESIGN
CHOICE) are log 24. (12_voxle_optical_links.md) -/
def Obligations.LinkTraining : Prop :=
  ∀ (s : State) (p : PortIdx) (x : Port), Awake s → x = port p s →
    (∀ (r : Req) (v : W32), Reaches r (Pg.port p) s → Unlocked r (Pg.port p) s →
      (2 ≤ v.toNat % 4 → exec (.ptCfgWrite r p v) s = .next (answerReq r 0x1009 0 (refuse ⟨Pg.port p, 0⟩ 0x1009 s))) ∧
      (v.toNat % 4 = 1 → x.st = .off → ∃ t, exec (.ptCfgWrite r p v) s = .next (answerReq r 0 0 t) ∧
        (port p t).st = .light ∧ (port p t).mode = 1 ∧ (port p t).spareThr.toNat = v.toNat / 16 % 16 ∧
        (port p t).trains = satInc x.trains ∧ ∀ q, q ≠ p.val → port q t = port q s)) ∧
    (x.st = .down → x.mode = 1 → ∃ t, exec (.portRetrainTimer p) s = .next t ∧ (port p t).st = .light ∧
      (port p t).trains = satInc x.trains ∧ (∀ q, q ≠ p.val → port q t = port q s) ∧ { t with ports := s.ports } = s) ∧
    (x.st = .light → ∀ dbm : List W16, ∀ n : Nat,
      n = ((List.range 9).filter (fun k => decide (150 ≤ (dbm.getD k 0).toInt ∧ (dbm.getD k 0).toInt ≤ 180))).length →
      ∃ t, exec (.laserMeasureDone p dbm) s = .next t ∧ (∀ k, k < 9 → tget (port p t).laser 0 k = dbm.getD k 0) ∧
        (4 ≤ n → (port p t).st = .lock ∧ { t with ports := s.ports } = s) ∧
        (n < 4 → (port p t).st = .down ∧ lastErr ⟨Pg.port p, 0⟩ t = 0x900A)) ∧
    (x.st = .lock → ∀ m : BitVec 9, 8 ≤ ones m → ∃ t, exec (.wavelengthsLocked p m) s = .next t ∧
      OnlyPort p { x with st := .align, rxAct := lowest 8 m, rxSpare := (lowest 8 m).getLsbD 8 } [] s t) ∧
    (x.st = .lock → ∀ m : BitVec 9, ∃ t, exec (.lambdaLockTimeout p m) s = .next t ∧
      (port p t).rxFailed = x.rxFailed ||| m ∧
      (ones (~~~m) < 4 → (port p t).st = .down ∧ lastErr ⟨Pg.port p, 0⟩ t = 0x9002) ∧
      (4 ≤ ones (~~~m) → ones (~~~m) < 8 → (port p t).st = .align ∧ (port p t).rxDeg = true ∧
        (port p t).rxAct = lowest 4 (~~~m) ∧ lastErr ⟨Pg.port p, 0⟩ t = 0x9008)) ∧
    (x.st = .align → ∀ m failed : BitVec 9, ∃ t, exec (.alignDone p m failed) s = .next t ∧
      OnlyPort p { x with st := .param, txAct := m, txFailed := failed, txDeg := decide (ones m = 4)
                          txSpare := decide (ones m = 8) && m.getLsbD 8 }
        [.param (bytesAt ([BitVec.ofNat 8 p.val, BitVec.ofNat 8 (s.board.qslot.toNat + 8 * b2n s.board.hostport)] ++
          leBytes 2 s.route.addr.toNat ++ leBytes 4 1 ++ leBytes 8 s.hm.idTag.toNat) 0 112)] s t) ∧
    (x.st = .param → ∀ bs f g, readFlit bs = some f → f.typ = 4 → f.ack.resv = 0 → f.ack.pool.toNat < 9 →
      g = paramFields f.payload → ∃ t, exec (.flitParam p bs) s = .next t ∧ (port p t).peerDev = g.dev ∧
      (port p t).peerPort = g.port ∧ (port p t).peerSlot = g.qslot ∧ (port p t).peerId = g.idTag ∧
      (roleOk p g.port s = true → (port p t).st = .active ∧ (port p t).rxNext = 0 ∧ (port p t).swaps = x.swaps ∧
        (x.waiting = [] → (port p t).txNext = 0)) ∧
      (roleOk p g.port s = false → (port p t).st = .down ∧ lastErr ⟨Pg.port p, 0⟩ t = 0x9013)) ∧
    (x.st = .light ∨ x.st = .lock ∨ x.st = .align ∨ x.st = .param → ∃ t, exec (.trainTimeout p) s = .next t ∧
      (port p t).st = .down ∧ lastErr ⟨Pg.port p, 0⟩ t = 0x9002) ∧
    (x.st = .active ∨ x.st = .retrain ∨ x.st = .param → ∀ k : Fin 9, x.rxFailed.getLsbD k = false → x.rxAct.getLsbD k = true → x.rxDeg = false →
      ∃ t, exec (.clockRecoveryLost p k) s = .next t ∧
      OnlyPort p { x with rxFailed := x.rxFailed ||| lamBit k, swaps := x.swaps ++ [⟨true, k⟩] } [.swap true k] s t) ∧
    (∀ m : BitVec 9, (∃ w ∈ x.swaps, w.rx = true) → x.rxAct &&& x.rxFailed ≠ 0 →
      spareMap x.rxAct x.rxFailed x.rxDeg = some (m, false) → ∃ t, exec (.lambdaSwapComplete p true) s = .next t ∧
      port p t = { x with swaps := x.swaps.filter (fun w => !w.rx), rxAct := m, rxDeg := false, rxSpare := true } ∧
      lastErr ⟨Pg.port p, 0⟩ t = 0x9007 ∧ { t with ports := s.ports, pages := s.pages, lastErr := s.lastErr } = s) ∧
    ((∀ k, k < 9 → x.rxAct.getLsbD k = true → tget x.sym 0 k ≤ 2 ^ (x.spareThr.toNat + 8)) →
      ∃ t, exec (.symbolWindowEnd p) s = .next t ∧ OnlyPort p { x with symLast := x.sym, sym := [] } [] s t) ∧
    (∀ (k : Fin 9) (dbm : W16), ∃ t, exec (.rxPowerLow p k dbm) s = .next t ∧ tget (port p t).rxPwr 0 k = dbm ∧
      (port p t).st = x.st ∧ { t with ports := s.ports, pages := s.pages, lastErr := s.lastErr } = s) ∧
    (∀ (c k : BitVec 2) (pr : BitVec 3) (inward : Bool) (g l : BitVec 5), k.toNat < 3 → ∀ (y : Seam) (u : SeamGroup) (way : Nat),
      y = seam c.toNat k.toNat s → way = 2 * pr.toNat + b2n inward → u = seamGroup c.toNat k.toNat way g.toNat s →
      tget u.fails 0 l.toNat < 16 → ∃ t, exec (.seamBeatFail c k pr g l false inward) s = .next t ∧
      (seam c.toNat k.toNat t).replay = satInc y.replay ∧ (seam c.toNat k.toNat t).degraded = y.degraded ∧
      (seam c.toNat k.toNat t).spared = y.spared ∧ (seamGroup c.toNat k.toNat way g.toNat t).lost = u.lost ∧
      tget (seamGroup c.toNat k.toNat way g.toNat t).fails 0 l.toNat = tget u.fails 0 l.toNat + 1 ∧
      (∀ w h, (w, h) ≠ (way, g.toNat) → h < 32 → w < 16 →
        seamGroup c.toNat k.toNat w h t = seamGroup c.toNat k.toNat w h s) ∧
      (∀ d, seamPeer c.toNat k.toNat = some d →
        seamGroup d k.toNat (2 * pr.toNat + b2n (!inward)) g.toNat t = seamGroup c.toNat k.toNat way g.toNat t) ∧
      (∀ d m, m < 3 → (d, m) ≠ (c.toNat, k.toNat) → (seam d m t).replay = (seam d m s).replay) ∧
      { t with seams := s.seams } = s)

/-- RT_ADDR takes an address in the device's slot with no domain enabled, and refuses another with ADDR_BAD or
CONFIG_REFUSED. RT_WIN_READ fetches the selected entry of the inactive bank; RT_WIN_WRITE stores the window's words
there, an entry that R315 refuses, or an index beyond the table, being refused with ROUTE_BAD; the active bank is
unchanged. A bad message is dropped with MSG_BAD; one for another device without a route is dropped with NO_ROUTE and
counted, with TTL used up with HOP_LIMIT; with a usable port it leaves there alone. A request of the host takes the
lowest free bridge tag (log 8) and is counted; with 1,024 outstanding a bad message of the host is dropped and its
credits wait. An EVENT goes to the host on P23, or is dropped with HB_LINK_DOWN. A DISC_IDENT request is answered on
the way it came, by the ports in RET where it came by a path. A response to a request of the host frees its bridge
tag; an outstanding tag of the bridge that times out reports XPORT_TIMEOUT and is free without an answer, one nobody
waits for changes nothing. ROUTE_BAD for an index beyond the table and for NCHILD above 24, DATA1 ignored for a table
of one word, the PORT byte of a discovery answer, the credits that wait and the bridge timeout are the model's
readings (log 25); that the answer's bytes are the house's is log 23. (13_voxle_addressing_routing_transactions.md;
12_voxle_optical_links.md) -/
def Obligations.RoutingAndHost : Prop :=
  ∀ (s : State) (r : Req) (v : W32) (m : RawMsg),
    (Reaches r Pg.route s →
      (v.toNat % 65536 = 0xFFFF ∨ v.toNat % 8 ≠ s.board.qslot.toNat →
        exec (.rtAddrWrite r v) s = .next (answerReq r 0xA008 0 (refuse ⟨Pg.route, 0⟩ 0xA008 s))) ∧
      (v.toNat % 65536 ≠ 0xFFFF → v.toNat % 8 = s.board.qslot.toNat →
        ((∃ d, d < 16 ∧ (dom d s).en = true) →
          exec (.rtAddrWrite r v) s = .next (answerReq r 0x1009 0 (refuse ⟨Pg.route, 0⟩ 0x1009 s))) ∧
        ((∀ d, d < 16 → (dom d s).en = false) → ∃ t, exec (.rtAddrWrite r v) s = .next (answerReq r 0 0 t) ∧
          t.route.addr.toNat = v.toNat % 65536 ∧
          { t with route := { t.route with addr := s.route.addr }, startUp := s.startUp } = s)) ∧
      (∀ n i, n = s.route.winSel.toNat / 2 ^ 29 → i = s.route.winSel.toNat % 65536 →
        (i < tableSize n → exec (.rtWinRead r) s = .next (answerReq r 0 0 { s with route := { s.route with
          win0 := ((inactiveBank s).entry n i).1, win1 := ((inactiveBank s).entry n i).2 } })) ∧
        (tableSize n ≤ i ∨ entryBad n s.route.win0 s.route.win1 s = true →
          exec (.rtWinWrite r) s = .next (answerReq r 0xA005 0 (refuse ⟨Pg.route, 0⟩ 0xA005 s))) ∧
        (i < tableSize n → entryBad n s.route.win0 s.route.win1 s = false → ∃ t,
          exec (.rtWinWrite r) s = .next (answerReq r 0 0 t) ∧ activeBank t = activeBank s ∧
          (inactiveBank t).entry n i = (s.route.win0, if n = 3 ∨ n = 4 then s.route.win1 else 0) ∧
          (∀ n' i', n' < 5 → (n', i') ≠ (n, i) → (inactiveBank t).entry n' i' = (inactiveBank s).entry n' i')))) ∧
    (∀ q : RawMsg, Awake s → q = { m with src := s.route.addr, ttl := s.route.ttl } →
      (msgBad q = true → exec (.messageForward none m) s = .next (report ⟨Pg.route, 0⟩ 0xA009 s)) ∧
      (msgBad q = false → q.path = none → q.mc = false → q.dst ≠ s.route.addr →
        (∀ k, (routePorts q.dst k s).all (fun p => !usable p s) = true) → ∃ t,
        exec (.messageForward none m) s = .next t ∧ t.route.drop = satInc s.route.drop ∧ t.outbox = s.outbox ∧
        t.ports = s.ports ∧ lastErr ⟨Pg.route, 0⟩ t = 0xA001)) ∧
    (∀ p : PortIdx, Awake s → isHostPort p s = false → (port p s).st = .active → (port p s).rxBuf = [] → msgBad m = false →
      m.path = none → m.mc = false → m.dst ≠ s.route.addr →
      (m.ttl = 0 → ∃ t, exec (.messageForward (some p) m) s = .next t ∧ lastErr ⟨Pg.route, 0⟩ t = 0xA002 ∧
        t.route.drop = satInc s.route.drop ∧ t.outbox = s.outbox) ∧
      (∀ q : PortIdx, m.ttl ≠ 0 → (routePorts m.dst (p.val % 2 == 1) s).find? (fun k => usable k s) = some q.val → ∃ t,
        exec (.messageForward (some p) m) s = .next t ∧ t.outbox = s.outbox ++ [.port q { m with ttl := m.ttl - 1 }] ∧
        t.berths = s.berths ∧ t.mem = s.mem ∧ t.route = s.route)) ∧
    (hostUp s = false → exec (.hostMessage m) s = .next s) ∧
    (Awake s → hostUp s = true → msgBad m = false → isRequest m = true → ∀ t, bridgeTag s = some t → ∃ u,
      exec (.hostMessage m) s = .next u ∧ u.hostbr.req = satInc s.hostbr.req ∧
      u.hostbr.tags = s.hostbr.tags ++ [(t, m.tag)]) ∧
    (Awake s → hostUp s = true → 1024 ≤ s.hostbr.tags.length → msgBad m = true → ∃ t, exec (.hostMessage m) s = .next t ∧
      lastErr ⟨Pg.route, 0⟩ t = 0xA009 ∧ t.ports = s.ports ∧ t.outbox = s.outbox ∧ (∃ c, t.hostbr.owed = s.hostbr.owed ++ [c]) ∧
      t.hostbr.tags = s.hostbr.tags) ∧
    (Awake s → m.kind = 0x60 → (leAt m.body 0 1 = 1 ∨ leAt m.body 0 1 = 2) →
      (hostUp s = false → ∃ t, exec (.event m) s = .next t ∧ t.hostbr.drop = satInc s.hostbr.drop ∧
        lastErr ⟨Pg.hostbr, 0⟩ t = 0xA00E ∧ t.outbox = s.outbox) ∧
      (hostUp s = true → ∃ t, exec (.event m) s = .next t ∧ t.hostbr.evt = satInc s.hostbr.evt ∧
        t.outbox = s.outbox ++ [.port 23 m])) ∧
    (∀ p : PortIdx, Awake s → m.body = [] → (m.path = none ∨ ∃ b, m.path = some b ∧ m.h = true ∧ b.hop = b.nhops ∧ b.nhops ≤ 16) → ∃ o : OutMsg, exec (.discIdent (some p) m) s =
        .next { s with outbox := s.outbox ++ [.msg o], acct := (charge none 0xFF 0 0 136 0 s).acct } ∧ o.kind = 0x70 ∧ o.dst = m.src ∧ o.tag = m.tag ∧ o.h = true ∧
      o.path = (backPorts (some p) m).map pathBack ∧
      o.body.length = 136 ∧ o.body.take 1 = [BitVec.ofNat 8 p.val] ∧
      o.body.drop 112 = (List.range 24).map (fun i => BitVec.ofNat 8 (port i s).st.code)) ∧
    (∀ (src : W16) (tag : BitVec 14) (status : W16) (data : W32),
      (s.hostbr.tags.find? (fun t => t.1 == tag) = none → exec (.regResp src tag status data) s = .next s ∧
        ((∀ q ∈ s.reqs, q.tag ≠ tag) → findCapture tag s = none → exec (.xportTimeout tag) s = .next s)) ∧
      (∀ h, Awake s → s.hostbr.tags.find? (fun t => t.1 == tag) = some h →
        (∃ t, exec (.regResp src tag status data) s = .next t ∧ t.hostbr.tags = s.hostbr.tags.erase h ∧ t.mem = s.mem ∧
          t.berths = s.berths) ∧
        (s.hostbr.owed = [] → (∀ q ∈ s.reqs, q.tag ≠ tag) → findCapture tag s = none → ∃ t, exec (.xportTimeout tag) s = .next t ∧ lastErr ⟨Pg.route, 0⟩ t = 0xA003 ∧
          (∀ q ∈ t.hostbr.tags, q.1 ≠ tag) ∧ { t with hostbr := s.hostbr, pages := s.pages, lastErr := s.lastErr } = s)))

/-- A REG_RD or REG_WR that is not from the host answers REG_DENIED and records nothing; an address outside the pages
answers REG_NO_PAGE; an offset that is not a multiple of 4 answers REG_ALIGN, recorded for a write. A REG_RD of a
header register of a page answers its value and changes nothing else. A write by a client of a page that another
client owns is refused with CLAIM_DENIED. A permitted REG_WR (of the host or the harbourmaster, to an aligned offset
of a page that is the house's or the writer's, its lock not in the way) completes: ERR_STATUS and EVENT_STATUS lose
the bits written as 1, ERR_MASK and EVENT_ENABLE take the value, plain registers take their field and nothing else
changes but the answer; a register that has a command of its own is written as that command writes it. A read of a low
half answers the value last written to it, a held one too, and latches the high half, a write of a low half is held,
and a write of the high half puts both in force, shown on SV_ARG. A write of 0 to ERR_COUNT, or to a counter of an LPX
page, clears it; any other value leaves the page's header as it is and records no error. That REG_DENIED is recorded
nowhere is the model's (log 34); that a held half reads back, and a write of HI without a held LO, are log 35.
(17_register_pages.md; 00_scope.md) -/
def Obligations.RegisterAccess : Prop :=
  ∀ (s : State) (r : Req) (v : W32), s.startUp.phase ≠ .reset →
    (∀ (h hm : Bool) (src : W16) (tag : BitVec 14) (back : Option (List (BitVec 5))) (a : BitVec 48) (q : Req),
      q = { client := if hm || !a.getLsbD 32 then 0xFF else BitVec.ofNat 8 (a.toNat / 2 ^ 24), hm := hm, src := src
            tag := tag, back := back } →
      (h = false → hm = false → exec (.regRd h hm src tag back a) s = .next (answerReq q 0xA004 0 s) ∧
        exec (.regWr h hm src tag back a v) s = .next (answerReq q 0xA004 0 s)) ∧
      (h = true ∨ hm = true →
        (noPage a = true → exec (.regRd h hm src tag back a) s = .next (answerReq q 0xE106 0 s) ∧
          exec (.regWr h hm src tag back a v) s = .next (answerReq q 0xE106 0 s)) ∧
        (noPage a = false → a.toNat % 4 ≠ 0 → exec (.regRd h hm src tag back a) s = .next (answerReq q 0xE107 0 s) ∧
          exec (.regWr h hm src tag back a v) s =
            .next (answerReq q 0xE107 0 (refuse ⟨a.toNat / 4096 % 4096, 0⟩ 0xE107 s))) ∧
        (noPage a = false → a.toNat % 4 = 0 → a.toNat % 4096 < 0x40 → exec (.regRd h hm src tag back a) s =
          .next (answerReq q 0 (getHdr (a.toNat / 4096 % 4096) (a.toNat % 4096) s) s)) ∧
        (noPage a = false → a.toNat % 4 = 0 → a.toNat % 4096 = 0x1C →
          ownerClient (a.toNat / 4096 % 4096) s ≠ 0xFF → ownerClient (a.toNat / 4096 % 4096) s ≠ q.client →
          exec (.regWr h hm src tag back a v) s =
            .next (answerReq q 0xE101 0 (refuse ⟨a.toNat / 4096 % 4096, 0⟩ 0xE101 s)))) ∧
      (h = true ∨ hm = true → noPage a = false → a.toNat % 4 = 0 → ∀ p o, p = a.toNat / 4096 % 4096 → o = a.toNat % 4096 →
        ownerClient p s = 0xFF ∨ ownerClient p s = q.client →
        (∀ e ∈ [(0x010, { hdr p s with errStatus := (hdr p s).errStatus &&& ~~~(v.setWidth 3)
                                       errFirst := if v.getLsbD 0 then 0 else (hdr p s).errFirst }),
                (0x014, { hdr p s with errMask := v.setWidth 2 }),
                (0x01C, { hdr p s with errCount := if v = 0 then 0 else (hdr p s).errCount }),
                (0x020, { hdr p s with eventStatus := (hdr p s).eventStatus &&& ~~~v }),
                (0x024, { hdr p s with eventEnable := v &&& eventBits p })],
          o = e.1 → exec (.regWr h hm src tag back a v) s = .next (answerReq q 0 0 (setHdr p e.2 s))) ∧
        (∀ e ∈ [(0x250, 0x058, { s with route := { s.route with win0 := v } }),
                (0x250, 0x05C, { s with route := { s.route with win1 := v } }),
                (0x250, 0x04C, { s with route := { s.route with drop := if v = 0 then 0 else s.route.drop } }),
                (0x251, 0x040, { s with members := { s.members with src := v.setWidth 21 } }),
                (0x251, 0x044, { s with members := { s.members with dst := v.setWidth 21 } }),
                (0x251, 0x048, { s with members := { s.members with dev := v.setWidth 16 } }),
                (0x255, 0x040, { s with weights := { s.weights with sel := v &&& 0x7F } }),
                (0x255, 0x050, { s with weights := { s.weights with data0 := v } }),
                (0x255, 0x054, { s with weights := { s.weights with data1 := v } }),
                (0x255, 0x058, { s with weights := { s.weights with data2 := v } }),
                (0x255, 0x05C, { s with weights := { s.weights with data3 := v } }),
                (0x255, 0x060, { s with weights := { s.weights with loadCv := v } }),
                (0x255, 0x064, { s with weights := { s.weights with loadLegs := v.setWidth 16 } }),
                (0x255, 0x068, { s with weights := { s.weights with swDomains := v.setWidth 16 } }),
                (0x255, 0x06C, { s with weights := { s.weights with swGen := v } }),
                (0x256, 0x040, { s with mem := { s.mem with winSel := v &&& 0x801FFFFF } }),
                (0x256, 0x050, { s with mem := { s.mem with win0 := v } }),
                (0x256, 0x054, { s with mem := { s.mem with win1 := v } }),
                (0x256, 0x058, { s with mem := { s.mem with win2 := v } }),
                (0x256, 0x05C, { s with mem := { s.mem with win3 := v } }),
                (0x256, 0x060, { s with mem := { s.mem with moveSrc := v.setWidth 21 } }),
                (0x256, 0x064, { s with mem := { s.mem with moveDst := v.setWidth 21 } }),
                (0x256, 0x078, { s with mem := { s.mem with poolSel := v.setWidth 8 } }),
                (0x257, 0x044, { s with survive := { s.survive with pgSel := v &&& 0xFFFFF } }),
                (0x257, 0x058, { s with survive := { s.survive with wideSteps := v } }),
                (0x258, 0x064, { s with health := { s.health with cntSel := v.setWidth 8 } }),
                (0x25A, 0x07C, { s with irq := { s.irq with evtDev := v.setWidth 16 } }),
                (0x25A, 0x080, { s with irq := { s.irq with remind := v.setWidth 16 } }),
                (0x25B, 0x040, { s with acct := { s.acct with sel := v.setWidth 8 } }),
                (0x25C, 0x040, { s with query := { s.query with sel := v &&& 0x8000FFFF } })],
          p = e.1 → o = e.2.1 → exec (.regWr h hm src tag back a v) s = .next (answerReq q 0 0 e.2.2)) ∧
        (∀ d, d < 16 → p = 0x253 → o = 0x118 + 0x20 * d → exec (.regWr h hm src tag back a v) s =
          .next (answerReq q 0 0 (setDom d { dom d s with freshLimit := v.setWidth 16 } s))) ∧
        (∀ (t : State) (b : Bool), 0x040 ≤ o → (p = Pg.ledger → o ≠ 0x040) → b = rwlAt p o v s →
          (b = true → Unlocked q p s) → putBlock q p o v s = .ok t →
          exec (.regWr h hm src tag back a v) s = .next (answerReq q 0 0 t))) ∧
      (h = true ∨ hm = true → noPage a = false → a.toNat % 4 = 0 → ∀ p o, p = a.toNat / 4096 % 4096 → o = a.toNat % 4096 →
        (∀ e ∈ [(0x250, 0x040, Instr.rtAddrWrite q v), (0x251, 0x04C, .smGo q v), (0x252, 0x040, .tickCfgWrite q v),
                (0x252, 0x050, .tkRoleWrite q v), (0x255, 0x078, .swGo q v), (0x258, 0x040, .hlStateWrite q v),
                (0x258, 0x04C, .applyCap q v), (0x258, 0x070, .hlRecNext q v), (0x25B, 0x044, .accClear q v),
                (0x25C, 0x044, .rqGo q v), (0x210, 0x040, .lpxRateWrite q v)],
          p = e.1 → o = e.2.1 → exec (.regWr h hm src tag back a v) s = exec e.2.2 s) ∧
        (∀ k : PortIdx, p = 0x230 + k.val → o = 0x040 →
          exec (.regWr h hm src tag back a v) s = exec (.ptCfgWrite q k v) s) ∧
        (∀ d : DomIdx, p = 0x253 → o = 0x100 + 0x20 * d.toNat →
          exec (.regWr h hm src tag back a v) s = exec (.fdCfgWrite q d v) s) ∧
        (∀ n : BitVec 10, n.toNat < 0x300 → p = 0x259 → o = 0x100 + 4 * n.toNat →
          exec (.regWr h hm src tag back a v) s = exec (.irqSrcWrite q n v) s) ∧
        (∀ (b : BerthIdx) (n : BitVec 2), p = 0x100 + b.toNat → o = 0x110 + 0x40 * n.toNat →
          exec (.regWr h hm src tag back a v) s = exec (.ltGo q b n v) s) ∧
        (∀ n : BitVec 12, o = 0x02C → p = n.toNat → exec (.regWr h hm src tag back a v) s = exec (.lockWrite q n v) s))) ∧
    (∃ t, exec (.regLoRead r 0x257 0x050) s =
        .next (answerReq r 0 (tget s.loHeld (s.survive.arg.setWidth 32) (regKey 0x257 0x050)) t) ∧
      tget t.hiLatch 0 (regKey 0x257 0x050) = s.survive.arg.extractLsb' 32 32 ∧ { t with hiLatch := s.hiLatch } = s) ∧
    (∃ t, exec (.regLoWrite r 0x257 0x050 v) s = .next (answerReq r 0 0 t) ∧
      tget t.loHeld 0 (regKey 0x257 0x050) = v ∧ { t with loHeld := s.loHeld } = s) ∧
    (∃ t, exec (.regHiWrite r 0x257 0x054 v) s = .next (answerReq r 0 0 t) ∧
      t.survive.arg = v ++ tget s.loHeld (s.survive.arg.extractLsb' 0 32) (regKey 0x257 0x050) ∧
      { t with survive := { t.survive with arg := s.survive.arg }, hiLatch := s.hiLatch } = s) ∧
    (∀ p : BitVec 12, pageExists p.toNat = true → Reaches r p.toNat s → exec (.counterClearWrite r p 0x01C v) s =
      .next (answerReq r 0 0 (setHdr p.toNat { hdr p.toNat s with
        errCount := if v = 0 then 0 else (hdr p.toNat s).errCount } s))) ∧
    (∀ (m : MemIdx) (p : BitVec 12), p.toNat = Pg.lpx m.val → Reaches r p.toNat s →
      ∀ e ∈ [((0x048 : BitVec 12), { lpxDev m.val s with ce := if v = 0 then 0 else (lpxDev m.val s).ce }),
             (0x050, { lpxDev m.val s with link := if v = 0 then 0 else (lpxDev m.val s).link }),
             (0x058, { lpxDev m.val s with scrub := if v = 0 then 0 else (lpxDev m.val s).scrub })],
        exec (.counterClearWrite r p e.1 v) s = .next (answerReq r 0 0 (setLpx m.val e.2 s)))

/-- An AUD_REQ joins the queue of a HEALTHY auditor with room, else is answered AUD_SKIPPED. AUDIT_RECOMPUTE on an
idle berth whose digest matches answers the request, which leaves the queue, with group a7 of the berth open; a device
no longer HEALTHY answers AUD_SKIPPED (log 31); on a busy berth it changes nothing. AUD_RESP for a capture with the
sampled digest ends it as passed; a digest that both recomputes of the auditor share and the sample does not is kept
for AUDIT_S2; a response for no capture changes nothing. AUDIT_TIMEOUT of a capture that awaits S2 ends it
inconclusive. HEALTH_DECAY multiplies the score by 64,830 and divides it by 65,536. HL_STATE: writing the state in
force changes nothing (log 37), HEALTHY to SUPERVISED is made, RETIRED is left by no write. APPLY_CAP with a cap
pending and no frame open sets CAP, and clears DOUBLE_EN everywhere where NO_DOUBLE is pending. HL_REC_NEXT takes the
oldest record, or zeros and one counted error. (14_faults_health_and_audit.md) -/
def Obligations.AuditAndHealth : Prop :=
  ∀ (s : State) (h : Health), h = s.health →
    (∀ q : AudReq, Awake s → (h.st = .healthy → h.auditQ.length < 256 → ∃ t, exec (.audReq q) s = .next t ∧
        t.health = { h with auditQ := h.auditQ ++ [q] } ∧ { t with health := h, acct := s.acct } = s) ∧
      (h.st ≠ .healthy ∨ 256 ≤ h.auditQ.length → ∃ t, ∃ m : OutMsg, exec (.audReq q) s = .next t ∧
        t.outbox = s.outbox ++ [.msg m] ∧ m.kind = 0xA1 ∧ m.dst = q.src ∧ m.tag = q.tag ∧
        { t with outbox := s.outbox, acct := s.acct } = s)) ∧
    (h.auditQ = [] → ∀ b c, exec (.auditRecompute b c) s = .next s) ∧
    (∀ q rest b c, Awake s → h.auditQ = q :: rest →
      (h.st ≠ .healthy → ∃ t, ∃ m : OutMsg, exec (.auditRecompute b c) s = .next t ∧ t.health = { h with auditQ := rest } ∧
        t.outbox = s.outbox ++ [.msg m] ∧ m.kind = 0xA1 ∧ m.dst = q.src ∧ m.tag = q.tag ∧
        { t with health := h, outbox := s.outbox, acct := s.acct } = s) ∧
      (h.st = .healthy → berthIdle b s = false → exec (.auditRecompute b c) s = .next s) ∧
      (h.st = .healthy → berthIdle b s = true → (recompute q b s).1 = q.digest → ∃ t, ∃ m : OutMsg, exec (.auditRecompute b c) s = .next t ∧
        t.health.auditQ = rest ∧ t.outbox = s.outbox ++ [.msg m] ∧ m.kind = 0xA1 ∧ m.dst = q.src ∧ m.tag = q.tag ∧
        (group (berth b t) 7).opened = true ∧ (group (berth b t) 7).key = q.sk ∧
        t.mem = s.mem ∧ t.domains = s.domains ∧ ∀ e, e ≠ b → berth e t = berth e s)) ∧
    (∀ src tag status a1 a2, findCapture tag s = none → exec (.audResp src tag status a1 a2) s = .next s ∧
      exec (.auditTimeout tag) s = .next s ∧ ∀ b, exec (.auditS2 tag b) s = .next s) ∧
    (∀ tag k, Awake s → findCapture tag s = some k →
      (∀ a2, k.a1 = none → ∃ t, exec (.audResp k.auditor tag 0 k.q.digest a2) s = .next t ∧ findCapture tag t = none ∧
        t.mem = s.mem ∧ t.berths = s.berths ∧ t.outbox = s.outbox) ∧
      (∀ a1, k.a1 = none → a1 ≠ k.q.digest → ∃ t, exec (.audResp k.auditor tag 0 a1 (some a1)) s = .next t ∧
        (∃ k', findCapture tag t = some k' ∧ k'.a1 = some a1) ∧ (hdr Pg.health t).errStatus.getLsbD 1 = true ∧
        t.mem = s.mem ∧ t.berths = s.berths ∧ t.outbox = s.outbox) ∧
      (∀ a1, k.a1 = some a1 → ∃ t, exec (.auditTimeout tag) s = .next t ∧ findCapture tag t = none ∧
        lastErr ⟨Pg.health, 0⟩ t = 0xB004 ∧ t.mem = s.mem ∧ t.berths = s.berths) ∧
      (∀ a1, k.a1 = some a1 → berthIdle k.q.berth s = true → ∃ t, exec (.auditS2 tag k.q.berth) s = .next t ∧
        findCapture tag t = none ∧ t.mem = s.mem)) ∧
    (Awake s → ∃ t, exec .healthDecay s = .next t ∧ t.health.score.toNat = h.score.toNat * 64830 / 65536 ∧
      (∀ i, i < 0xC0 → tget t.health.cnt 0 i = tget h.cnt 0 i) ∧ t.health.st = h.st ∧ { t with health := s.health } = s) ∧
    (∀ (r : Req) (v : W32), Reaches r Pg.health s → v.getLsbD 15 = false →
      (v.toNat % 8 = h.st.code → exec (.hlStateWrite r v) s = .next (answerReq r 0 0 s)) ∧
      (h.st = .healthy → v.toNat % 8 = 1 → ∃ t, exec (.hlStateWrite r v) s = .next (answerReq r 0 0 t) ∧
        t.health.st = .supervised ∧ t.health.score = h.score) ∧
      (h.st = .retired → v.toNat % 8 < 3 →
        exec (.hlStateWrite r v) s = .next (answerReq r 0xB00A 0 (refuse ⟨Pg.health, 0⟩ 0xB00A s)))) ∧
    (∀ (r : Req) (v : W32), Reaches r Pg.health s →
      (v.getLsbD 0 = true → (∀ d, d < 16 → (dom d s).st ≠ .opened ∧ (dom d s).st ≠ .done ∧ (dom d s).st ≠ .recalling) →
        h.capPending = true → ∃ t, exec (.applyCap r v) s = .next (answerReq r 0 0 t) ∧ t.health.cap = true ∧
        t.health.capPending = false ∧ t.health.st = h.st ∧ t.mem = s.mem ∧ t.domains = s.domains ∧ t.dies.clockMhz ≤ 1350 ∧
        (h.pendNoDouble = true → ∀ b, (berth b t).doubleEn = false)) ∧
      (v.getLsbD 0 = false → exec (.applyCap r v) s = .next (answerReq r 0 0 s) ∧
        exec (.hlRecNext r v) s = .next (answerReq r 0 0 s)) ∧
      (∀ x rest, v.getLsbD 0 = true → h.ring = x :: rest → exec (.hlRecNext r v) s =
        .next (answerReq r 0 0 { s with health := { h with ring := rest, recData := x } })) ∧
      (v.getLsbD 0 = true → h.ring = [] → exec (.hlRecNext r v) s = .next (answerReq r 0 0 (setHdr Pg.health
        { hdr Pg.health s with errCount := satInc (hdr Pg.health s).errCount } { s with health := { h with recData := [] } }))))

/-- At the leader a LOSS_NOTE about a device that is neither its sender, nor lost, nor a suspect makes it a suspect
and sends one PROBE to it, and a further one leaves the earlier detection; the alternate keeps one that it does not
rule on (log 26), and once a timeout has made it act as leader the devices so named are lost, or suspects; at any
other device it changes nothing. PROBE is answered with the domain's epoch. PROBE_ACK and PROBE_TIMEOUT of a suspect
end the suspicion and leave a MEMBERSHIP of a higher epoch that was sent, with the device in LOST only after the
timeout; for no suspect they change nothing. A MEMBERSHIP of no higher epoch counts as stale; a later one for a tick
ahead is kept; its 40 bytes are charged to the domain's client (log 23). MEMBERSHIP_STAGE on a domain without a frame
or an abort under way stages it, with no change of the active routing bank. LEADER_TIMEOUT of a recalled domain
without a MEMBERSHIP holds it with its membership DRAINED. RESTART acts in FALLBACK, forgetting LOST, the checkpoints
and what was sent of them, and is refused with SV_CMD_REFUSED otherwise; CKPT_NOW is taken in every state. The
fallback's frame count, and what a leader counts as newest, are the model's (log 26). (15_recovery_without_spares.md) -/
def Obligations.RecoveryMessages : Prop :=
  ∀ (s : State) (d : DomIdx) (x : Survive), x = surv d.toNat s →
    (∀ src port suspect cause t,
      (isRuler d.toNat suspect s = false →
        (x.en = false ∨ x.rlAlt ≠ s.route.addr → exec (.lossNote src d port suspect cause t) s = .next s) ∧
        (Awake s → x.en = true → x.rlAlt = s.route.addr → exec (.lossNote src d port suspect cause t) s =
          .next (setSurv d.toNat { x with notes := x.notes ++ [⟨src, suspect, t⟩] } s))) ∧
      (Awake s → isRuler d.toNat suspect s = true → (∀ k ∈ x.notes, isRuler d.toNat k.suspect s = false) → suspect ≠ src →
        suspect ∉ (newestLost d.toNat s).1 →
        ((∀ y ∈ x.suspects, y.dev ≠ suspect) → ∃ u, exec (.lossNote src d port suspect cause t) s = .next u ∧
          (surv d.toNat u).suspects = x.suspects ++ [⟨suspect, t⟩] ∧ (x.rstate = .armed → (surv d.toNat u).rstate = .noted) ∧
          (∃ m : OutMsg, u.outbox = s.outbox ++ [.msg m] ∧ m.kind = 0x95 ∧ m.dst = suspect) ∧
          { u with survive := s.survive, outbox := s.outbox } = s) ∧
        (∀ y, x.suspects = [y] → y.dev = suspect → ∃ u, exec (.lossNote src d port suspect cause t) s = .next u ∧
          (surv d.toNat u).suspects = [⟨suspect, if y.tDet.toNat < t.toNat then y.tDet else t⟩] ∧
          { u with survive := s.survive } = s))) ∧
    (∀ src, Awake s → ∃ m : OutMsg, exec (.probe src d) s = .next { s with outbox := s.outbox ++ [.msg m] } ∧ m.kind = 0x96 ∧
      m.dst = src ∧ m.body = [d.setWidth 8, 0, 0, 0] ++ leBytes 4 (member d.toNat s).epoch.toNat) ∧
    (∀ dev e, ((∀ y ∈ x.suspects, y.dev ≠ dev) → exec (.probeAck dev d e) s = .next s ∧
        exec (.probeTimeout d dev) s = .next s) ∧
      (∀ y ∈ x.suspects, Awake s → y.dev = dev →
        (∃ t, exec (.probeAck dev d e) s = .next t ∧ (∀ z ∈ (surv d.toNat t).suspects, z.dev ≠ dev) ∧
          (∃ m, (surv d.toNat t).sent = some m ∧ m.epoch = w32 ((newestLost d.toNat s).2 + 1) ∧
            m.lost = (newestLost d.toNat s).1) ∧ t.mem = s.mem ∧ t.berths = s.berths ∧ t.domains = s.domains) ∧
        (dev ∉ (newestLost d.toNat s).1 → (newestLost d.toNat s).1.length < 8 → (∀ k ∈ x.notes, k.src ≠ k.suspect) →
          (x.notes = [] ∨ (newestLost d.toNat s).2 + 1 < 2 ^ 32) → ∃ t, exec (.probeTimeout d dev) s = .next t ∧
          (x.en = true → x.rlAlt = s.route.addr → dev = x.rl → ∀ k ∈ x.notes,
            k.suspect = dev ∨ k.suspect ∈ (newestLost d.toNat s).1 ∨ ∃ z ∈ (surv d.toNat t).suspects, z.dev = k.suspect) ∧ (∀ z ∈ (surv d.toNat t).suspects, z.dev ≠ dev) ∧
          (∃ m, (surv d.toNat t).sent = some m ∧ m.epoch = w32 ((newestLost d.toNat s).2 + 1) ∧ dev ∈ m.lost ∧
            m.rollback = true) ∧ t.mem = s.mem ∧ t.berths = s.berths ∧ t.domains = s.domains))) ∧
    (∀ (eff : W64) (m : MemberBody), Awake s → (dom d.toNat s).en = true → x.en = true →
      (m.epoch.toNat ≤ (member d.toNat s).epoch.toNat → ∃ t, exec (.membership d eff m) s = .next t ∧
        t.members.stale = satInc s.members.stale ∧
        { t with members := s.members, pages := s.pages, lastErr := s.lastErr, acct := s.acct } = s ∧
        t.acct = (charge (some d.toNat) (serveOf d.toNat s).client 0 0 0 40 s).acct) ∧
      ((member d.toNat s).epoch.toNat < m.epoch.toNat → s.tick.num.toNat < eff.toNat → x.received = none →
        (∀ y, x.staged = some y → y.2.epoch.toNat < m.epoch.toNat) → ∃ t, exec (.membership d eff m) s = .next t ∧ (surv d.toNat t).received = some (eff.toNat, m) ∧
        ((dom d.toNat s).st = .opened ∨ (dom d.toNat s).st = .done → (dom d.toNat t).st = .recalling) ∧
        (¬ ((dom d.toNat s).st = .opened ∨ (dom d.toNat s).st = .done) → { t with survive := s.survive, acct := s.acct } = s ∧
          t.acct = (charge (some d.toNat) (serveOf d.toNat s).client 0 0 0 40 s).acct))) ∧
    (x.received = none → exec (.membershipStage d) s = .next s) ∧
    (∀ (e : Nat) (m : MemberBody), Awake s → x.received = some (e, m) → (dom d.toNat s).st ≠ .opened →
      (dom d.toNat s).st ≠ .done → ((dom d.toNat s).st = .recalling → (dom d.toNat s).abortDone = true) →
      ∃ t, exec (.membershipStage d) s = .next t ∧
        surv d.toNat t = { x with received := none, staged := some (e, m), rstate := .staged } ∧
        activeBank t = activeBank s ∧ { t with survive := s.survive, route := s.route } = s) ∧
    (Awake s → x.en = true → (dom d.toNat s).st = .recalling → (dom d.toNat s).en = true → (dom d.toNat s).resumeAt = none →
      (dom d.toNat s).waitExt = [] → (dom d.toNat s).waitPos = [] → x.received = none → x.staged = none → ∃ t, exec (.leaderTimeout d) s = .next t ∧
        (dom d.toNat t).st = .held ∧ (dom d.toNat t).num = (dom d.toNat s).num + 1 ∧ (dom d.toNat t).replays = 0 ∧
        (surv d.toNat t).rstate = .fallback ∧ (member d.toNat t).st = .drained ∧ t.mem = s.mem) ∧
    (∀ r : Req, Reaches r Pg.survive s →
      (x.rstate ≠ .fallback → exec (.restart r d) s = .next (answerReq r 0xB10D 0 (refuse ⟨Pg.survive, 0⟩ 0xB10D s))) ∧
      (x.rstate = .fallback → ∃ t, exec (.restart r d) s = .next (answerReq r 0 0 t) ∧ (surv d.toNat t).rstate = .armed ∧
        (surv d.toNat t).lost = [] ∧ (surv d.toNat t).safe = none ∧ (surv d.toNat t).newer = none ∧
        (surv d.toNat t).adopted = [] ∧ (surv d.toNat t).lastSafe = none ∧ (surv d.toNat t).safeSent = none ∧
        (surv d.toNat t).done = [] ∧ t.domains = s.domains ∧ t.berths = s.berths) ∧
      exec (.ckptNow r d) s = .next (answerReq r 0 0 (setSurv d.toNat { x with ckptNow := true } s)))

/-- ENCODE on the holder of P of a listed group starts the encoding, or leaves the group STALE where a position is
lost, and is refused with SV_CMD_REFUSED elsewhere; it asks no SR_CFG.EN. PQ_GET of an object extent that can be read
sends it in 16 messages, of another one message with a code, storing nothing. A PQ_DATA piece before the last, of Q
for this device, stores its bytes in the extent at its place where no checkpoint retains its version; PQ_ACK that no
encoding awaits changes nothing, and of the last extent leaves the group PROTECTED. PQ_STALE makes a group held here
STALE and ends a rebuild from it. The pieces note the port that they came on. REBUILD_COMPLETE returns a REBUILDING
extent that nothing feeds any more to IDLE, and changes no other. A checkpoint piece before the last for a forming
ward copy stores its bytes in the copy alone. CKPT_ACK of status 0 takes the extent from those awaited. CKPT_DONE at a
leader that still waits for members is noted; CKPT_SAFE for a tick ahead is kept, as a domain without survival is not
concerned. Where a rebuilt position lies, the piece number in PQ_DATA's extent field and the newest safe step are the
model's (log 26). (15_recovery_without_spares.md; 08_memory_tiers_and_objects.md; 09_weight_sets_and_caravans.md) -/
def Obligations.ParityAndCheckpoints : Prop :=
  ∀ (s : State) (d : DomIdx) (x : Survive), x = surv d.toNat s →
    (∀ (r : Req) (n : BitVec 12), Reaches r Pg.survive s →
      let e := pgEntry d.toNat n.toNat s
      let g := pgroup d.toNat n.toNat s
      let ok := n.toNat < pgCount d.toNat s ∧ posDev e g 8 = s.route.addr.toNat
      let gone := (∃ k ∈ g.lost, ∃ v ∈ x.lost, v.toNat = posDev e g k) ∨
        ∃ k j, k < 10 ∧ j < e.next ∧ posDev e g k = s.route.addr.toNat ∧ (ext (posExt e g k + j) s).st = .poisoned
      (¬ ok → exec (.encode r d n) s = .next (answerReq r 0xB10D 0 (refuse ⟨Pg.survive, 0⟩ 0xB10D s))) ∧
      (ok → ∃ t, exec (.encode r d n) s = .next (answerReq r 0 0 t) ∧ ((gone → (pgroup d.toNat n.toNat t).st = .stale) ∧ (¬ gone → (pgroup d.toNat n.toNat t).st = .encoding)) ∧
        (∀ m, m ≠ n.toNat → pgroup d.toNat m t = pgroup d.toNat m s) ∧ t.berths = s.berths ∧ t.domains = s.domains)) ∧
    (∀ (src : W16) (tag : BitVec 14) (n : W16) (e : BitVec 21), Awake s →
      ((ext e.toNat s).kind = .object → (ext e.toNat s).st ≠ .poisoned → (ext e.toNat s).st ≠ .rebuilding →
        ∃ t, exec (.pqGet src tag d n e) s = .next t ∧ SendsOf 16 0x98 s t ∧
        { t with outbox := s.outbox, acct := s.acct, survive := { t.survive with groups := s.survive.groups } } = s) ∧
      ((ext e.toNat s).kind ≠ .object ∨ (ext e.toNat s).st = .poisoned ∨ (ext e.toNat s).st = .rebuilding →
        ∃ t, exec (.pqGet src tag d n e) s = .next t ∧ SendsOf 1 0x98 s t ∧ { t with outbox := s.outbox, acct := s.acct } = s)) ∧
    (∀ (n : W16) (e : BitVec 21) (pc : BitVec 4) (dg : W64) (data : List Byte) (g : PgEntry) (y : PGroup), g = pgEntry d.toNat n.toNat s →
      y = pgroup d.toNat n.toNat s → Awake s → s.survive.jobs = [] → n.toNat < pgCount d.toNat s →
      posDev g y 9 = s.route.addr.toNat → posExt g y 9 ≤ e.toNat → e.toNat < posExt g y 9 + g.next → posDev g y 8 < 65536 → pc ≠ 15 →
      retained (ext e.toNat s).phys.toNat s = false →
      ∀ port, ∃ t v, exec (.pqData (w16 (posDev g y 8)) 0 d n e pc dg data port) s = .next t ∧
        Arrived (w16 (posDev g y 8)) port.val s v ∧
        StoredBytes ((ext e.toNat s).phys.toNat * 2 ^ 20 + 65536 * pc.toNat) data s t ∧
        { t with mem := s.mem, acct := s.acct } = v) ∧
    (∀ src status e, s.survive.jobs = [] → exec (.pqAck src status e) s = .next s) ∧
    (∀ (j : PqJob) (e : BitVec 21) (g : PgEntry) (y : PGroup), y = pgroup j.dom j.group s → Awake s → s.survive.jobs = [j] → (pgroup j.dom j.group s).st = .encoding → g = pgEntry j.dom j.group s → j.what = .encode →
      j.ready = true → posDev g y 9 < 65536 → posExt g y 9 + j.j = e.toNat → g.next ≤ j.j + 1 →
      ∃ t, exec (.pqAck (w16 (posDev g y 9)) 0 e) s = .next t ∧ t.survive.jobs = [] ∧
        (pgroup j.dom j.group t).st = .whole ∧ { t with survive := s.survive } = s) ∧
    (∀ n : W16, (ownPositions d.toNat n.toNat s = [] ∨ pgCount d.toNat s ≤ n.toNat →
        exec (.pqStale d n) s = .next s) ∧
      (Awake s → ownPositions d.toNat n.toNat s ≠ [] → n.toNat < pgCount d.toNat s → exec (.pqStale d n) s =
        .next (setPgroup d.toNat n.toNat
          { pgroup d.toNat n.toNat s with st := .stale, target := none, done := 0, bad := [] } s))) ∧
    (∀ e : BitVec 21, ((ext e.toNat s).st ≠ .rebuilding → exec (.rebuildComplete e) s = .next s) ∧
      (Awake s → (ext e.toNat s).st = .rebuilding → s.survive.jobs = [] → s.reqs = [] → exec (.rebuildComplete e) s =
        .next (setExt e.toNat { ext e.toNat s with st := .idle } s))) ∧
    (∀ (src : W16) (e : BitVec 21) (off : W32) (step dg : W64) (data : List Byte) (w : Ward), Awake s → isWard e.toNat s = true →
      off.toNat + data.length ≤ 2 ^ 20 → s.survive.wards.find? (fun w => w.ext == e.toNat) = some w →
      ∀ port, ∃ t v, exec (.ckptData src d e off false step dg data port) s = .next t ∧ Arrived src port.val s v ∧
        StoredBytes (w.phys * 2 ^ 20 + off.toNat) data s t ∧ { w with step := step, dom := d.toNat } ∈ t.survive.wards ∧
        { t with mem := s.mem, survive := s.survive, acct := s.acct } = v) ∧
    (∀ (src : W16) (e : BitVec 21), (∀ i, i < 16 → (surv i s).unacked = []) → ∀ status,
      exec (.ckptAck src status e) s = .next s) ∧
    (∀ (src : W16) (e : BitVec 21) (y : Nat) (k : Ckpt), Awake s → x.unacked = [(y, e.toNat)] → buddyOf d.toNat y s = src →
      (∀ i, i < 16 → i ≠ d.toNat → (surv i s).unacked = []) → x.newer = some k → ∃ t, exec (.ckptAck src 0 e) s = .next t ∧
        (surv d.toNat t).unacked = [] ∧ SendsOf 2 0x92 s t ∧ { t with survive := s.survive, outbox := s.outbox } = s) ∧
    (∀ (src : W16) (step : W64), Awake s → x.en = true → x.rl = s.route.addr →
      (∃ e ∈ lossEntries d.toNat s, w16 e.dev ∉ x.lost ∧ (w16 e.dev, step) ∉ x.done ∧ w16 e.dev ≠ src) →
      ∃ t, exec (.ckptDone src d step) s = .next t ∧ (src, step) ∈ (surv d.toNat t).done ∧ { t with survive := s.survive } = s) ∧
    (∀ (epoch : W32) (step eff : W64), (x.en = false → exec (.ckptSafe d epoch step eff) s = .next s) ∧
      (Awake s → x.en = true → s.tick.num.toNat < eff.toNat → exec (.ckptSafe d epoch step eff) s =
        .next (setSurv d.toNat { x with safeAt := some (epoch, step, eff.toNat)
                                        lastSafe := if epoch = (member d.toNat s).epoch then some step else x.lastSafe } s)))

/-- A write of IRQ_SRC of a source that exists, with a TARGET of 0 to 2 that does not change while the source is not
INACTIVE, stores TARGET and PRIORITY and keeps the source's state; it is refused with CONFIG_REFUSED otherwise. A read
of IRQ_CLAIM of target 0 to 2 answers IRQ_TOP and makes that source ACTIVE, or answers 0xFFFF and changes nothing. A
write to IRQ_COMPLETE makes an ACTIVE source of the target COMPLETING; in every other case it adds 1 to IRQ_STRAY and
changes nothing else. A reminder that is due, which the tick has not judged yet, sends one INTERRUPT event to the
bridge device, whose 32 bytes are charged to the house, or counts it where there is none; one that is not due or has
been judged changes nothing: step 5 of a tick is taken once (log 27). (16_interrupt_controller.md) -/
def Obligations.InterruptSources : Prop :=
  ∀ (s : State) (r : Req) (v : W32),
    (∀ (n : BitVec 10) (e : IrqSrc), e = irqSrc n.toNat s → Reaches r Pg.irq0 s → n.toNat < 0x300 →
      (srcReal n.toNat = false → exec (.irqSrcWrite r n v) s = .next (answerReq r 0 0 s)) ∧
      (srcReal n.toNat = true →
        (v.toNat / 256 % 4 = 3 ∨ (v.toNat / 256 % 4 ≠ e.target.toNat ∧ e.st ≠ .inactive) →
          exec (.irqSrcWrite r n v) s = .next (answerReq r 0x1009 0 (refuse ⟨Pg.irq0, 0⟩ 0x1009 s))) ∧
        (v.toNat / 256 % 4 ≠ 3 → (v.toNat / 256 % 4 = e.target.toNat ∨ e.st = .inactive) → ∃ t,
          exec (.irqSrcWrite r n v) s = .next (answerReq r 0 0 t) ∧ (irqSrc n.toNat t).st = e.st ∧
          (irqSrc n.toNat t).asserted = e.asserted ∧ (irqSrc n.toNat t).target.toNat = v.toNat / 256 % 4 ∧
          (irqSrc n.toNat t).priority.toNat = v.toNat % 16 ∧
          (irqSrc n.toNat t).again = (e.again && !v.getLsbD 25) ∧ (∀ m, m ≠ n.toNat → irqSrc m t = irqSrc m s) ∧
          { t with irq := { t.irq with src := s.irq.src } } = s))) ∧
    (∀ t : Fin 3, s.startUp.phase ≠ .reset →
      (irqTop t s = none → exec (.irqClaim r (BitVec.ofNat 2 t)) s = .next (answerReq r 0 0xFFFF s)) ∧
      (∀ n, irqTop t s = some n → ∃ u, exec (.irqClaim r (BitVec.ofNat 2 t)) s =
          .next (answerReq r 0 (BitVec.ofNat 32 (n % 65536)) u) ∧
        irqSrc n u = { irqSrc n s with st := .active } ∧ (∀ m, m ≠ n → irqSrc m u = irqSrc m s) ∧
        { u with irq := { u.irq with src := s.irq.src } } = s)) ∧
    (∀ (t : Fin 3) (n : Nat), n = v.toNat % 65536 → Reaches r Pg.irq1 s →
      (srcReal n = true ∧ (irqSrc n s).st = .active ∧ (irqSrc n s).target.toNat = t.val → ∃ u,
        exec (.irqComplete r (BitVec.ofNat 2 t) v) s = .next (answerReq r 0 0 u) ∧
        irqSrc n u = { irqSrc n s with st := .completing } ∧ (∀ m, m ≠ n → irqSrc m u = irqSrc m s) ∧
        { u with irq := { u.irq with src := s.irq.src } } = s) ∧
      (¬ (srcReal n = true ∧ (irqSrc n s).st = .active ∧ (irqSrc n s).target.toNat = t.val) →
        exec (.irqComplete r (BitVec.ofNat 2 t) v) s =
          .next (answerReq r 0 0 { s with irq := { s.irq with stray := satInc s.irq.stray } }))) ∧
    ((remindDue s = false ∨ s.irq.judged = true) → exec .irqRemind s = .next s) ∧
    (Awake s → s.irq.judged = false → remindDue s = true → s.irq.evtDev ≠ 0xFFFF → ∃ m : OutMsg, exec .irqRemind s =
      .next { s with
        outbox := s.outbox ++ [.msg m], irq := { s.irq with judged := true, since := 0 },
        acct := (charge none 0xFF 0 0 32 0 s).acct } ∧ m.kind = 0x60 ∧ m.dst = s.irq.evtDev ∧
      m.body.take 2 = [2, m.body.getD 1 0]) ∧
    (Awake s → s.irq.judged = false → remindDue s = true → s.irq.evtDev = 0xFFFF → ∃ t, exec .irqRemind s = .next t ∧ t.irq.judged = true ∧
      t.irq.noevt = satInc s.irq.noevt ∧ t.outbox = s.outbox ∧ (∀ n, irqSrc n t = irqSrc n s))

/-- A ledger request with a reserved index, a function that is not 0 for anything but a pin, a reserved function, or
READY for a client, is refused with LG_BAD. A claim of an unowned resource gives it to the client with the function,
one owned by another client is refused with CLAIM_DENIED, one's own again succeeds with the same function only. A
release by the owner of a resource not in use leaves it unowned; of an unowned one is refused with LG_UNCLAIMED, of
another's with CLAIM_DENIED, of one in use with LG_IN_USE; a forced release of one in use is refused with LG_IN_USE, a
client's other than the house with CLAIM_DENIED, of an unowned one with LG_UNCLAIMED (log 34). LG_LAST shows code,
client and resource each time (log 27), and a refused request changes no resource. A write of LOCK by the house stores
a level of 0 to 2 within its rights, and a client's is refused with REG_LOCKED. A write of a peak register stores the
current temperature. (17_register_pages.md) -/
def Obligations.LedgerAndLocks : Prop :=
  ∀ (s : State) (r : Req),
    (∀ (n : BitVec 8) (f : BitVec 4) (e : LedgerEntry) (good : Bool) (no : W16 → State), s.startUp.phase ≠ .reset →
      e = ledgerEntry n.toNat s →
      good = (resReal n.toNat && (f == 0 || (decide (n.toNat < 16) && decide (f.toNat < 5) && (f != 4 || r.client == 0xFF)))) →
      (∀ c, no c = answerReq r c 0 (refuse ⟨Pg.ledger, 0⟩ c { s with ledger := { s.ledger with last := c ++ r.client ++ n } })) →
      (good = false → ∀ q ∈ [Instr.lgClaim r n f, .lgRelease r n f, .lgForceRelease r n f], exec q s = .next (no 0xE104)) ∧
      (good = true →
        (e.owner = none → ∃ t, exec (.lgClaim r n f) s = .next (answerReq r 0 0 t) ∧
          ledgerEntry n.toNat t = { owner := some r.client, func := f } ∧
          (∀ m, m ≠ n.toNat → ledgerEntry m t = ledgerEntry m s) ∧ t.ledger.last = (0 : W16) ++ r.client ++ n ∧
          { t with ledger := s.ledger } = s) ∧
        (∀ o, e.owner = some o → o ≠ r.client → exec (.lgClaim r n f) s = .next (no 0xE101)) ∧
        (e.owner = some r.client → e.func = f → ∃ t, exec (.lgClaim r n f) s = .next (answerReq r 0 0 t) ∧
          { t with ledger := { t.ledger with last := s.ledger.last } } = s) ∧
        (e.owner = some r.client → e.func ≠ f → exec (.lgClaim r n f) s = .next (no 0xE103)) ∧
        (e.owner = none → exec (.lgRelease r n f) s = .next (no 0xE102)) ∧
        (inUse n.toNat s = true → exec (.lgForceRelease r n f) s = .next (no 0xE103)) ∧
        (inUse n.toNat s = false → r.client ≠ 0xFF → exec (.lgForceRelease r n f) s = .next (no 0xE101)) ∧
        (inUse n.toNat s = false → r.client = 0xFF → e.owner = none → exec (.lgForceRelease r n f) s = .next (no 0xE102)) ∧
        (∀ o, e.owner = some o →
          (o ≠ r.client → exec (.lgRelease r n f) s = .next (no 0xE101)) ∧
          (o = r.client → inUse n.toNat s = true → exec (.lgRelease r n f) s = .next (no 0xE103)) ∧
          (∀ q, (q = Instr.lgRelease r n f ∧ o = r.client) ∨ (q = .lgForceRelease r n f ∧ r.client = 0xFF) →
            inUse n.toNat s = false → ∃ t, exec q s = .next (answerReq r 0 0 t) ∧ ledgerEntry n.toNat t = {} ∧
            (∀ m, m ≠ n.toNat → ledgerEntry m t = ledgerEntry m s) ∧ t.mem = s.mem ∧ t.domains = s.domains ∧
            t.ledger.last = (0 : W16) ++ r.client ++ n)))) ∧
    (∀ (p : BitVec 12) (v : W32), (pageExists p.toNat = false → s.startUp.phase ≠ .reset → exec (.lockWrite r p v) s = .next (answerReq r 0xE106 0 s) ∧
        exec (.cdTempPeakWrite r p v) s = .next (answerReq r 0xE106 0 s)) ∧
      (pageExists p.toNat = true → Reaches r p.toNat s →
        (r.hm = false → r.client ≠ 0xFF → exec (.lockWrite r p v) s =
          .next (answerReq r 0xE105 0 (refuse ⟨p.toNat, 0⟩ 0xE105 s))) ∧
        (r.hm = false → r.client = 0xFF → ((hdr p.toNat s).lock = 2 ∨ v.toNat % 4 = 2) → exec (.lockWrite r p v) s =
          .next (answerReq r 0xE105 0 (refuse ⟨p.toNat, 0⟩ 0xE105 s))) ∧
        (r.hm = false → r.client = 0xFF → (hdr p.toNat s).lock ≠ 2 → v.toNat % 4 < 2 → exec (.lockWrite r p v) s =
          .next (answerReq r 0 0 (setHdr p.toNat { hdr p.toNat s with lock := BitVec.ofNat 2 v.toNat } s))) ∧
        (r.hm = true → v.toNat % 4 < 3 → exec (.lockWrite r p v) s =
          .next (setHdr p.toNat { hdr p.toNat s with lock := BitVec.ofNat 2 v.toNat } s)) ∧
        (∀ i : Fin 6, p.toNat = 0x200 + i.val → exec (.cdTempPeakWrite r p v) s = .next (answerReq r 0 0
          { s with dies := { s.dies with peak := s.dies.peak.set i.val s.dies.temp[i.val] } }))))

/-- A fall of RESET_N or PWR_OK, a lost reference, THERMTRIP or a regulator fault outside reset takes the device into
reset with its cause (log 28), every domain, berth and port at its reset value, the queue and the flash kept where no
command writes it; in reset these, and every command outside the VAUX domain, change nothing (log 34). RESET_RELEASE
leaves reset for BOOT with the straps sampled and what the board programmed in the flash, unless VAUX is off, RESET_N
must fall first or THERMTRIP_N holds. Losing VAUX keeps the flash alone; VAUX valid is recorded; the SMBus address is
sampled once. PROCHOT_N low twice holds the clock at 1.2 GHz, PWRBRK_N low twice at 0.9 GHz. One interval of power
control keeps the power of the five rails together, shows the average over the last 1,000 that there are, moves the
clock by at most 25 MHz, down no further than 1.35 GHz where the average over 1 ms or 10 ms exceeds its limit, and
adds the energy; from 110 °C on the clock is at most 0.8 GHz, from 115 °C the device trips; rails are stored,
RAIL_WARN reported out of range. Every SMBus read answers once, with its checksum, a wrong checksum discards a write;
without VAUX or address none is answered (log 28). (19_package_balls_power_clocks.md; 20_electrical_and_thermal.md) -/
def Obligations.BoardAndSmbus : Prop :=
  ∀ s : State,
    (∀ q ∈ [(Instr.resetAssert .resetN, (0 : W16), false, false), (.resetAssert .pwrOk, 0xD001, false, false),
            (.refclkLost, 0xD002, true, false), (.thermtrip, 0xD003, false, true), (.regulatorFault, 0xD001, false, false)],
      s.startUp.phase ≠ .reset → s.board.needReset = false → s.board.thermtripLow = false → s.hm.busy = none → ∃ t,
        exec q.1 s = .next t ∧
        t.startUp = { phase := .reset, seen := 0 } ∧ t.board = { s.board with resetCause := q.2.1, needReset := q.2.2.1, thermtripLow := q.2.2.2 } ∧
        t.domains = [] ∧ t.berths = [] ∧ t.ports = [] ∧ t.hm = { flash := s.hm.flash } ∧ t.pending = s.pending ∧
        t.outbox = s.outbox ∧ t.dies.temp = s.dies.temp ∧ t.power = { energyVaux := s.power.energyVaux }) ∧
    (s.startUp.phase = .reset → exec .refclkLost s = .next s ∧ exec .thermtrip s = .next s ∧ exec .regulatorFault s = .next s) ∧
    (∀ k h (fl : List FlashPart) (bt : BootIn), (s.startUp.phase = .reset → s.board.vaux = true → s.board.needReset = false → s.board.thermtripLow = false →
        exec (.resetRelease k h fl bt) s = .next { s with
          startUp := { phase := .boot, seen := 1 }, board := { s.board with qslot := k, hostport := h, vin := true }
          hm := { fl.foldl (fun x p => programFlash x p.addr.toNat p.bytes.length p.bytes) s.hm with rom := bt } }) ∧
      (s.startUp.phase ≠ .reset ∨ s.board.vaux = false ∨ s.board.needReset = true ∨ s.board.thermtripLow = true →
        exec (.resetRelease k h fl bt) s = .next s)) ∧
    (s.hm.busy = none → ∃ t, exec .vauxLost s = .next t ∧ t.startUp.phase = .reset ∧ t.board.vaux = false ∧
      t.board.smbAddr = none ∧ t.hm = { flash := s.hm.flash } ∧ t.domains = [] ∧ t.berths = [] ∧ t.pending = s.pending ∧
      t.outbox = s.outbox) ∧
    exec .vauxValid s = .next { s with board := { s.board with vaux := true } } ∧
    (∀ a b : Fin 3, exec (.smbAddrSample a b) s = .next (if s.board.vaux = true ∧ s.board.smbAddr = none then
      { s with board := { s.board with smbAddr := some (BitVec.ofNat 7 (0x60 + 3 * a.val + b.val)) } } else s)) ∧
    (Awake s → s.board.vaux = true → s.power.throttle = false →
      (∃ t, exec (.prochotSample false) s = .next t ∧ t.board.prochotLow = false ∧ t.dies.clockMhz = s.dies.clockMhz) ∧
      (1 ≤ s.power.prochotLows → ∃ t, exec (.prochotSample true) s = .next t ∧ t.power.prochotHold = true ∧
        t.dies.clockMhz = min s.dies.clockMhz 1200 ∧ t.mem = s.mem ∧ t.domains = s.domains)) ∧
    (Awake s → s.board.vaux = true → (∃ t, exec (.pwrbrkSample false) s = .next t ∧ t.board.pwrbrkLow = false ∧
        t.dies.clockMhz = s.dies.clockMhz) ∧
      (1 ≤ s.power.pwrbrkLows → s.power.pwrbrk = false → ∃ t, exec (.pwrbrkSample true) s = .next t ∧ t.power.pwrbrk = true ∧
        t.dies.clockMhz = min s.dies.clockMhz 900 ∧ lastErr ⟨Pg.power, 0⟩ t = 0xD005 ∧ t.mem = s.mem ∧
        t.domains = s.domains)) ∧
    (∀ vi va vm vp vo uj w, w = vi + va + vm + vp + vo → ∀ l l1 l10 : List Nat, l = w :: s.power.inputs → l1 = l.take 1000 → l10 = l.take 10000 → Awake s →
      s.board.vaux = true → 800 ≤ s.dies.clockMhz → (∀ x, s.power.half = some x → x.1 = false) →
      ∃ t, exec (.powerControl vi va vm vp vo uj) s = .next t ∧ t.power.inputs = l10 ∧
      t.power.inputW.toNat = min (l1.sum / l1.length) 65535 ∧
      (s.power.half = none → s.power.pl2.toNat * l1.length < l1.sum ∨ s.power.pl1.toNat * l10.length < l10.sum →
        s.power.pwrbrk = false ∨ w ≤ 1300 → t.dies.clockMhz = min s.dies.clockMhz (max 1350 (s.dies.clockMhz - 25))) ∧
      t.dies.clockMhz ≤ s.dies.clockMhz + 25 ∧ s.dies.clockMhz ≤ t.dies.clockMhz + 25 ∧ 800 ≤ t.dies.clockMhz ∧
      t.power.energy = s.power.energy + BitVec.ofNat 64 uj ∧ t.power.energyVaux = s.power.energyVaux + uj ∧
      t.power.tickEnergy = s.power.tickEnergy + uj ∧ t.startUp.us = s.startUp.us + 1 ∧
      t.mem = s.mem ∧ t.domains = s.domains ∧ t.berths = s.berths) ∧
    (∀ ts : List Int, ts.length = 6 → Awake s → s.board.vaux = true → 1840 ≤ hottest (setTemps ts s) → ∃ t,
      exec (.thermalSensorRead ts) s = .next t ∧ t.startUp.phase = .reset ∧ t.board.resetCause = 0xD003 ∧
      t.board.thermtripLow = true) ∧
    (∀ ts : List Int, ts.length = 6 → Awake s → s.board.vaux = true → hottest (setTemps ts s) < 1840 →
      (∀ x, s.power.half = some x → x.1 = true) → ∃ t, exec (.thermalSensorRead ts) s = .next t ∧
      (∀ i : Fin 6, t.dies.temp[i] = BitVec.ofInt 16 (ts.getD i 0)) ∧ t.dies.clockMhz ≤ s.dies.clockMhz ∧
      (1760 ≤ hottest t → t.dies.clockMhz ≤ 800) ∧ (hottest t < 1760 → hottest t < throttleAt s → t.dies.clockMhz = s.dies.clockMhz) ∧
      t.mem = s.mem ∧ t.domains = s.domains) ∧
    (∀ rs : List RailIn, rs.length = 5 → Awake s → s.board.vaux = true → ∃ t, exec (.railCheck rs) s = .next t ∧
      (∀ x, rs[0]? = some x → t.board.vin = railOk 0 x) ∧
      (∀ i x, rs[i]? = some x → tget t.power.rails (0, 0) i = (x.mv, x.ma)) ∧
      ((∀ i x, rs[i]? = some x → railOk i x = true) → t.pages = s.pages) ∧
      ((∃ i x, rs[i]? = some x ∧ railOk i x = false) → lastErr ⟨Pg.power, 0⟩ t = 0xD103) ∧ t.mem = s.mem) ∧
    (s.startUp.phase ≠ .boot → romSeen s = s) ∧
    (∀ u, u = romSeen s → smbOn s = true →
      (∀ q ∈ [(Instr.smbState, (0x01 : Byte), false, leBytes 2 (smbStateWord u).toNat), (.smbIdentity, 0x20, true, smbIdBytes u),
              (.smbVersion, 0x21, true, smbVersionBytes u),
              (.smbLastErr, 0x29, false, leBytes 2 (lastErr ⟨Pg.hmaster, 0⟩ u).toNat)],
        exec q.1 s = .next { u with outbox := u.outbox ++ [.smb q.2.2.2 (readPec q.2.1 q.2.2.1 q.2.2.2 s)] }) ∧
      (∀ q ∈ [(Instr.smbHottestTemp, (0x02 : Byte), false, leBytes 2 (smbTemp (BitVec.ofInt 16 (hottest s)) s).toNat),
              (.smbPower, 0x10, false, leBytes 2 (if hmRuns s then s.power.inputW else 0).toNat),
              (.smbEnergy, 0x11, true, leBytes 8 (s.power.energyVaux / 1000)),
              (.smbIrqTop, 0x32, false, leBytes 2 (topCode 2 s).toNat)],
        exec q.1 s = .next { s with outbox := s.outbox ++ [.smb q.2.2.2 (readPec q.2.1 q.2.2.1 q.2.2.2 s)] }) ∧
      (∀ i : Fin 6, exec (.smbDieTemp i) s = .next { s with outbox := s.outbox ++ [.smb (leBytes 2 (smbTemp s.dies.temp[i] s).toNat)
        (readPec (BitVec.ofNat 8 (3 + i.val)) false (leBytes 2 (smbTemp s.dies.temp[i] s).toNat) s)] }) ∧
      exec .smbResetCause s = .next { s with outbox := s.outbox ++ [.smb (leBytes 2 s.board.resetCause.toNat)
        (readPec 0x28 false (leBytes 2 s.board.resetCause.toNat) s)]
                                             board := { s.board with resetCause := 0 } } ∧
      (hmRuns s = false → exec .smbIrqClaim s = .next { s with outbox := s.outbox ++ [.smb [0xFF, 0xFF] (readPec 0x30 false [0xFF, 0xFF] s)] } ∧
        ∀ n pec, exec (.smbIrqComplete n pec) s = .next s) ∧
      (∀ n, hmRuns s = true → irqTop 2 s = some n → ∃ t, exec .smbIrqClaim s = .next t ∧
        t.outbox = s.outbox ++ [.smb (leBytes 2 (n % 65536)) (readPec 0x30 false (leBytes 2 (n % 65536)) s)] ∧ irqSrc n t = { irqSrc n s with st := .active }) ∧
      (∀ (n : W16) (pec : Option Byte), pecOk 0x31 n pec s = false → exec (.smbIrqComplete n pec) s = .next s) ∧
      (∀ (n : W16) (pec : Option Byte), pecOk 0x31 n pec s = true → hmRuns s = true → srcReal n.toNat = true → (irqSrc n.toNat s).st = .active →
        (irqSrc n.toNat s).target = 2 → exec (.smbIrqComplete n pec) s = .next (setIrqSrc n.toNat
          { irqSrc n.toNat s with st := .completing } s)) ∧
      (∀ a, s.board.smbAddr = some a → exec .smbAlertResponse s = .next (if topCode 2 s = 0xFFFF then s else
        { s with outbox := s.outbox ++ [.smb [a.setWidth 8] (smbPec [0x19, a.setWidth 8])] }))) ∧
    (∀ (c : Byte) (block : Bool) (bs : List Byte) (a : BitVec 7), s.board.smbAddr = some a → readPec c block bs s =
      smbPec ([a ++ (0 : BitVec 1), c, a ++ (1 : BitVec 1)] ++ (if block then [BitVec.ofNat 8 bs.length] else []) ++ bs)) ∧
    (∀ (bs : List Byte) (c : Byte), smbPec (bs ++ [c]) = iterate 8 (fun (x : Byte) => (x <<< 1) ^^^ (if x.getLsbD 7 then 0x07 else 0))
      (smbPec bs ^^^ c)) ∧
    (∀ c, inVaux c = false → s.startUp.phase = .reset → exec c s = .next s) ∧
    (smbOn s = false → ∀ q ∈ [Instr.smbState, .smbIdentity, .smbVersion, .smbLastErr], exec q s = .next (romSeen s)) ∧
    (smbOn s = false → ∀ q ∈ [Instr.smbHottestTemp, .smbPower, .smbEnergy,
      .smbIrqTop, .smbResetCause, .smbIrqClaim, .smbAlertResponse, .smbDieTemp 0, .smbIrqComplete 0 none], exec q s = .next s)

/-- A write of HM_CMD by the house while no command runs, with a scope mask that an unlock may use, starts the command
with argument and nonce; a client's is refused with CLAIM_DENIED, one while a command runs with HM_BUSY. HM_CMD_DONE
ends the running command with its result and sets CMD_DONE; an unlock during a wait ends with UNLOCK_WAIT and opens no
scope, CHALLENGE leaves a new challenge, ATTEST with DIE_SCAN open ends with HM_ATT_DEBUG and writes nothing. The
challenge expires, the wait ends. The TAP commands select their instruction while VAUX is on, IDCODE shifting out
0x0025_6995, a vendor's only with its scope open, which then halts, steps or shows a berth (BERTH_DEBUG) or reads
memory (MEM_ACCESS); SAMPLE/PRELOAD, and a scan under EXTEST, shift out the pins' levels and load the boundary
register. The boot ROM without its flash fails start-up with HM_FLASH_FAIL; whatever it finds it ends FAILED or with
an image of no lower SVN than the record asks, in FIRMWARE. Bring-up leads to SELFTEST and locks HMASTER and POWER; a
clean self-test to TRAINING, a failed layer to FAILED, as the clock time limit and the link deadline do. READY toggles
in the states with a square wave. What the TAP shifts out is recorded in the outbox, a closed vendor code selects
bypass, and a command ends at STAGE 4 only (log 29). (18_boot_identity_and_access.md; 21_start_up_sequence.md;
17_register_pages.md) -/
def Obligations.HarbourmasterAndStartUp : Prop :=
  ∀ (s : State) (r : Req),
    (∀ q ∈ [(Instr.attest r, HmOp.attest), (.challenge r, .challenge), (.unlockVendor r, .unlockVendor),
            (.unlockOwner r, .unlockOwner), (.unlockPassword r, .unlockPassword), (.updateImage r, .updateImage),
            (.installCfg r, .installCfg), (.installOwner r, .installOwner)], Reaches r Pg.hmaster s →
      (r.client ≠ 0xFF → exec q.1 s = .next (answerReq r 0xE101 0 (refuse ⟨Pg.hmaster, 0⟩ 0xE101 s))) ∧
      (r.client = 0xFF → s.hm.busy ≠ none → exec q.1 s = .next (answerReq r 0xC009 0 (refuse ⟨Pg.hmaster, 0⟩ 0xC009 s))) ∧
      (r.client = 0xFF → s.hm.busy = none →
        (maskBad q.2 s = true → exec q.1 s = .next (answerReq r 0xC00A 0 (refuse ⟨Pg.hmaster, 0⟩ 0xC00A s))) ∧
        (maskBad q.2 s = false → exec q.1 s = .next (answerReq r 0 0 { s with hm := { s.hm with
          busy := some { op := q.2, arg := s.hm.arg, arg2 := s.hm.arg2, nonce := nonceBytes s.hm } } })))) ∧
    (s.hm.busy = none → exec .hmCmdDone s = .next s) ∧
    (∀ j, Awake s → s.hm.busy = some j → s.hm.stage = 4 → ∃ t, exec .hmCmdDone s = .next t ∧ t.hm.busy = none ∧
      t.hm.result = (runHm j s).1 ∧ (hdr Pg.hmaster t).eventStatus.getLsbD 0 = true ∧ t.domains = s.domains ∧
      t.berths = s.berths ∧ t.outbox = s.outbox ∧
      (j.op = .unlockVendor ∨ j.op = .unlockOwner ∨ j.op = .unlockPassword → s.hm.wait ≠ 0 →
        t.hm.result = 0xC002 ∧ t.hm.scopes = s.hm.scopes ∧ t.mem = s.mem) ∧
      (j.op = .challenge → t.hm.result = 0 ∧ t.hm.chal ≠ none ∧ t.hm.chalCtr = s.hm.chalCtr + 1 ∧ t.hm.scopes = s.hm.scopes) ∧
      (j.op = .attest → s.hm.scopes.getLsbD 3 = true → t.hm.result = 0xC00B ∧ t.mem = s.mem)) ∧
    (Awake s → exec .challengeExpiry s = .next { s with hm := { s.hm with chal := none } } ∧
      exec .unlockWaitEnd s = .next { s with hm := { s.hm with wait := 0 } }) ∧
    (∀ q ∈ [(Instr.extest [], TapIr.extest), (.bypass, .bypass)],
      exec q.1 s = .next (if s.board.vaux = true then { s with board := { s.board with tap := q.2 } } else s)) ∧
    (∀ q ∈ [Instr.idcode, .tapReset], exec q s = .next (if s.board.vaux = true then
      { s with board := { s.board with tap := .idcode }, outbox := s.outbox ++ [.tdo 0x00256995] } else s)) ∧
    (∀ (c : BitVec 8) (b : BerthIdx) (u : State), 0x10 ≤ c.toNat → c.toNat < 0x40 → s.board.vaux = true →
      u = { s with board := { s.board with tap := if vendorOpen c.toNat s then .vendor c else .bypass } } →
      exec (.jtagVendorInstruction c .none) s = .next u ∧
      (∀ act, (vendorOpen c.toNat s = false ∨ s.startUp.phase = .reset ∨ Config.jtagScope c % 4 ≠ debugScope act) →
        exec (.jtagVendorInstruction c act) s = .next u) ∧
      (vendorOpen c.toNat s = true → s.startUp.phase ≠ .reset → Config.jtagScope c % 4 = 1 →
        exec (.jtagVendorInstruction c (.halt b)) s = .next (if (berth b s).pl = .run ∨ (berth b s).pl = .stalled then
          setBerth b { berth b s with pl := .held } u else u) ∧
        exec (.jtagVendorInstruction c (.inspect b)) s = .next { u with outbox := s.outbox ++ [.debugBerth b (berth b s)] } ∧
        ∃ t, exec (.jtagVendorInstruction c (.step b)) s = .next t ∧ ((berth b s).pl ≠ .held → t = u) ∧
          ((berth b s).pl = .held → (berth b t).pl ≠ .run ∧ (berth b t).pl ≠ .stalled)) ∧
      (∀ (a : BitVec 48) (n : Nat), vendorOpen c.toNat s = true → s.startUp.phase ≠ .reset → Config.jtagScope c % 4 = 2 →
        (requestCode a.toNat n s ≠ none → exec (.jtagVendorInstruction c (.memRead a n)) s = .next u) ∧
        (requestCode a.toNat n s = none → ∃ bs, exec (.jtagVendorInstruction c (.memRead a n)) s =
          .next { u with outbox := s.outbox ++ [.debugMem bs] } ∧
          ((extOf a.toNat).2 + n ≤ 2 ^ 20 → bs = s.mem.bytesFrom (committedAt a.toNat s) n)))) ∧
    (∀ c act, s.board.vaux = false → exec (.jtagVendorInstruction c act) s = .next s) ∧
    (∀ cells : List (Pin × Bool), (s.board.vaux = false → exec (.samplePreload cells) s = .next s) ∧
      (s.board.vaux = true → ∃ t vs, exec (.samplePreload cells) s = .next t ∧ t.board.tap = .sample ∧
        t.outbox = s.outbox ++ [.scan vs] ∧ vs.map (·.1) = cells.map (·.1) ∧ (∀ c ∈ cells, c ∈ t.board.boundary) ∧
        (∀ p v w, (p, v) ∈ vs → pinDrive p s = some w → v = w) ∧
        { t with board := s.board, outbox := s.outbox, freeCtr := s.freeCtr } = s)) ∧
    (∀ (cells : List (Pin × Bool)) (u : State), cells ≠ [] → u = { s with board := { s.board with tap := .extest } } →
      (s.board.vaux = false → exec (.extest cells) s = .next s) ∧
      (s.board.vaux = true → ∃ t vs, exec (.extest cells) s = .next t ∧ t.board.tap = .extest ∧
        t.outbox = s.outbox ++ [.scan vs] ∧ vs.map (·.1) = cells.map (·.1) ∧ (∀ c ∈ cells, c ∈ t.board.boundary) ∧
        (∀ p v w, (p, v) ∈ vs → pinDrive p u = some w → v = w) ∧
        { t with board := s.board, outbox := s.outbox, freeCtr := s.freeCtr } = s)) ∧
    (∀ x : BootIn, (s.startUp.phase ≠ .boot → exec (.bootRomDone x) s = .next s) ∧
      (s.startUp.phase = .boot → s.hm.stage.toNat < 4 → ∃ t, exec (.bootRomDone x) s = .next t ∧ t.hm.flash = s.hm.flash ∧
        (s.hm.stage = 0 → x.flashOk = false → t.startUp.phase = .failed ∧ t.startUp.cause = 0xC008) ∧
        ((t.startUp.phase = .failed ∧ t.hm.stage = 15) ∨
          (t.startUp.phase = .firmware ∧ t.hm.stage = 4 ∧ t.hm.minSvn.toNat ≤ t.hm.svn.toNat)))) ∧
    (s.startUp.phase ≠ .firmware → exec .firmwareBringupDone s = .next s ∧ exec .clockLockTimeout s = .next s) ∧
    (s.startUp.phase = .firmware →
      (∃ t, exec .firmwareBringupDone s = .next t ∧ t.startUp.phase = .selftest ∧ (hdr Pg.hmaster t).lock = 2 ∧
        (hdr Pg.power t).lock = 2 ∧ (∀ p, p ≠ Pg.hmaster → p ≠ Pg.power → hdr p t = hdr p s) ∧ t.domains = s.domains) ∧
      (∃ t, exec .clockLockTimeout s = .next t ∧ t.startUp.phase = .failed ∧ t.startUp.cause = 0 ∧
        t.startUp.failStage = 2 ∧ { t with startUp := s.startUp } = s)) ∧
    (s.startUp.phase = .selftest →
      (∃ t, exec (.selftestDone [] []) s = .next t ∧ t.startUp.phase = .training ∧ t.dies.bistDone = true ∧
        t.mem.training = true ∧ t.startUp.memRelease = true ∧ (∀ p, p < 24 → (port p t).mode = 1 ∧ (port p t).st = .light) ∧ t.domains = s.domains) ∧
      (∀ f : BitVec 4, f ≠ 0 → ∃ t, exec (.selftestDone [f] []) s = .next t ∧ t.startUp.phase = .failed ∧
        t.ports = s.ports)) ∧
    (s.startUp.phase ≠ .training ∨ linksDone s = true → exec .linkTrainDeadline s = .next s) ∧
    (s.startUp.phase = .training → linksDone s = false → ∃ t, exec .linkTrainDeadline s = .next t ∧
      t.startUp.phase = .failed ∧ t.startUp.cause = 0x9002 ∧ t.startUp.failStage = 4) ∧
    (exec .readyToggle s = .next (if suState s ∈ [5, 6, 7, 15] then
      { s with startUp := { s.startUp with wave := !s.startUp.wave } } else s))
end

