-- ==== Sys2Proof/Decode.lean ====
section
/-! DEFINITION. The decoder of command words: spec/opcode_table.json gives bits for no row. -/

namespace Sys2Proof

/-- The command a table word spells: none, since the table gives no row any bits. -/
def decodeTableWord (_nbits _w : Nat) : Option Instr := none

end Sys2Proof
end

