-- ==== Sys2Proof/Laws/State.lean ====
section
/-! SUPPORT. What each update of a part of the state leaves unchanged, field by field. -/

namespace Sys2Proof.Machine
open Sys2Proof

@[simp] theorem setHdr_pending (p : Nat) (h : PageHdr) (s : State) : (setHdr p h s).pending = s.pending := rfl
@[simp] theorem setHdr_outbox (p : Nat) (h : PageHdr) (s : State) : (setHdr p h s).outbox = s.outbox := rfl
@[simp] theorem setHdr_freeCtr (p : Nat) (h : PageHdr) (s : State) : (setHdr p h s).freeCtr = s.freeCtr := rfl
@[simp] theorem setHdr_frameOut (p : Nat) (h : PageHdr) (s : State) : (setHdr p h s).frameOut = s.frameOut := rfl
@[simp] theorem setHdr_frameIds (p : Nat) (h : PageHdr) (s : State) : (setHdr p h s).frameIds = s.frameIds := rfl
@[simp] theorem setHdr_lastErr (p : Nat) (h : PageHdr) (s : State) : (setHdr p h s).lastErr = s.lastErr := rfl
@[simp] theorem setHdr_hiLatch (p : Nat) (h : PageHdr) (s : State) : (setHdr p h s).hiLatch = s.hiLatch := rfl
@[simp] theorem setHdr_loHeld (p : Nat) (h : PageHdr) (s : State) : (setHdr p h s).loHeld = s.loHeld := rfl
@[simp] theorem setHdr_tick (p : Nat) (h : PageHdr) (s : State) : (setHdr p h s).tick = s.tick := rfl
@[simp] theorem setHdr_domains (p : Nat) (h : PageHdr) (s : State) : (setHdr p h s).domains = s.domains := rfl
@[simp] theorem setHdr_timers (p : Nat) (h : PageHdr) (s : State) : (setHdr p h s).timers = s.timers := rfl
@[simp] theorem setHdr_irq (p : Nat) (h : PageHdr) (s : State) : (setHdr p h s).irq = s.irq := rfl
@[simp] theorem setHdr_ledger (p : Nat) (h : PageHdr) (s : State) : (setHdr p h s).ledger = s.ledger := rfl
@[simp] theorem setHdr_route (p : Nat) (h : PageHdr) (s : State) : (setHdr p h s).route = s.route := rfl
@[simp] theorem setHdr_hostbr (p : Nat) (h : PageHdr) (s : State) : (setHdr p h s).hostbr = s.hostbr := rfl
@[simp] theorem setHdr_mem (p : Nat) (h : PageHdr) (s : State) : (setHdr p h s).mem = s.mem := rfl
@[simp] theorem setHdr_berths (p : Nat) (h : PageHdr) (s : State) : (setHdr p h s).berths = s.berths := rfl
@[simp] theorem setHdr_serve (p : Nat) (h : PageHdr) (s : State) : (setHdr p h s).serve = s.serve := rfl
@[simp] theorem setHdr_query (p : Nat) (h : PageHdr) (s : State) : (setHdr p h s).query = s.query := rfl
@[simp] theorem setHdr_acct (p : Nat) (h : PageHdr) (s : State) : (setHdr p h s).acct = s.acct := rfl
@[simp] theorem setHdr_weights (p : Nat) (h : PageHdr) (s : State) : (setHdr p h s).weights = s.weights := rfl
@[simp] theorem setHdr_members (p : Nat) (h : PageHdr) (s : State) : (setHdr p h s).members = s.members := rfl
@[simp] theorem setHdr_redctx (p : Nat) (h : PageHdr) (s : State) : (setHdr p h s).redctx = s.redctx := rfl
@[simp] theorem setHdr_reqs (p : Nat) (h : PageHdr) (s : State) : (setHdr p h s).reqs = s.reqs := rfl
@[simp] theorem setHdr_health (p : Nat) (h : PageHdr) (s : State) : (setHdr p h s).health = s.health := rfl
@[simp] theorem setHdr_dies (p : Nat) (h : PageHdr) (s : State) : (setHdr p h s).dies = s.dies := rfl
@[simp] theorem setHdr_ports (p : Nat) (h : PageHdr) (s : State) : (setHdr p h s).ports = s.ports := rfl
@[simp] theorem setHdr_seams (p : Nat) (h : PageHdr) (s : State) : (setHdr p h s).seams = s.seams := rfl
@[simp] theorem setHdr_survive (p : Nat) (h : PageHdr) (s : State) : (setHdr p h s).survive = s.survive := rfl
@[simp] theorem setHdr_hm (p : Nat) (h : PageHdr) (s : State) : (setHdr p h s).hm = s.hm := rfl
@[simp] theorem setHdr_startUp (p : Nat) (h : PageHdr) (s : State) : (setHdr p h s).startUp = s.startUp := rfl
@[simp] theorem setHdr_board (p : Nat) (h : PageHdr) (s : State) : (setHdr p h s).board = s.board := rfl
@[simp] theorem setHdr_power (p : Nat) (h : PageHdr) (s : State) : (setHdr p h s).power = s.power := rfl
@[simp] theorem setLastErr_pending (k : Blk) (c : W16) (s : State) : (setLastErr k c s).pending = s.pending := rfl
@[simp] theorem setLastErr_outbox (k : Blk) (c : W16) (s : State) : (setLastErr k c s).outbox = s.outbox := rfl
@[simp] theorem setLastErr_freeCtr (k : Blk) (c : W16) (s : State) : (setLastErr k c s).freeCtr = s.freeCtr := rfl
@[simp] theorem setLastErr_frameOut (k : Blk) (c : W16) (s : State) : (setLastErr k c s).frameOut = s.frameOut := rfl
@[simp] theorem setLastErr_frameIds (k : Blk) (c : W16) (s : State) : (setLastErr k c s).frameIds = s.frameIds := rfl
@[simp] theorem setLastErr_pages (k : Blk) (c : W16) (s : State) : (setLastErr k c s).pages = s.pages := rfl
@[simp] theorem setLastErr_hiLatch (k : Blk) (c : W16) (s : State) : (setLastErr k c s).hiLatch = s.hiLatch := rfl
@[simp] theorem setLastErr_loHeld (k : Blk) (c : W16) (s : State) : (setLastErr k c s).loHeld = s.loHeld := rfl
@[simp] theorem setLastErr_tick (k : Blk) (c : W16) (s : State) : (setLastErr k c s).tick = s.tick := rfl
@[simp] theorem setLastErr_domains (k : Blk) (c : W16) (s : State) : (setLastErr k c s).domains = s.domains := rfl
@[simp] theorem setLastErr_timers (k : Blk) (c : W16) (s : State) : (setLastErr k c s).timers = s.timers := rfl
@[simp] theorem setLastErr_irq (k : Blk) (c : W16) (s : State) : (setLastErr k c s).irq = s.irq := rfl
@[simp] theorem setLastErr_ledger (k : Blk) (c : W16) (s : State) : (setLastErr k c s).ledger = s.ledger := rfl
@[simp] theorem setLastErr_route (k : Blk) (c : W16) (s : State) : (setLastErr k c s).route = s.route := rfl
@[simp] theorem setLastErr_hostbr (k : Blk) (c : W16) (s : State) : (setLastErr k c s).hostbr = s.hostbr := rfl
@[simp] theorem setLastErr_mem (k : Blk) (c : W16) (s : State) : (setLastErr k c s).mem = s.mem := rfl
@[simp] theorem setLastErr_berths (k : Blk) (c : W16) (s : State) : (setLastErr k c s).berths = s.berths := rfl
@[simp] theorem setLastErr_serve (k : Blk) (c : W16) (s : State) : (setLastErr k c s).serve = s.serve := rfl
@[simp] theorem setLastErr_query (k : Blk) (c : W16) (s : State) : (setLastErr k c s).query = s.query := rfl
@[simp] theorem setLastErr_acct (k : Blk) (c : W16) (s : State) : (setLastErr k c s).acct = s.acct := rfl
@[simp] theorem setLastErr_weights (k : Blk) (c : W16) (s : State) : (setLastErr k c s).weights = s.weights := rfl
@[simp] theorem setLastErr_members (k : Blk) (c : W16) (s : State) : (setLastErr k c s).members = s.members := rfl
@[simp] theorem setLastErr_redctx (k : Blk) (c : W16) (s : State) : (setLastErr k c s).redctx = s.redctx := rfl
@[simp] theorem setLastErr_reqs (k : Blk) (c : W16) (s : State) : (setLastErr k c s).reqs = s.reqs := rfl
@[simp] theorem setLastErr_health (k : Blk) (c : W16) (s : State) : (setLastErr k c s).health = s.health := rfl
@[simp] theorem setLastErr_dies (k : Blk) (c : W16) (s : State) : (setLastErr k c s).dies = s.dies := rfl
@[simp] theorem setLastErr_ports (k : Blk) (c : W16) (s : State) : (setLastErr k c s).ports = s.ports := rfl
@[simp] theorem setLastErr_seams (k : Blk) (c : W16) (s : State) : (setLastErr k c s).seams = s.seams := rfl
@[simp] theorem setLastErr_survive (k : Blk) (c : W16) (s : State) : (setLastErr k c s).survive = s.survive := rfl
@[simp] theorem setLastErr_hm (k : Blk) (c : W16) (s : State) : (setLastErr k c s).hm = s.hm := rfl
@[simp] theorem setLastErr_startUp (k : Blk) (c : W16) (s : State) : (setLastErr k c s).startUp = s.startUp := rfl
@[simp] theorem setLastErr_board (k : Blk) (c : W16) (s : State) : (setLastErr k c s).board = s.board := rfl
@[simp] theorem setLastErr_power (k : Blk) (c : W16) (s : State) : (setLastErr k c s).power = s.power := rfl
@[simp] theorem raise_pending (p bit : Nat) (s : State) : (raise p bit s).pending = s.pending := rfl
@[simp] theorem raise_outbox (p bit : Nat) (s : State) : (raise p bit s).outbox = s.outbox := rfl
@[simp] theorem raise_freeCtr (p bit : Nat) (s : State) : (raise p bit s).freeCtr = s.freeCtr := rfl
@[simp] theorem raise_frameOut (p bit : Nat) (s : State) : (raise p bit s).frameOut = s.frameOut := rfl
@[simp] theorem raise_frameIds (p bit : Nat) (s : State) : (raise p bit s).frameIds = s.frameIds := rfl
@[simp] theorem raise_lastErr (p bit : Nat) (s : State) : (raise p bit s).lastErr = s.lastErr := rfl
@[simp] theorem raise_hiLatch (p bit : Nat) (s : State) : (raise p bit s).hiLatch = s.hiLatch := rfl
@[simp] theorem raise_loHeld (p bit : Nat) (s : State) : (raise p bit s).loHeld = s.loHeld := rfl
@[simp] theorem raise_tick (p bit : Nat) (s : State) : (raise p bit s).tick = s.tick := rfl
@[simp] theorem raise_domains (p bit : Nat) (s : State) : (raise p bit s).domains = s.domains := rfl
@[simp] theorem raise_timers (p bit : Nat) (s : State) : (raise p bit s).timers = s.timers := rfl
@[simp] theorem raise_irq (p bit : Nat) (s : State) : (raise p bit s).irq = s.irq := rfl
@[simp] theorem raise_ledger (p bit : Nat) (s : State) : (raise p bit s).ledger = s.ledger := rfl
@[simp] theorem raise_route (p bit : Nat) (s : State) : (raise p bit s).route = s.route := rfl
@[simp] theorem raise_hostbr (p bit : Nat) (s : State) : (raise p bit s).hostbr = s.hostbr := rfl
@[simp] theorem raise_mem (p bit : Nat) (s : State) : (raise p bit s).mem = s.mem := rfl
@[simp] theorem raise_berths (p bit : Nat) (s : State) : (raise p bit s).berths = s.berths := rfl
@[simp] theorem raise_serve (p bit : Nat) (s : State) : (raise p bit s).serve = s.serve := rfl
@[simp] theorem raise_query (p bit : Nat) (s : State) : (raise p bit s).query = s.query := rfl
@[simp] theorem raise_acct (p bit : Nat) (s : State) : (raise p bit s).acct = s.acct := rfl
@[simp] theorem raise_weights (p bit : Nat) (s : State) : (raise p bit s).weights = s.weights := rfl
@[simp] theorem raise_members (p bit : Nat) (s : State) : (raise p bit s).members = s.members := rfl
@[simp] theorem raise_redctx (p bit : Nat) (s : State) : (raise p bit s).redctx = s.redctx := rfl
@[simp] theorem raise_reqs (p bit : Nat) (s : State) : (raise p bit s).reqs = s.reqs := rfl
@[simp] theorem raise_health (p bit : Nat) (s : State) : (raise p bit s).health = s.health := rfl
@[simp] theorem raise_dies (p bit : Nat) (s : State) : (raise p bit s).dies = s.dies := rfl
@[simp] theorem raise_ports (p bit : Nat) (s : State) : (raise p bit s).ports = s.ports := rfl
@[simp] theorem raise_seams (p bit : Nat) (s : State) : (raise p bit s).seams = s.seams := rfl
@[simp] theorem raise_survive (p bit : Nat) (s : State) : (raise p bit s).survive = s.survive := rfl
@[simp] theorem raise_hm (p bit : Nat) (s : State) : (raise p bit s).hm = s.hm := rfl
@[simp] theorem raise_startUp (p bit : Nat) (s : State) : (raise p bit s).startUp = s.startUp := rfl
@[simp] theorem raise_board (p bit : Nat) (s : State) : (raise p bit s).board = s.board := rfl
@[simp] theorem raise_power (p bit : Nat) (s : State) : (raise p bit s).power = s.power := rfl
@[simp] theorem recordOn_pending (p : Nat) (c : W16) (refused : Bool) (s : State) : (recordOn p c refused s).pending = s.pending := rfl
@[simp] theorem recordOn_outbox (p : Nat) (c : W16) (refused : Bool) (s : State) : (recordOn p c refused s).outbox = s.outbox := rfl
@[simp] theorem recordOn_freeCtr (p : Nat) (c : W16) (refused : Bool) (s : State) : (recordOn p c refused s).freeCtr = s.freeCtr := rfl
@[simp] theorem recordOn_frameOut (p : Nat) (c : W16) (refused : Bool) (s : State) : (recordOn p c refused s).frameOut = s.frameOut := rfl
@[simp] theorem recordOn_frameIds (p : Nat) (c : W16) (refused : Bool) (s : State) : (recordOn p c refused s).frameIds = s.frameIds := rfl
@[simp] theorem recordOn_lastErr (p : Nat) (c : W16) (refused : Bool) (s : State) : (recordOn p c refused s).lastErr = s.lastErr := rfl
@[simp] theorem recordOn_hiLatch (p : Nat) (c : W16) (refused : Bool) (s : State) : (recordOn p c refused s).hiLatch = s.hiLatch := rfl
@[simp] theorem recordOn_loHeld (p : Nat) (c : W16) (refused : Bool) (s : State) : (recordOn p c refused s).loHeld = s.loHeld := rfl
@[simp] theorem recordOn_tick (p : Nat) (c : W16) (refused : Bool) (s : State) : (recordOn p c refused s).tick = s.tick := rfl
@[simp] theorem recordOn_domains (p : Nat) (c : W16) (refused : Bool) (s : State) : (recordOn p c refused s).domains = s.domains := rfl
@[simp] theorem recordOn_timers (p : Nat) (c : W16) (refused : Bool) (s : State) : (recordOn p c refused s).timers = s.timers := rfl
@[simp] theorem recordOn_irq (p : Nat) (c : W16) (refused : Bool) (s : State) : (recordOn p c refused s).irq = s.irq := rfl
@[simp] theorem recordOn_ledger (p : Nat) (c : W16) (refused : Bool) (s : State) : (recordOn p c refused s).ledger = s.ledger := rfl
@[simp] theorem recordOn_route (p : Nat) (c : W16) (refused : Bool) (s : State) : (recordOn p c refused s).route = s.route := rfl
@[simp] theorem recordOn_hostbr (p : Nat) (c : W16) (refused : Bool) (s : State) : (recordOn p c refused s).hostbr = s.hostbr := rfl
@[simp] theorem recordOn_mem (p : Nat) (c : W16) (refused : Bool) (s : State) : (recordOn p c refused s).mem = s.mem := rfl
@[simp] theorem recordOn_berths (p : Nat) (c : W16) (refused : Bool) (s : State) : (recordOn p c refused s).berths = s.berths := rfl
@[simp] theorem recordOn_serve (p : Nat) (c : W16) (refused : Bool) (s : State) : (recordOn p c refused s).serve = s.serve := rfl
@[simp] theorem recordOn_query (p : Nat) (c : W16) (refused : Bool) (s : State) : (recordOn p c refused s).query = s.query := rfl
@[simp] theorem recordOn_acct (p : Nat) (c : W16) (refused : Bool) (s : State) : (recordOn p c refused s).acct = s.acct := rfl
@[simp] theorem recordOn_weights (p : Nat) (c : W16) (refused : Bool) (s : State) : (recordOn p c refused s).weights = s.weights := rfl
@[simp] theorem recordOn_members (p : Nat) (c : W16) (refused : Bool) (s : State) : (recordOn p c refused s).members = s.members := rfl
@[simp] theorem recordOn_redctx (p : Nat) (c : W16) (refused : Bool) (s : State) : (recordOn p c refused s).redctx = s.redctx := rfl
@[simp] theorem recordOn_reqs (p : Nat) (c : W16) (refused : Bool) (s : State) : (recordOn p c refused s).reqs = s.reqs := rfl
@[simp] theorem recordOn_health (p : Nat) (c : W16) (refused : Bool) (s : State) : (recordOn p c refused s).health = s.health := rfl
@[simp] theorem recordOn_dies (p : Nat) (c : W16) (refused : Bool) (s : State) : (recordOn p c refused s).dies = s.dies := rfl
@[simp] theorem recordOn_ports (p : Nat) (c : W16) (refused : Bool) (s : State) : (recordOn p c refused s).ports = s.ports := rfl
@[simp] theorem recordOn_seams (p : Nat) (c : W16) (refused : Bool) (s : State) : (recordOn p c refused s).seams = s.seams := rfl
@[simp] theorem recordOn_survive (p : Nat) (c : W16) (refused : Bool) (s : State) : (recordOn p c refused s).survive = s.survive := rfl
@[simp] theorem recordOn_hm (p : Nat) (c : W16) (refused : Bool) (s : State) : (recordOn p c refused s).hm = s.hm := rfl
@[simp] theorem recordOn_startUp (p : Nat) (c : W16) (refused : Bool) (s : State) : (recordOn p c refused s).startUp = s.startUp := rfl
@[simp] theorem recordOn_board (p : Nat) (c : W16) (refused : Bool) (s : State) : (recordOn p c refused s).board = s.board := rfl
@[simp] theorem recordOn_power (p : Nat) (c : W16) (refused : Bool) (s : State) : (recordOn p c refused s).power = s.power := rfl
@[simp] theorem setDom_pending (d : Nat) (x : Domain) (s : State) : (setDom d x s).pending = s.pending := rfl
@[simp] theorem setDom_outbox (d : Nat) (x : Domain) (s : State) : (setDom d x s).outbox = s.outbox := rfl
@[simp] theorem setDom_freeCtr (d : Nat) (x : Domain) (s : State) : (setDom d x s).freeCtr = s.freeCtr := rfl
@[simp] theorem setDom_frameOut (d : Nat) (x : Domain) (s : State) : (setDom d x s).frameOut = s.frameOut := rfl
@[simp] theorem setDom_frameIds (d : Nat) (x : Domain) (s : State) : (setDom d x s).frameIds = s.frameIds := rfl
@[simp] theorem setDom_pages (d : Nat) (x : Domain) (s : State) : (setDom d x s).pages = s.pages := rfl
@[simp] theorem setDom_lastErr (d : Nat) (x : Domain) (s : State) : (setDom d x s).lastErr = s.lastErr := rfl
@[simp] theorem setDom_hiLatch (d : Nat) (x : Domain) (s : State) : (setDom d x s).hiLatch = s.hiLatch := rfl
@[simp] theorem setDom_loHeld (d : Nat) (x : Domain) (s : State) : (setDom d x s).loHeld = s.loHeld := rfl
@[simp] theorem setDom_tick (d : Nat) (x : Domain) (s : State) : (setDom d x s).tick = s.tick := rfl
@[simp] theorem setDom_timers (d : Nat) (x : Domain) (s : State) : (setDom d x s).timers = s.timers := rfl
@[simp] theorem setDom_irq (d : Nat) (x : Domain) (s : State) : (setDom d x s).irq = s.irq := rfl
@[simp] theorem setDom_ledger (d : Nat) (x : Domain) (s : State) : (setDom d x s).ledger = s.ledger := rfl
@[simp] theorem setDom_route (d : Nat) (x : Domain) (s : State) : (setDom d x s).route = s.route := rfl
@[simp] theorem setDom_hostbr (d : Nat) (x : Domain) (s : State) : (setDom d x s).hostbr = s.hostbr := rfl
@[simp] theorem setDom_mem (d : Nat) (x : Domain) (s : State) : (setDom d x s).mem = s.mem := rfl
@[simp] theorem setDom_berths (d : Nat) (x : Domain) (s : State) : (setDom d x s).berths = s.berths := rfl
@[simp] theorem setDom_serve (d : Nat) (x : Domain) (s : State) : (setDom d x s).serve = s.serve := rfl
@[simp] theorem setDom_query (d : Nat) (x : Domain) (s : State) : (setDom d x s).query = s.query := rfl
@[simp] theorem setDom_acct (d : Nat) (x : Domain) (s : State) : (setDom d x s).acct = s.acct := rfl
@[simp] theorem setDom_weights (d : Nat) (x : Domain) (s : State) : (setDom d x s).weights = s.weights := rfl
@[simp] theorem setDom_members (d : Nat) (x : Domain) (s : State) : (setDom d x s).members = s.members := rfl
@[simp] theorem setDom_redctx (d : Nat) (x : Domain) (s : State) : (setDom d x s).redctx = s.redctx := rfl
@[simp] theorem setDom_reqs (d : Nat) (x : Domain) (s : State) : (setDom d x s).reqs = s.reqs := rfl
@[simp] theorem setDom_health (d : Nat) (x : Domain) (s : State) : (setDom d x s).health = s.health := rfl
@[simp] theorem setDom_dies (d : Nat) (x : Domain) (s : State) : (setDom d x s).dies = s.dies := rfl
@[simp] theorem setDom_ports (d : Nat) (x : Domain) (s : State) : (setDom d x s).ports = s.ports := rfl
@[simp] theorem setDom_seams (d : Nat) (x : Domain) (s : State) : (setDom d x s).seams = s.seams := rfl
@[simp] theorem setDom_survive (d : Nat) (x : Domain) (s : State) : (setDom d x s).survive = s.survive := rfl
@[simp] theorem setDom_hm (d : Nat) (x : Domain) (s : State) : (setDom d x s).hm = s.hm := rfl
@[simp] theorem setDom_startUp (d : Nat) (x : Domain) (s : State) : (setDom d x s).startUp = s.startUp := rfl
@[simp] theorem setDom_board (d : Nat) (x : Domain) (s : State) : (setDom d x s).board = s.board := rfl
@[simp] theorem setDom_power (d : Nat) (x : Domain) (s : State) : (setDom d x s).power = s.power := rfl
@[simp] theorem modDom_pending (d : Nat) (f : Domain → Domain) (s : State) : (modDom d f s).pending = s.pending := rfl
@[simp] theorem modDom_outbox (d : Nat) (f : Domain → Domain) (s : State) : (modDom d f s).outbox = s.outbox := rfl
@[simp] theorem modDom_freeCtr (d : Nat) (f : Domain → Domain) (s : State) : (modDom d f s).freeCtr = s.freeCtr := rfl
@[simp] theorem modDom_frameOut (d : Nat) (f : Domain → Domain) (s : State) : (modDom d f s).frameOut = s.frameOut := rfl
@[simp] theorem modDom_frameIds (d : Nat) (f : Domain → Domain) (s : State) : (modDom d f s).frameIds = s.frameIds := rfl
@[simp] theorem modDom_pages (d : Nat) (f : Domain → Domain) (s : State) : (modDom d f s).pages = s.pages := rfl
@[simp] theorem modDom_lastErr (d : Nat) (f : Domain → Domain) (s : State) : (modDom d f s).lastErr = s.lastErr := rfl
@[simp] theorem modDom_hiLatch (d : Nat) (f : Domain → Domain) (s : State) : (modDom d f s).hiLatch = s.hiLatch := rfl
@[simp] theorem modDom_loHeld (d : Nat) (f : Domain → Domain) (s : State) : (modDom d f s).loHeld = s.loHeld := rfl
@[simp] theorem modDom_tick (d : Nat) (f : Domain → Domain) (s : State) : (modDom d f s).tick = s.tick := rfl
@[simp] theorem modDom_timers (d : Nat) (f : Domain → Domain) (s : State) : (modDom d f s).timers = s.timers := rfl
@[simp] theorem modDom_irq (d : Nat) (f : Domain → Domain) (s : State) : (modDom d f s).irq = s.irq := rfl
@[simp] theorem modDom_ledger (d : Nat) (f : Domain → Domain) (s : State) : (modDom d f s).ledger = s.ledger := rfl
@[simp] theorem modDom_route (d : Nat) (f : Domain → Domain) (s : State) : (modDom d f s).route = s.route := rfl
@[simp] theorem modDom_hostbr (d : Nat) (f : Domain → Domain) (s : State) : (modDom d f s).hostbr = s.hostbr := rfl
@[simp] theorem modDom_mem (d : Nat) (f : Domain → Domain) (s : State) : (modDom d f s).mem = s.mem := rfl
@[simp] theorem modDom_berths (d : Nat) (f : Domain → Domain) (s : State) : (modDom d f s).berths = s.berths := rfl
@[simp] theorem modDom_serve (d : Nat) (f : Domain → Domain) (s : State) : (modDom d f s).serve = s.serve := rfl
@[simp] theorem modDom_query (d : Nat) (f : Domain → Domain) (s : State) : (modDom d f s).query = s.query := rfl
@[simp] theorem modDom_acct (d : Nat) (f : Domain → Domain) (s : State) : (modDom d f s).acct = s.acct := rfl
@[simp] theorem modDom_weights (d : Nat) (f : Domain → Domain) (s : State) : (modDom d f s).weights = s.weights := rfl
@[simp] theorem modDom_members (d : Nat) (f : Domain → Domain) (s : State) : (modDom d f s).members = s.members := rfl
@[simp] theorem modDom_redctx (d : Nat) (f : Domain → Domain) (s : State) : (modDom d f s).redctx = s.redctx := rfl
@[simp] theorem modDom_reqs (d : Nat) (f : Domain → Domain) (s : State) : (modDom d f s).reqs = s.reqs := rfl
@[simp] theorem modDom_health (d : Nat) (f : Domain → Domain) (s : State) : (modDom d f s).health = s.health := rfl
@[simp] theorem modDom_dies (d : Nat) (f : Domain → Domain) (s : State) : (modDom d f s).dies = s.dies := rfl
@[simp] theorem modDom_ports (d : Nat) (f : Domain → Domain) (s : State) : (modDom d f s).ports = s.ports := rfl
@[simp] theorem modDom_seams (d : Nat) (f : Domain → Domain) (s : State) : (modDom d f s).seams = s.seams := rfl
@[simp] theorem modDom_survive (d : Nat) (f : Domain → Domain) (s : State) : (modDom d f s).survive = s.survive := rfl
@[simp] theorem modDom_hm (d : Nat) (f : Domain → Domain) (s : State) : (modDom d f s).hm = s.hm := rfl
@[simp] theorem modDom_startUp (d : Nat) (f : Domain → Domain) (s : State) : (modDom d f s).startUp = s.startUp := rfl
@[simp] theorem modDom_board (d : Nat) (f : Domain → Domain) (s : State) : (modDom d f s).board = s.board := rfl
@[simp] theorem modDom_power (d : Nat) (f : Domain → Domain) (s : State) : (modDom d f s).power = s.power := rfl
@[simp] theorem setBerth_pending (b : BerthIdx) (x : Berth) (s : State) : (setBerth b x s).pending = s.pending := rfl
@[simp] theorem setBerth_outbox (b : BerthIdx) (x : Berth) (s : State) : (setBerth b x s).outbox = s.outbox := rfl
@[simp] theorem setBerth_freeCtr (b : BerthIdx) (x : Berth) (s : State) : (setBerth b x s).freeCtr = s.freeCtr := rfl
@[simp] theorem setBerth_frameOut (b : BerthIdx) (x : Berth) (s : State) : (setBerth b x s).frameOut = s.frameOut := rfl
@[simp] theorem setBerth_frameIds (b : BerthIdx) (x : Berth) (s : State) : (setBerth b x s).frameIds = s.frameIds := rfl
@[simp] theorem setBerth_pages (b : BerthIdx) (x : Berth) (s : State) : (setBerth b x s).pages = s.pages := rfl
@[simp] theorem setBerth_lastErr (b : BerthIdx) (x : Berth) (s : State) : (setBerth b x s).lastErr = s.lastErr := rfl
@[simp] theorem setBerth_hiLatch (b : BerthIdx) (x : Berth) (s : State) : (setBerth b x s).hiLatch = s.hiLatch := rfl
@[simp] theorem setBerth_loHeld (b : BerthIdx) (x : Berth) (s : State) : (setBerth b x s).loHeld = s.loHeld := rfl
@[simp] theorem setBerth_tick (b : BerthIdx) (x : Berth) (s : State) : (setBerth b x s).tick = s.tick := rfl
@[simp] theorem setBerth_domains (b : BerthIdx) (x : Berth) (s : State) : (setBerth b x s).domains = s.domains := rfl
@[simp] theorem setBerth_timers (b : BerthIdx) (x : Berth) (s : State) : (setBerth b x s).timers = s.timers := rfl
@[simp] theorem setBerth_irq (b : BerthIdx) (x : Berth) (s : State) : (setBerth b x s).irq = s.irq := rfl
@[simp] theorem setBerth_ledger (b : BerthIdx) (x : Berth) (s : State) : (setBerth b x s).ledger = s.ledger := rfl
@[simp] theorem setBerth_route (b : BerthIdx) (x : Berth) (s : State) : (setBerth b x s).route = s.route := rfl
@[simp] theorem setBerth_hostbr (b : BerthIdx) (x : Berth) (s : State) : (setBerth b x s).hostbr = s.hostbr := rfl
@[simp] theorem setBerth_mem (b : BerthIdx) (x : Berth) (s : State) : (setBerth b x s).mem = s.mem := rfl
@[simp] theorem setBerth_serve (b : BerthIdx) (x : Berth) (s : State) : (setBerth b x s).serve = s.serve := rfl
@[simp] theorem setBerth_query (b : BerthIdx) (x : Berth) (s : State) : (setBerth b x s).query = s.query := rfl
@[simp] theorem setBerth_acct (b : BerthIdx) (x : Berth) (s : State) : (setBerth b x s).acct = s.acct := rfl
@[simp] theorem setBerth_weights (b : BerthIdx) (x : Berth) (s : State) : (setBerth b x s).weights = s.weights := rfl
@[simp] theorem setBerth_members (b : BerthIdx) (x : Berth) (s : State) : (setBerth b x s).members = s.members := rfl
@[simp] theorem setBerth_redctx (b : BerthIdx) (x : Berth) (s : State) : (setBerth b x s).redctx = s.redctx := rfl
@[simp] theorem setBerth_reqs (b : BerthIdx) (x : Berth) (s : State) : (setBerth b x s).reqs = s.reqs := rfl
@[simp] theorem setBerth_health (b : BerthIdx) (x : Berth) (s : State) : (setBerth b x s).health = s.health := rfl
@[simp] theorem setBerth_dies (b : BerthIdx) (x : Berth) (s : State) : (setBerth b x s).dies = s.dies := rfl
@[simp] theorem setBerth_ports (b : BerthIdx) (x : Berth) (s : State) : (setBerth b x s).ports = s.ports := rfl
@[simp] theorem setBerth_seams (b : BerthIdx) (x : Berth) (s : State) : (setBerth b x s).seams = s.seams := rfl
@[simp] theorem setBerth_survive (b : BerthIdx) (x : Berth) (s : State) : (setBerth b x s).survive = s.survive := rfl
@[simp] theorem setBerth_hm (b : BerthIdx) (x : Berth) (s : State) : (setBerth b x s).hm = s.hm := rfl
@[simp] theorem setBerth_startUp (b : BerthIdx) (x : Berth) (s : State) : (setBerth b x s).startUp = s.startUp := rfl
@[simp] theorem setBerth_board (b : BerthIdx) (x : Berth) (s : State) : (setBerth b x s).board = s.board := rfl
@[simp] theorem setBerth_power (b : BerthIdx) (x : Berth) (s : State) : (setBerth b x s).power = s.power := rfl
@[simp] theorem modBerth_pending (b : BerthIdx) (f : Berth → Berth) (s : State) : (modBerth b f s).pending = s.pending := rfl
@[simp] theorem modBerth_outbox (b : BerthIdx) (f : Berth → Berth) (s : State) : (modBerth b f s).outbox = s.outbox := rfl
@[simp] theorem modBerth_freeCtr (b : BerthIdx) (f : Berth → Berth) (s : State) : (modBerth b f s).freeCtr = s.freeCtr := rfl
@[simp] theorem modBerth_frameOut (b : BerthIdx) (f : Berth → Berth) (s : State) : (modBerth b f s).frameOut = s.frameOut := rfl
@[simp] theorem modBerth_frameIds (b : BerthIdx) (f : Berth → Berth) (s : State) : (modBerth b f s).frameIds = s.frameIds := rfl
@[simp] theorem modBerth_pages (b : BerthIdx) (f : Berth → Berth) (s : State) : (modBerth b f s).pages = s.pages := rfl
@[simp] theorem modBerth_lastErr (b : BerthIdx) (f : Berth → Berth) (s : State) : (modBerth b f s).lastErr = s.lastErr := rfl
@[simp] theorem modBerth_hiLatch (b : BerthIdx) (f : Berth → Berth) (s : State) : (modBerth b f s).hiLatch = s.hiLatch := rfl
@[simp] theorem modBerth_loHeld (b : BerthIdx) (f : Berth → Berth) (s : State) : (modBerth b f s).loHeld = s.loHeld := rfl
@[simp] theorem modBerth_tick (b : BerthIdx) (f : Berth → Berth) (s : State) : (modBerth b f s).tick = s.tick := rfl
@[simp] theorem modBerth_domains (b : BerthIdx) (f : Berth → Berth) (s : State) : (modBerth b f s).domains = s.domains := rfl
@[simp] theorem modBerth_timers (b : BerthIdx) (f : Berth → Berth) (s : State) : (modBerth b f s).timers = s.timers := rfl
@[simp] theorem modBerth_irq (b : BerthIdx) (f : Berth → Berth) (s : State) : (modBerth b f s).irq = s.irq := rfl
@[simp] theorem modBerth_ledger (b : BerthIdx) (f : Berth → Berth) (s : State) : (modBerth b f s).ledger = s.ledger := rfl
@[simp] theorem modBerth_route (b : BerthIdx) (f : Berth → Berth) (s : State) : (modBerth b f s).route = s.route := rfl
@[simp] theorem modBerth_hostbr (b : BerthIdx) (f : Berth → Berth) (s : State) : (modBerth b f s).hostbr = s.hostbr := rfl
@[simp] theorem modBerth_mem (b : BerthIdx) (f : Berth → Berth) (s : State) : (modBerth b f s).mem = s.mem := rfl
@[simp] theorem modBerth_serve (b : BerthIdx) (f : Berth → Berth) (s : State) : (modBerth b f s).serve = s.serve := rfl
@[simp] theorem modBerth_query (b : BerthIdx) (f : Berth → Berth) (s : State) : (modBerth b f s).query = s.query := rfl
@[simp] theorem modBerth_acct (b : BerthIdx) (f : Berth → Berth) (s : State) : (modBerth b f s).acct = s.acct := rfl
@[simp] theorem modBerth_weights (b : BerthIdx) (f : Berth → Berth) (s : State) : (modBerth b f s).weights = s.weights := rfl
@[simp] theorem modBerth_members (b : BerthIdx) (f : Berth → Berth) (s : State) : (modBerth b f s).members = s.members := rfl
@[simp] theorem modBerth_redctx (b : BerthIdx) (f : Berth → Berth) (s : State) : (modBerth b f s).redctx = s.redctx := rfl
@[simp] theorem modBerth_reqs (b : BerthIdx) (f : Berth → Berth) (s : State) : (modBerth b f s).reqs = s.reqs := rfl
@[simp] theorem modBerth_health (b : BerthIdx) (f : Berth → Berth) (s : State) : (modBerth b f s).health = s.health := rfl
@[simp] theorem modBerth_dies (b : BerthIdx) (f : Berth → Berth) (s : State) : (modBerth b f s).dies = s.dies := rfl
@[simp] theorem modBerth_ports (b : BerthIdx) (f : Berth → Berth) (s : State) : (modBerth b f s).ports = s.ports := rfl
@[simp] theorem modBerth_seams (b : BerthIdx) (f : Berth → Berth) (s : State) : (modBerth b f s).seams = s.seams := rfl
@[simp] theorem modBerth_survive (b : BerthIdx) (f : Berth → Berth) (s : State) : (modBerth b f s).survive = s.survive := rfl
@[simp] theorem modBerth_hm (b : BerthIdx) (f : Berth → Berth) (s : State) : (modBerth b f s).hm = s.hm := rfl
@[simp] theorem modBerth_startUp (b : BerthIdx) (f : Berth → Berth) (s : State) : (modBerth b f s).startUp = s.startUp := rfl
@[simp] theorem modBerth_board (b : BerthIdx) (f : Berth → Berth) (s : State) : (modBerth b f s).board = s.board := rfl
@[simp] theorem modBerth_power (b : BerthIdx) (f : Berth → Berth) (s : State) : (modBerth b f s).power = s.power := rfl
@[simp] theorem setLighter_pending (b : BerthIdx) (n : BitVec 2) (x : Lighter) (s : State) : (setLighter b n x s).pending = s.pending := rfl
@[simp] theorem setLighter_outbox (b : BerthIdx) (n : BitVec 2) (x : Lighter) (s : State) : (setLighter b n x s).outbox = s.outbox := rfl
@[simp] theorem setLighter_freeCtr (b : BerthIdx) (n : BitVec 2) (x : Lighter) (s : State) : (setLighter b n x s).freeCtr = s.freeCtr := rfl
@[simp] theorem setLighter_frameOut (b : BerthIdx) (n : BitVec 2) (x : Lighter) (s : State) : (setLighter b n x s).frameOut = s.frameOut := rfl
@[simp] theorem setLighter_frameIds (b : BerthIdx) (n : BitVec 2) (x : Lighter) (s : State) : (setLighter b n x s).frameIds = s.frameIds := rfl
@[simp] theorem setLighter_pages (b : BerthIdx) (n : BitVec 2) (x : Lighter) (s : State) : (setLighter b n x s).pages = s.pages := rfl
@[simp] theorem setLighter_lastErr (b : BerthIdx) (n : BitVec 2) (x : Lighter) (s : State) : (setLighter b n x s).lastErr = s.lastErr := rfl
@[simp] theorem setLighter_hiLatch (b : BerthIdx) (n : BitVec 2) (x : Lighter) (s : State) : (setLighter b n x s).hiLatch = s.hiLatch := rfl
@[simp] theorem setLighter_loHeld (b : BerthIdx) (n : BitVec 2) (x : Lighter) (s : State) : (setLighter b n x s).loHeld = s.loHeld := rfl
@[simp] theorem setLighter_tick (b : BerthIdx) (n : BitVec 2) (x : Lighter) (s : State) : (setLighter b n x s).tick = s.tick := rfl
@[simp] theorem setLighter_domains (b : BerthIdx) (n : BitVec 2) (x : Lighter) (s : State) : (setLighter b n x s).domains = s.domains := rfl
@[simp] theorem setLighter_timers (b : BerthIdx) (n : BitVec 2) (x : Lighter) (s : State) : (setLighter b n x s).timers = s.timers := rfl
@[simp] theorem setLighter_irq (b : BerthIdx) (n : BitVec 2) (x : Lighter) (s : State) : (setLighter b n x s).irq = s.irq := rfl
@[simp] theorem setLighter_ledger (b : BerthIdx) (n : BitVec 2) (x : Lighter) (s : State) : (setLighter b n x s).ledger = s.ledger := rfl
@[simp] theorem setLighter_route (b : BerthIdx) (n : BitVec 2) (x : Lighter) (s : State) : (setLighter b n x s).route = s.route := rfl
@[simp] theorem setLighter_hostbr (b : BerthIdx) (n : BitVec 2) (x : Lighter) (s : State) : (setLighter b n x s).hostbr = s.hostbr := rfl
@[simp] theorem setLighter_mem (b : BerthIdx) (n : BitVec 2) (x : Lighter) (s : State) : (setLighter b n x s).mem = s.mem := rfl
@[simp] theorem setLighter_serve (b : BerthIdx) (n : BitVec 2) (x : Lighter) (s : State) : (setLighter b n x s).serve = s.serve := rfl
@[simp] theorem setLighter_query (b : BerthIdx) (n : BitVec 2) (x : Lighter) (s : State) : (setLighter b n x s).query = s.query := rfl
@[simp] theorem setLighter_acct (b : BerthIdx) (n : BitVec 2) (x : Lighter) (s : State) : (setLighter b n x s).acct = s.acct := rfl
@[simp] theorem setLighter_weights (b : BerthIdx) (n : BitVec 2) (x : Lighter) (s : State) : (setLighter b n x s).weights = s.weights := rfl
@[simp] theorem setLighter_members (b : BerthIdx) (n : BitVec 2) (x : Lighter) (s : State) : (setLighter b n x s).members = s.members := rfl
@[simp] theorem setLighter_redctx (b : BerthIdx) (n : BitVec 2) (x : Lighter) (s : State) : (setLighter b n x s).redctx = s.redctx := rfl
@[simp] theorem setLighter_reqs (b : BerthIdx) (n : BitVec 2) (x : Lighter) (s : State) : (setLighter b n x s).reqs = s.reqs := rfl
@[simp] theorem setLighter_health (b : BerthIdx) (n : BitVec 2) (x : Lighter) (s : State) : (setLighter b n x s).health = s.health := rfl
@[simp] theorem setLighter_dies (b : BerthIdx) (n : BitVec 2) (x : Lighter) (s : State) : (setLighter b n x s).dies = s.dies := rfl
@[simp] theorem setLighter_ports (b : BerthIdx) (n : BitVec 2) (x : Lighter) (s : State) : (setLighter b n x s).ports = s.ports := rfl
@[simp] theorem setLighter_seams (b : BerthIdx) (n : BitVec 2) (x : Lighter) (s : State) : (setLighter b n x s).seams = s.seams := rfl
@[simp] theorem setLighter_survive (b : BerthIdx) (n : BitVec 2) (x : Lighter) (s : State) : (setLighter b n x s).survive = s.survive := rfl
@[simp] theorem setLighter_hm (b : BerthIdx) (n : BitVec 2) (x : Lighter) (s : State) : (setLighter b n x s).hm = s.hm := rfl
@[simp] theorem setLighter_startUp (b : BerthIdx) (n : BitVec 2) (x : Lighter) (s : State) : (setLighter b n x s).startUp = s.startUp := rfl
@[simp] theorem setLighter_board (b : BerthIdx) (n : BitVec 2) (x : Lighter) (s : State) : (setLighter b n x s).board = s.board := rfl
@[simp] theorem setLighter_power (b : BerthIdx) (n : BitVec 2) (x : Lighter) (s : State) : (setLighter b n x s).power = s.power := rfl
@[simp] theorem modLighter_pending (b : BerthIdx) (n : BitVec 2) (f : Lighter → Lighter) (s : State) : (modLighter b n f s).pending = s.pending := rfl
@[simp] theorem modLighter_outbox (b : BerthIdx) (n : BitVec 2) (f : Lighter → Lighter) (s : State) : (modLighter b n f s).outbox = s.outbox := rfl
@[simp] theorem modLighter_freeCtr (b : BerthIdx) (n : BitVec 2) (f : Lighter → Lighter) (s : State) : (modLighter b n f s).freeCtr = s.freeCtr := rfl
@[simp] theorem modLighter_frameOut (b : BerthIdx) (n : BitVec 2) (f : Lighter → Lighter) (s : State) : (modLighter b n f s).frameOut = s.frameOut := rfl
@[simp] theorem modLighter_frameIds (b : BerthIdx) (n : BitVec 2) (f : Lighter → Lighter) (s : State) : (modLighter b n f s).frameIds = s.frameIds := rfl
@[simp] theorem modLighter_pages (b : BerthIdx) (n : BitVec 2) (f : Lighter → Lighter) (s : State) : (modLighter b n f s).pages = s.pages := rfl
@[simp] theorem modLighter_lastErr (b : BerthIdx) (n : BitVec 2) (f : Lighter → Lighter) (s : State) : (modLighter b n f s).lastErr = s.lastErr := rfl
@[simp] theorem modLighter_hiLatch (b : BerthIdx) (n : BitVec 2) (f : Lighter → Lighter) (s : State) : (modLighter b n f s).hiLatch = s.hiLatch := rfl
@[simp] theorem modLighter_loHeld (b : BerthIdx) (n : BitVec 2) (f : Lighter → Lighter) (s : State) : (modLighter b n f s).loHeld = s.loHeld := rfl
@[simp] theorem modLighter_tick (b : BerthIdx) (n : BitVec 2) (f : Lighter → Lighter) (s : State) : (modLighter b n f s).tick = s.tick := rfl
@[simp] theorem modLighter_domains (b : BerthIdx) (n : BitVec 2) (f : Lighter → Lighter) (s : State) : (modLighter b n f s).domains = s.domains := rfl
@[simp] theorem modLighter_timers (b : BerthIdx) (n : BitVec 2) (f : Lighter → Lighter) (s : State) : (modLighter b n f s).timers = s.timers := rfl
@[simp] theorem modLighter_irq (b : BerthIdx) (n : BitVec 2) (f : Lighter → Lighter) (s : State) : (modLighter b n f s).irq = s.irq := rfl
@[simp] theorem modLighter_ledger (b : BerthIdx) (n : BitVec 2) (f : Lighter → Lighter) (s : State) : (modLighter b n f s).ledger = s.ledger := rfl
@[simp] theorem modLighter_route (b : BerthIdx) (n : BitVec 2) (f : Lighter → Lighter) (s : State) : (modLighter b n f s).route = s.route := rfl
@[simp] theorem modLighter_hostbr (b : BerthIdx) (n : BitVec 2) (f : Lighter → Lighter) (s : State) : (modLighter b n f s).hostbr = s.hostbr := rfl
@[simp] theorem modLighter_mem (b : BerthIdx) (n : BitVec 2) (f : Lighter → Lighter) (s : State) : (modLighter b n f s).mem = s.mem := rfl
@[simp] theorem modLighter_serve (b : BerthIdx) (n : BitVec 2) (f : Lighter → Lighter) (s : State) : (modLighter b n f s).serve = s.serve := rfl
@[simp] theorem modLighter_query (b : BerthIdx) (n : BitVec 2) (f : Lighter → Lighter) (s : State) : (modLighter b n f s).query = s.query := rfl
@[simp] theorem modLighter_acct (b : BerthIdx) (n : BitVec 2) (f : Lighter → Lighter) (s : State) : (modLighter b n f s).acct = s.acct := rfl
@[simp] theorem modLighter_weights (b : BerthIdx) (n : BitVec 2) (f : Lighter → Lighter) (s : State) : (modLighter b n f s).weights = s.weights := rfl
@[simp] theorem modLighter_members (b : BerthIdx) (n : BitVec 2) (f : Lighter → Lighter) (s : State) : (modLighter b n f s).members = s.members := rfl
@[simp] theorem modLighter_redctx (b : BerthIdx) (n : BitVec 2) (f : Lighter → Lighter) (s : State) : (modLighter b n f s).redctx = s.redctx := rfl
@[simp] theorem modLighter_reqs (b : BerthIdx) (n : BitVec 2) (f : Lighter → Lighter) (s : State) : (modLighter b n f s).reqs = s.reqs := rfl
@[simp] theorem modLighter_health (b : BerthIdx) (n : BitVec 2) (f : Lighter → Lighter) (s : State) : (modLighter b n f s).health = s.health := rfl
@[simp] theorem modLighter_dies (b : BerthIdx) (n : BitVec 2) (f : Lighter → Lighter) (s : State) : (modLighter b n f s).dies = s.dies := rfl
@[simp] theorem modLighter_ports (b : BerthIdx) (n : BitVec 2) (f : Lighter → Lighter) (s : State) : (modLighter b n f s).ports = s.ports := rfl
@[simp] theorem modLighter_seams (b : BerthIdx) (n : BitVec 2) (f : Lighter → Lighter) (s : State) : (modLighter b n f s).seams = s.seams := rfl
@[simp] theorem modLighter_survive (b : BerthIdx) (n : BitVec 2) (f : Lighter → Lighter) (s : State) : (modLighter b n f s).survive = s.survive := rfl
@[simp] theorem modLighter_hm (b : BerthIdx) (n : BitVec 2) (f : Lighter → Lighter) (s : State) : (modLighter b n f s).hm = s.hm := rfl
@[simp] theorem modLighter_startUp (b : BerthIdx) (n : BitVec 2) (f : Lighter → Lighter) (s : State) : (modLighter b n f s).startUp = s.startUp := rfl
@[simp] theorem modLighter_board (b : BerthIdx) (n : BitVec 2) (f : Lighter → Lighter) (s : State) : (modLighter b n f s).board = s.board := rfl
@[simp] theorem modLighter_power (b : BerthIdx) (n : BitVec 2) (f : Lighter → Lighter) (s : State) : (modLighter b n f s).power = s.power := rfl
@[simp] theorem setRun_pending (b : BerthIdx) (n : BitVec 2) (r : Running) (s : State) : (setRun b n r s).pending = s.pending := rfl
@[simp] theorem setRun_outbox (b : BerthIdx) (n : BitVec 2) (r : Running) (s : State) : (setRun b n r s).outbox = s.outbox := rfl
@[simp] theorem setRun_freeCtr (b : BerthIdx) (n : BitVec 2) (r : Running) (s : State) : (setRun b n r s).freeCtr = s.freeCtr := rfl
@[simp] theorem setRun_frameOut (b : BerthIdx) (n : BitVec 2) (r : Running) (s : State) : (setRun b n r s).frameOut = s.frameOut := rfl
@[simp] theorem setRun_frameIds (b : BerthIdx) (n : BitVec 2) (r : Running) (s : State) : (setRun b n r s).frameIds = s.frameIds := rfl
@[simp] theorem setRun_pages (b : BerthIdx) (n : BitVec 2) (r : Running) (s : State) : (setRun b n r s).pages = s.pages := rfl
@[simp] theorem setRun_lastErr (b : BerthIdx) (n : BitVec 2) (r : Running) (s : State) : (setRun b n r s).lastErr = s.lastErr := rfl
@[simp] theorem setRun_hiLatch (b : BerthIdx) (n : BitVec 2) (r : Running) (s : State) : (setRun b n r s).hiLatch = s.hiLatch := rfl
@[simp] theorem setRun_loHeld (b : BerthIdx) (n : BitVec 2) (r : Running) (s : State) : (setRun b n r s).loHeld = s.loHeld := rfl
@[simp] theorem setRun_tick (b : BerthIdx) (n : BitVec 2) (r : Running) (s : State) : (setRun b n r s).tick = s.tick := rfl
@[simp] theorem setRun_domains (b : BerthIdx) (n : BitVec 2) (r : Running) (s : State) : (setRun b n r s).domains = s.domains := rfl
@[simp] theorem setRun_timers (b : BerthIdx) (n : BitVec 2) (r : Running) (s : State) : (setRun b n r s).timers = s.timers := rfl
@[simp] theorem setRun_irq (b : BerthIdx) (n : BitVec 2) (r : Running) (s : State) : (setRun b n r s).irq = s.irq := rfl
@[simp] theorem setRun_ledger (b : BerthIdx) (n : BitVec 2) (r : Running) (s : State) : (setRun b n r s).ledger = s.ledger := rfl
@[simp] theorem setRun_route (b : BerthIdx) (n : BitVec 2) (r : Running) (s : State) : (setRun b n r s).route = s.route := rfl
@[simp] theorem setRun_hostbr (b : BerthIdx) (n : BitVec 2) (r : Running) (s : State) : (setRun b n r s).hostbr = s.hostbr := rfl
@[simp] theorem setRun_mem (b : BerthIdx) (n : BitVec 2) (r : Running) (s : State) : (setRun b n r s).mem = s.mem := rfl
@[simp] theorem setRun_serve (b : BerthIdx) (n : BitVec 2) (r : Running) (s : State) : (setRun b n r s).serve = s.serve := rfl
@[simp] theorem setRun_query (b : BerthIdx) (n : BitVec 2) (r : Running) (s : State) : (setRun b n r s).query = s.query := rfl
@[simp] theorem setRun_acct (b : BerthIdx) (n : BitVec 2) (r : Running) (s : State) : (setRun b n r s).acct = s.acct := rfl
@[simp] theorem setRun_weights (b : BerthIdx) (n : BitVec 2) (r : Running) (s : State) : (setRun b n r s).weights = s.weights := rfl
@[simp] theorem setRun_members (b : BerthIdx) (n : BitVec 2) (r : Running) (s : State) : (setRun b n r s).members = s.members := rfl
@[simp] theorem setRun_redctx (b : BerthIdx) (n : BitVec 2) (r : Running) (s : State) : (setRun b n r s).redctx = s.redctx := rfl
@[simp] theorem setRun_reqs (b : BerthIdx) (n : BitVec 2) (r : Running) (s : State) : (setRun b n r s).reqs = s.reqs := rfl
@[simp] theorem setRun_health (b : BerthIdx) (n : BitVec 2) (r : Running) (s : State) : (setRun b n r s).health = s.health := rfl
@[simp] theorem setRun_dies (b : BerthIdx) (n : BitVec 2) (r : Running) (s : State) : (setRun b n r s).dies = s.dies := rfl
@[simp] theorem setRun_ports (b : BerthIdx) (n : BitVec 2) (r : Running) (s : State) : (setRun b n r s).ports = s.ports := rfl
@[simp] theorem setRun_seams (b : BerthIdx) (n : BitVec 2) (r : Running) (s : State) : (setRun b n r s).seams = s.seams := rfl
@[simp] theorem setRun_survive (b : BerthIdx) (n : BitVec 2) (r : Running) (s : State) : (setRun b n r s).survive = s.survive := rfl
@[simp] theorem setRun_hm (b : BerthIdx) (n : BitVec 2) (r : Running) (s : State) : (setRun b n r s).hm = s.hm := rfl
@[simp] theorem setRun_startUp (b : BerthIdx) (n : BitVec 2) (r : Running) (s : State) : (setRun b n r s).startUp = s.startUp := rfl
@[simp] theorem setRun_board (b : BerthIdx) (n : BitVec 2) (r : Running) (s : State) : (setRun b n r s).board = s.board := rfl
@[simp] theorem setRun_power (b : BerthIdx) (n : BitVec 2) (r : Running) (s : State) : (setRun b n r s).power = s.power := rfl
@[simp] theorem setTimer_pending (i : Nat) (x : TimerSlot) (s : State) : (setTimer i x s).pending = s.pending := rfl
@[simp] theorem setTimer_outbox (i : Nat) (x : TimerSlot) (s : State) : (setTimer i x s).outbox = s.outbox := rfl
@[simp] theorem setTimer_freeCtr (i : Nat) (x : TimerSlot) (s : State) : (setTimer i x s).freeCtr = s.freeCtr := rfl
@[simp] theorem setTimer_frameOut (i : Nat) (x : TimerSlot) (s : State) : (setTimer i x s).frameOut = s.frameOut := rfl
@[simp] theorem setTimer_frameIds (i : Nat) (x : TimerSlot) (s : State) : (setTimer i x s).frameIds = s.frameIds := rfl
@[simp] theorem setTimer_pages (i : Nat) (x : TimerSlot) (s : State) : (setTimer i x s).pages = s.pages := rfl
@[simp] theorem setTimer_lastErr (i : Nat) (x : TimerSlot) (s : State) : (setTimer i x s).lastErr = s.lastErr := rfl
@[simp] theorem setTimer_hiLatch (i : Nat) (x : TimerSlot) (s : State) : (setTimer i x s).hiLatch = s.hiLatch := rfl
@[simp] theorem setTimer_loHeld (i : Nat) (x : TimerSlot) (s : State) : (setTimer i x s).loHeld = s.loHeld := rfl
@[simp] theorem setTimer_tick (i : Nat) (x : TimerSlot) (s : State) : (setTimer i x s).tick = s.tick := rfl
@[simp] theorem setTimer_domains (i : Nat) (x : TimerSlot) (s : State) : (setTimer i x s).domains = s.domains := rfl
@[simp] theorem setTimer_irq (i : Nat) (x : TimerSlot) (s : State) : (setTimer i x s).irq = s.irq := rfl
@[simp] theorem setTimer_ledger (i : Nat) (x : TimerSlot) (s : State) : (setTimer i x s).ledger = s.ledger := rfl
@[simp] theorem setTimer_route (i : Nat) (x : TimerSlot) (s : State) : (setTimer i x s).route = s.route := rfl
@[simp] theorem setTimer_hostbr (i : Nat) (x : TimerSlot) (s : State) : (setTimer i x s).hostbr = s.hostbr := rfl
@[simp] theorem setTimer_mem (i : Nat) (x : TimerSlot) (s : State) : (setTimer i x s).mem = s.mem := rfl
@[simp] theorem setTimer_berths (i : Nat) (x : TimerSlot) (s : State) : (setTimer i x s).berths = s.berths := rfl
@[simp] theorem setTimer_serve (i : Nat) (x : TimerSlot) (s : State) : (setTimer i x s).serve = s.serve := rfl
@[simp] theorem setTimer_query (i : Nat) (x : TimerSlot) (s : State) : (setTimer i x s).query = s.query := rfl
@[simp] theorem setTimer_acct (i : Nat) (x : TimerSlot) (s : State) : (setTimer i x s).acct = s.acct := rfl
@[simp] theorem setTimer_weights (i : Nat) (x : TimerSlot) (s : State) : (setTimer i x s).weights = s.weights := rfl
@[simp] theorem setTimer_members (i : Nat) (x : TimerSlot) (s : State) : (setTimer i x s).members = s.members := rfl
@[simp] theorem setTimer_redctx (i : Nat) (x : TimerSlot) (s : State) : (setTimer i x s).redctx = s.redctx := rfl
@[simp] theorem setTimer_reqs (i : Nat) (x : TimerSlot) (s : State) : (setTimer i x s).reqs = s.reqs := rfl
@[simp] theorem setTimer_health (i : Nat) (x : TimerSlot) (s : State) : (setTimer i x s).health = s.health := rfl
@[simp] theorem setTimer_dies (i : Nat) (x : TimerSlot) (s : State) : (setTimer i x s).dies = s.dies := rfl
@[simp] theorem setTimer_ports (i : Nat) (x : TimerSlot) (s : State) : (setTimer i x s).ports = s.ports := rfl
@[simp] theorem setTimer_seams (i : Nat) (x : TimerSlot) (s : State) : (setTimer i x s).seams = s.seams := rfl
@[simp] theorem setTimer_survive (i : Nat) (x : TimerSlot) (s : State) : (setTimer i x s).survive = s.survive := rfl
@[simp] theorem setTimer_hm (i : Nat) (x : TimerSlot) (s : State) : (setTimer i x s).hm = s.hm := rfl
@[simp] theorem setTimer_startUp (i : Nat) (x : TimerSlot) (s : State) : (setTimer i x s).startUp = s.startUp := rfl
@[simp] theorem setTimer_board (i : Nat) (x : TimerSlot) (s : State) : (setTimer i x s).board = s.board := rfl
@[simp] theorem setTimer_power (i : Nat) (x : TimerSlot) (s : State) : (setTimer i x s).power = s.power := rfl
@[simp] theorem setGpio_pending (n : Nat) (g : Gpio) (s : State) : (setGpio n g s).pending = s.pending := rfl
@[simp] theorem setGpio_outbox (n : Nat) (g : Gpio) (s : State) : (setGpio n g s).outbox = s.outbox := rfl
@[simp] theorem setGpio_freeCtr (n : Nat) (g : Gpio) (s : State) : (setGpio n g s).freeCtr = s.freeCtr := rfl
@[simp] theorem setGpio_frameOut (n : Nat) (g : Gpio) (s : State) : (setGpio n g s).frameOut = s.frameOut := rfl
@[simp] theorem setGpio_frameIds (n : Nat) (g : Gpio) (s : State) : (setGpio n g s).frameIds = s.frameIds := rfl
@[simp] theorem setGpio_pages (n : Nat) (g : Gpio) (s : State) : (setGpio n g s).pages = s.pages := rfl
@[simp] theorem setGpio_lastErr (n : Nat) (g : Gpio) (s : State) : (setGpio n g s).lastErr = s.lastErr := rfl
@[simp] theorem setGpio_hiLatch (n : Nat) (g : Gpio) (s : State) : (setGpio n g s).hiLatch = s.hiLatch := rfl
@[simp] theorem setGpio_loHeld (n : Nat) (g : Gpio) (s : State) : (setGpio n g s).loHeld = s.loHeld := rfl
@[simp] theorem setGpio_tick (n : Nat) (g : Gpio) (s : State) : (setGpio n g s).tick = s.tick := rfl
@[simp] theorem setGpio_domains (n : Nat) (g : Gpio) (s : State) : (setGpio n g s).domains = s.domains := rfl
@[simp] theorem setGpio_timers (n : Nat) (g : Gpio) (s : State) : (setGpio n g s).timers = s.timers := rfl
@[simp] theorem setGpio_irq (n : Nat) (g : Gpio) (s : State) : (setGpio n g s).irq = s.irq := rfl
@[simp] theorem setGpio_route (n : Nat) (g : Gpio) (s : State) : (setGpio n g s).route = s.route := rfl
@[simp] theorem setGpio_hostbr (n : Nat) (g : Gpio) (s : State) : (setGpio n g s).hostbr = s.hostbr := rfl
@[simp] theorem setGpio_mem (n : Nat) (g : Gpio) (s : State) : (setGpio n g s).mem = s.mem := rfl
@[simp] theorem setGpio_berths (n : Nat) (g : Gpio) (s : State) : (setGpio n g s).berths = s.berths := rfl
@[simp] theorem setGpio_serve (n : Nat) (g : Gpio) (s : State) : (setGpio n g s).serve = s.serve := rfl
@[simp] theorem setGpio_query (n : Nat) (g : Gpio) (s : State) : (setGpio n g s).query = s.query := rfl
@[simp] theorem setGpio_acct (n : Nat) (g : Gpio) (s : State) : (setGpio n g s).acct = s.acct := rfl
@[simp] theorem setGpio_weights (n : Nat) (g : Gpio) (s : State) : (setGpio n g s).weights = s.weights := rfl
@[simp] theorem setGpio_members (n : Nat) (g : Gpio) (s : State) : (setGpio n g s).members = s.members := rfl
@[simp] theorem setGpio_redctx (n : Nat) (g : Gpio) (s : State) : (setGpio n g s).redctx = s.redctx := rfl
@[simp] theorem setGpio_reqs (n : Nat) (g : Gpio) (s : State) : (setGpio n g s).reqs = s.reqs := rfl
@[simp] theorem setGpio_health (n : Nat) (g : Gpio) (s : State) : (setGpio n g s).health = s.health := rfl
@[simp] theorem setGpio_dies (n : Nat) (g : Gpio) (s : State) : (setGpio n g s).dies = s.dies := rfl
@[simp] theorem setGpio_ports (n : Nat) (g : Gpio) (s : State) : (setGpio n g s).ports = s.ports := rfl
@[simp] theorem setGpio_seams (n : Nat) (g : Gpio) (s : State) : (setGpio n g s).seams = s.seams := rfl
@[simp] theorem setGpio_survive (n : Nat) (g : Gpio) (s : State) : (setGpio n g s).survive = s.survive := rfl
@[simp] theorem setGpio_hm (n : Nat) (g : Gpio) (s : State) : (setGpio n g s).hm = s.hm := rfl
@[simp] theorem setGpio_startUp (n : Nat) (g : Gpio) (s : State) : (setGpio n g s).startUp = s.startUp := rfl
@[simp] theorem setGpio_board (n : Nat) (g : Gpio) (s : State) : (setGpio n g s).board = s.board := rfl
@[simp] theorem setGpio_power (n : Nat) (g : Gpio) (s : State) : (setGpio n g s).power = s.power := rfl
@[simp] theorem post_pending (x : Sent) (s : State) : (post x s).pending = s.pending := rfl
@[simp] theorem post_freeCtr (x : Sent) (s : State) : (post x s).freeCtr = s.freeCtr := rfl
@[simp] theorem post_frameOut (x : Sent) (s : State) : (post x s).frameOut = s.frameOut := rfl
@[simp] theorem post_frameIds (x : Sent) (s : State) : (post x s).frameIds = s.frameIds := rfl
@[simp] theorem post_pages (x : Sent) (s : State) : (post x s).pages = s.pages := rfl
@[simp] theorem post_lastErr (x : Sent) (s : State) : (post x s).lastErr = s.lastErr := rfl
@[simp] theorem post_hiLatch (x : Sent) (s : State) : (post x s).hiLatch = s.hiLatch := rfl
@[simp] theorem post_loHeld (x : Sent) (s : State) : (post x s).loHeld = s.loHeld := rfl
@[simp] theorem post_tick (x : Sent) (s : State) : (post x s).tick = s.tick := rfl
@[simp] theorem post_domains (x : Sent) (s : State) : (post x s).domains = s.domains := rfl
@[simp] theorem post_timers (x : Sent) (s : State) : (post x s).timers = s.timers := rfl
@[simp] theorem post_irq (x : Sent) (s : State) : (post x s).irq = s.irq := rfl
@[simp] theorem post_ledger (x : Sent) (s : State) : (post x s).ledger = s.ledger := rfl
@[simp] theorem post_route (x : Sent) (s : State) : (post x s).route = s.route := rfl
@[simp] theorem post_hostbr (x : Sent) (s : State) : (post x s).hostbr = s.hostbr := rfl
@[simp] theorem post_mem (x : Sent) (s : State) : (post x s).mem = s.mem := rfl
@[simp] theorem post_berths (x : Sent) (s : State) : (post x s).berths = s.berths := rfl
@[simp] theorem post_serve (x : Sent) (s : State) : (post x s).serve = s.serve := rfl
@[simp] theorem post_query (x : Sent) (s : State) : (post x s).query = s.query := rfl
@[simp] theorem post_acct (x : Sent) (s : State) : (post x s).acct = s.acct := rfl
@[simp] theorem post_weights (x : Sent) (s : State) : (post x s).weights = s.weights := rfl
@[simp] theorem post_members (x : Sent) (s : State) : (post x s).members = s.members := rfl
@[simp] theorem post_redctx (x : Sent) (s : State) : (post x s).redctx = s.redctx := rfl
@[simp] theorem post_reqs (x : Sent) (s : State) : (post x s).reqs = s.reqs := rfl
@[simp] theorem post_health (x : Sent) (s : State) : (post x s).health = s.health := rfl
@[simp] theorem post_dies (x : Sent) (s : State) : (post x s).dies = s.dies := rfl
@[simp] theorem post_ports (x : Sent) (s : State) : (post x s).ports = s.ports := rfl
@[simp] theorem post_seams (x : Sent) (s : State) : (post x s).seams = s.seams := rfl
@[simp] theorem post_survive (x : Sent) (s : State) : (post x s).survive = s.survive := rfl
@[simp] theorem post_hm (x : Sent) (s : State) : (post x s).hm = s.hm := rfl
@[simp] theorem post_startUp (x : Sent) (s : State) : (post x s).startUp = s.startUp := rfl
@[simp] theorem post_board (x : Sent) (s : State) : (post x s).board = s.board := rfl
@[simp] theorem post_power (x : Sent) (s : State) : (post x s).power = s.power := rfl
@[simp] theorem send_pending (m : OutMsg) (s : State) : (send m s).pending = s.pending := rfl
@[simp] theorem send_freeCtr (m : OutMsg) (s : State) : (send m s).freeCtr = s.freeCtr := rfl
@[simp] theorem send_frameOut (m : OutMsg) (s : State) : (send m s).frameOut = s.frameOut := rfl
@[simp] theorem send_frameIds (m : OutMsg) (s : State) : (send m s).frameIds = s.frameIds := rfl
@[simp] theorem send_pages (m : OutMsg) (s : State) : (send m s).pages = s.pages := rfl
@[simp] theorem send_lastErr (m : OutMsg) (s : State) : (send m s).lastErr = s.lastErr := rfl
@[simp] theorem send_hiLatch (m : OutMsg) (s : State) : (send m s).hiLatch = s.hiLatch := rfl
@[simp] theorem send_loHeld (m : OutMsg) (s : State) : (send m s).loHeld = s.loHeld := rfl
@[simp] theorem send_tick (m : OutMsg) (s : State) : (send m s).tick = s.tick := rfl
@[simp] theorem send_domains (m : OutMsg) (s : State) : (send m s).domains = s.domains := rfl
@[simp] theorem send_timers (m : OutMsg) (s : State) : (send m s).timers = s.timers := rfl
@[simp] theorem send_irq (m : OutMsg) (s : State) : (send m s).irq = s.irq := rfl
@[simp] theorem send_ledger (m : OutMsg) (s : State) : (send m s).ledger = s.ledger := rfl
@[simp] theorem send_route (m : OutMsg) (s : State) : (send m s).route = s.route := rfl
@[simp] theorem send_hostbr (m : OutMsg) (s : State) : (send m s).hostbr = s.hostbr := rfl
@[simp] theorem send_mem (m : OutMsg) (s : State) : (send m s).mem = s.mem := rfl
@[simp] theorem send_berths (m : OutMsg) (s : State) : (send m s).berths = s.berths := rfl
@[simp] theorem send_serve (m : OutMsg) (s : State) : (send m s).serve = s.serve := rfl
@[simp] theorem send_query (m : OutMsg) (s : State) : (send m s).query = s.query := rfl
@[simp] theorem send_acct (m : OutMsg) (s : State) : (send m s).acct = s.acct := rfl
@[simp] theorem send_weights (m : OutMsg) (s : State) : (send m s).weights = s.weights := rfl
@[simp] theorem send_members (m : OutMsg) (s : State) : (send m s).members = s.members := rfl
@[simp] theorem send_redctx (m : OutMsg) (s : State) : (send m s).redctx = s.redctx := rfl
@[simp] theorem send_reqs (m : OutMsg) (s : State) : (send m s).reqs = s.reqs := rfl
@[simp] theorem send_health (m : OutMsg) (s : State) : (send m s).health = s.health := rfl
@[simp] theorem send_dies (m : OutMsg) (s : State) : (send m s).dies = s.dies := rfl
@[simp] theorem send_ports (m : OutMsg) (s : State) : (send m s).ports = s.ports := rfl
@[simp] theorem send_seams (m : OutMsg) (s : State) : (send m s).seams = s.seams := rfl
@[simp] theorem send_survive (m : OutMsg) (s : State) : (send m s).survive = s.survive := rfl
@[simp] theorem send_hm (m : OutMsg) (s : State) : (send m s).hm = s.hm := rfl
@[simp] theorem send_startUp (m : OutMsg) (s : State) : (send m s).startUp = s.startUp := rfl
@[simp] theorem send_board (m : OutMsg) (s : State) : (send m s).board = s.board := rfl
@[simp] theorem send_power (m : OutMsg) (s : State) : (send m s).power = s.power := rfl
@[simp] theorem setMem_pending (m : Mem) (s : State) : (setMem m s).pending = s.pending := rfl
@[simp] theorem setMem_outbox (m : Mem) (s : State) : (setMem m s).outbox = s.outbox := rfl
@[simp] theorem setMem_freeCtr (m : Mem) (s : State) : (setMem m s).freeCtr = s.freeCtr := rfl
@[simp] theorem setMem_frameOut (m : Mem) (s : State) : (setMem m s).frameOut = s.frameOut := rfl
@[simp] theorem setMem_frameIds (m : Mem) (s : State) : (setMem m s).frameIds = s.frameIds := rfl
@[simp] theorem setMem_pages (m : Mem) (s : State) : (setMem m s).pages = s.pages := rfl
@[simp] theorem setMem_lastErr (m : Mem) (s : State) : (setMem m s).lastErr = s.lastErr := rfl
@[simp] theorem setMem_hiLatch (m : Mem) (s : State) : (setMem m s).hiLatch = s.hiLatch := rfl
@[simp] theorem setMem_loHeld (m : Mem) (s : State) : (setMem m s).loHeld = s.loHeld := rfl
@[simp] theorem setMem_tick (m : Mem) (s : State) : (setMem m s).tick = s.tick := rfl
@[simp] theorem setMem_domains (m : Mem) (s : State) : (setMem m s).domains = s.domains := rfl
@[simp] theorem setMem_timers (m : Mem) (s : State) : (setMem m s).timers = s.timers := rfl
@[simp] theorem setMem_irq (m : Mem) (s : State) : (setMem m s).irq = s.irq := rfl
@[simp] theorem setMem_ledger (m : Mem) (s : State) : (setMem m s).ledger = s.ledger := rfl
@[simp] theorem setMem_route (m : Mem) (s : State) : (setMem m s).route = s.route := rfl
@[simp] theorem setMem_hostbr (m : Mem) (s : State) : (setMem m s).hostbr = s.hostbr := rfl
@[simp] theorem setMem_berths (m : Mem) (s : State) : (setMem m s).berths = s.berths := rfl
@[simp] theorem setMem_serve (m : Mem) (s : State) : (setMem m s).serve = s.serve := rfl
@[simp] theorem setMem_query (m : Mem) (s : State) : (setMem m s).query = s.query := rfl
@[simp] theorem setMem_acct (m : Mem) (s : State) : (setMem m s).acct = s.acct := rfl
@[simp] theorem setMem_weights (m : Mem) (s : State) : (setMem m s).weights = s.weights := rfl
@[simp] theorem setMem_members (m : Mem) (s : State) : (setMem m s).members = s.members := rfl
@[simp] theorem setMem_redctx (m : Mem) (s : State) : (setMem m s).redctx = s.redctx := rfl
@[simp] theorem setMem_reqs (m : Mem) (s : State) : (setMem m s).reqs = s.reqs := rfl
@[simp] theorem setMem_health (m : Mem) (s : State) : (setMem m s).health = s.health := rfl
@[simp] theorem setMem_dies (m : Mem) (s : State) : (setMem m s).dies = s.dies := rfl
@[simp] theorem setMem_ports (m : Mem) (s : State) : (setMem m s).ports = s.ports := rfl
@[simp] theorem setMem_seams (m : Mem) (s : State) : (setMem m s).seams = s.seams := rfl
@[simp] theorem setMem_survive (m : Mem) (s : State) : (setMem m s).survive = s.survive := rfl
@[simp] theorem setMem_hm (m : Mem) (s : State) : (setMem m s).hm = s.hm := rfl
@[simp] theorem setMem_startUp (m : Mem) (s : State) : (setMem m s).startUp = s.startUp := rfl
@[simp] theorem setMem_board (m : Mem) (s : State) : (setMem m s).board = s.board := rfl
@[simp] theorem setMem_power (m : Mem) (s : State) : (setMem m s).power = s.power := rfl
@[simp] theorem setExt_pending (x : Nat) (e : Ext) (s : State) : (setExt x e s).pending = s.pending := rfl
@[simp] theorem setExt_outbox (x : Nat) (e : Ext) (s : State) : (setExt x e s).outbox = s.outbox := rfl
@[simp] theorem setExt_freeCtr (x : Nat) (e : Ext) (s : State) : (setExt x e s).freeCtr = s.freeCtr := rfl
@[simp] theorem setExt_frameOut (x : Nat) (e : Ext) (s : State) : (setExt x e s).frameOut = s.frameOut := rfl
@[simp] theorem setExt_frameIds (x : Nat) (e : Ext) (s : State) : (setExt x e s).frameIds = s.frameIds := rfl
@[simp] theorem setExt_pages (x : Nat) (e : Ext) (s : State) : (setExt x e s).pages = s.pages := rfl
@[simp] theorem setExt_lastErr (x : Nat) (e : Ext) (s : State) : (setExt x e s).lastErr = s.lastErr := rfl
@[simp] theorem setExt_hiLatch (x : Nat) (e : Ext) (s : State) : (setExt x e s).hiLatch = s.hiLatch := rfl
@[simp] theorem setExt_loHeld (x : Nat) (e : Ext) (s : State) : (setExt x e s).loHeld = s.loHeld := rfl
@[simp] theorem setExt_tick (x : Nat) (e : Ext) (s : State) : (setExt x e s).tick = s.tick := rfl
@[simp] theorem setExt_domains (x : Nat) (e : Ext) (s : State) : (setExt x e s).domains = s.domains := rfl
@[simp] theorem setExt_timers (x : Nat) (e : Ext) (s : State) : (setExt x e s).timers = s.timers := rfl
@[simp] theorem setExt_irq (x : Nat) (e : Ext) (s : State) : (setExt x e s).irq = s.irq := rfl
@[simp] theorem setExt_ledger (x : Nat) (e : Ext) (s : State) : (setExt x e s).ledger = s.ledger := rfl
@[simp] theorem setExt_route (x : Nat) (e : Ext) (s : State) : (setExt x e s).route = s.route := rfl
@[simp] theorem setExt_hostbr (x : Nat) (e : Ext) (s : State) : (setExt x e s).hostbr = s.hostbr := rfl
@[simp] theorem setExt_berths (x : Nat) (e : Ext) (s : State) : (setExt x e s).berths = s.berths := rfl
@[simp] theorem setExt_serve (x : Nat) (e : Ext) (s : State) : (setExt x e s).serve = s.serve := rfl
@[simp] theorem setExt_query (x : Nat) (e : Ext) (s : State) : (setExt x e s).query = s.query := rfl
@[simp] theorem setExt_acct (x : Nat) (e : Ext) (s : State) : (setExt x e s).acct = s.acct := rfl
@[simp] theorem setExt_weights (x : Nat) (e : Ext) (s : State) : (setExt x e s).weights = s.weights := rfl
@[simp] theorem setExt_members (x : Nat) (e : Ext) (s : State) : (setExt x e s).members = s.members := rfl
@[simp] theorem setExt_redctx (x : Nat) (e : Ext) (s : State) : (setExt x e s).redctx = s.redctx := rfl
@[simp] theorem setExt_reqs (x : Nat) (e : Ext) (s : State) : (setExt x e s).reqs = s.reqs := rfl
@[simp] theorem setExt_health (x : Nat) (e : Ext) (s : State) : (setExt x e s).health = s.health := rfl
@[simp] theorem setExt_dies (x : Nat) (e : Ext) (s : State) : (setExt x e s).dies = s.dies := rfl
@[simp] theorem setExt_ports (x : Nat) (e : Ext) (s : State) : (setExt x e s).ports = s.ports := rfl
@[simp] theorem setExt_seams (x : Nat) (e : Ext) (s : State) : (setExt x e s).seams = s.seams := rfl
@[simp] theorem setExt_survive (x : Nat) (e : Ext) (s : State) : (setExt x e s).survive = s.survive := rfl
@[simp] theorem setExt_hm (x : Nat) (e : Ext) (s : State) : (setExt x e s).hm = s.hm := rfl
@[simp] theorem setExt_startUp (x : Nat) (e : Ext) (s : State) : (setExt x e s).startUp = s.startUp := rfl
@[simp] theorem setExt_board (x : Nat) (e : Ext) (s : State) : (setExt x e s).board = s.board := rfl
@[simp] theorem setExt_power (x : Nat) (e : Ext) (s : State) : (setExt x e s).power = s.power := rfl
@[simp] theorem setObj_pending (o : Nat) (e : ObjEntry) (s : State) : (setObj o e s).pending = s.pending := rfl
@[simp] theorem setObj_outbox (o : Nat) (e : ObjEntry) (s : State) : (setObj o e s).outbox = s.outbox := rfl
@[simp] theorem setObj_freeCtr (o : Nat) (e : ObjEntry) (s : State) : (setObj o e s).freeCtr = s.freeCtr := rfl
@[simp] theorem setObj_frameOut (o : Nat) (e : ObjEntry) (s : State) : (setObj o e s).frameOut = s.frameOut := rfl
@[simp] theorem setObj_frameIds (o : Nat) (e : ObjEntry) (s : State) : (setObj o e s).frameIds = s.frameIds := rfl
@[simp] theorem setObj_pages (o : Nat) (e : ObjEntry) (s : State) : (setObj o e s).pages = s.pages := rfl
@[simp] theorem setObj_lastErr (o : Nat) (e : ObjEntry) (s : State) : (setObj o e s).lastErr = s.lastErr := rfl
@[simp] theorem setObj_hiLatch (o : Nat) (e : ObjEntry) (s : State) : (setObj o e s).hiLatch = s.hiLatch := rfl
@[simp] theorem setObj_loHeld (o : Nat) (e : ObjEntry) (s : State) : (setObj o e s).loHeld = s.loHeld := rfl
@[simp] theorem setObj_tick (o : Nat) (e : ObjEntry) (s : State) : (setObj o e s).tick = s.tick := rfl
@[simp] theorem setObj_domains (o : Nat) (e : ObjEntry) (s : State) : (setObj o e s).domains = s.domains := rfl
@[simp] theorem setObj_timers (o : Nat) (e : ObjEntry) (s : State) : (setObj o e s).timers = s.timers := rfl
@[simp] theorem setObj_irq (o : Nat) (e : ObjEntry) (s : State) : (setObj o e s).irq = s.irq := rfl
@[simp] theorem setObj_ledger (o : Nat) (e : ObjEntry) (s : State) : (setObj o e s).ledger = s.ledger := rfl
@[simp] theorem setObj_route (o : Nat) (e : ObjEntry) (s : State) : (setObj o e s).route = s.route := rfl
@[simp] theorem setObj_hostbr (o : Nat) (e : ObjEntry) (s : State) : (setObj o e s).hostbr = s.hostbr := rfl
@[simp] theorem setObj_berths (o : Nat) (e : ObjEntry) (s : State) : (setObj o e s).berths = s.berths := rfl
@[simp] theorem setObj_serve (o : Nat) (e : ObjEntry) (s : State) : (setObj o e s).serve = s.serve := rfl
@[simp] theorem setObj_query (o : Nat) (e : ObjEntry) (s : State) : (setObj o e s).query = s.query := rfl
@[simp] theorem setObj_acct (o : Nat) (e : ObjEntry) (s : State) : (setObj o e s).acct = s.acct := rfl
@[simp] theorem setObj_weights (o : Nat) (e : ObjEntry) (s : State) : (setObj o e s).weights = s.weights := rfl
@[simp] theorem setObj_members (o : Nat) (e : ObjEntry) (s : State) : (setObj o e s).members = s.members := rfl
@[simp] theorem setObj_redctx (o : Nat) (e : ObjEntry) (s : State) : (setObj o e s).redctx = s.redctx := rfl
@[simp] theorem setObj_reqs (o : Nat) (e : ObjEntry) (s : State) : (setObj o e s).reqs = s.reqs := rfl
@[simp] theorem setObj_health (o : Nat) (e : ObjEntry) (s : State) : (setObj o e s).health = s.health := rfl
@[simp] theorem setObj_dies (o : Nat) (e : ObjEntry) (s : State) : (setObj o e s).dies = s.dies := rfl
@[simp] theorem setObj_ports (o : Nat) (e : ObjEntry) (s : State) : (setObj o e s).ports = s.ports := rfl
@[simp] theorem setObj_seams (o : Nat) (e : ObjEntry) (s : State) : (setObj o e s).seams = s.seams := rfl
@[simp] theorem setObj_survive (o : Nat) (e : ObjEntry) (s : State) : (setObj o e s).survive = s.survive := rfl
@[simp] theorem setObj_hm (o : Nat) (e : ObjEntry) (s : State) : (setObj o e s).hm = s.hm := rfl
@[simp] theorem setObj_startUp (o : Nat) (e : ObjEntry) (s : State) : (setObj o e s).startUp = s.startUp := rfl
@[simp] theorem setObj_board (o : Nat) (e : ObjEntry) (s : State) : (setObj o e s).board = s.board := rfl
@[simp] theorem setObj_power (o : Nat) (e : ObjEntry) (s : State) : (setObj o e s).power = s.power := rfl
@[simp] theorem setLpx_pending (m : Nat) (x : LpxDev) (s : State) : (setLpx m x s).pending = s.pending := rfl
@[simp] theorem setLpx_outbox (m : Nat) (x : LpxDev) (s : State) : (setLpx m x s).outbox = s.outbox := rfl
@[simp] theorem setLpx_freeCtr (m : Nat) (x : LpxDev) (s : State) : (setLpx m x s).freeCtr = s.freeCtr := rfl
@[simp] theorem setLpx_frameOut (m : Nat) (x : LpxDev) (s : State) : (setLpx m x s).frameOut = s.frameOut := rfl
@[simp] theorem setLpx_frameIds (m : Nat) (x : LpxDev) (s : State) : (setLpx m x s).frameIds = s.frameIds := rfl
@[simp] theorem setLpx_pages (m : Nat) (x : LpxDev) (s : State) : (setLpx m x s).pages = s.pages := rfl
@[simp] theorem setLpx_lastErr (m : Nat) (x : LpxDev) (s : State) : (setLpx m x s).lastErr = s.lastErr := rfl
@[simp] theorem setLpx_hiLatch (m : Nat) (x : LpxDev) (s : State) : (setLpx m x s).hiLatch = s.hiLatch := rfl
@[simp] theorem setLpx_loHeld (m : Nat) (x : LpxDev) (s : State) : (setLpx m x s).loHeld = s.loHeld := rfl
@[simp] theorem setLpx_tick (m : Nat) (x : LpxDev) (s : State) : (setLpx m x s).tick = s.tick := rfl
@[simp] theorem setLpx_domains (m : Nat) (x : LpxDev) (s : State) : (setLpx m x s).domains = s.domains := rfl
@[simp] theorem setLpx_timers (m : Nat) (x : LpxDev) (s : State) : (setLpx m x s).timers = s.timers := rfl
@[simp] theorem setLpx_irq (m : Nat) (x : LpxDev) (s : State) : (setLpx m x s).irq = s.irq := rfl
@[simp] theorem setLpx_ledger (m : Nat) (x : LpxDev) (s : State) : (setLpx m x s).ledger = s.ledger := rfl
@[simp] theorem setLpx_route (m : Nat) (x : LpxDev) (s : State) : (setLpx m x s).route = s.route := rfl
@[simp] theorem setLpx_hostbr (m : Nat) (x : LpxDev) (s : State) : (setLpx m x s).hostbr = s.hostbr := rfl
@[simp] theorem setLpx_berths (m : Nat) (x : LpxDev) (s : State) : (setLpx m x s).berths = s.berths := rfl
@[simp] theorem setLpx_serve (m : Nat) (x : LpxDev) (s : State) : (setLpx m x s).serve = s.serve := rfl
@[simp] theorem setLpx_query (m : Nat) (x : LpxDev) (s : State) : (setLpx m x s).query = s.query := rfl
@[simp] theorem setLpx_acct (m : Nat) (x : LpxDev) (s : State) : (setLpx m x s).acct = s.acct := rfl
@[simp] theorem setLpx_weights (m : Nat) (x : LpxDev) (s : State) : (setLpx m x s).weights = s.weights := rfl
@[simp] theorem setLpx_members (m : Nat) (x : LpxDev) (s : State) : (setLpx m x s).members = s.members := rfl
@[simp] theorem setLpx_redctx (m : Nat) (x : LpxDev) (s : State) : (setLpx m x s).redctx = s.redctx := rfl
@[simp] theorem setLpx_reqs (m : Nat) (x : LpxDev) (s : State) : (setLpx m x s).reqs = s.reqs := rfl
@[simp] theorem setLpx_health (m : Nat) (x : LpxDev) (s : State) : (setLpx m x s).health = s.health := rfl
@[simp] theorem setLpx_dies (m : Nat) (x : LpxDev) (s : State) : (setLpx m x s).dies = s.dies := rfl
@[simp] theorem setLpx_ports (m : Nat) (x : LpxDev) (s : State) : (setLpx m x s).ports = s.ports := rfl
@[simp] theorem setLpx_seams (m : Nat) (x : LpxDev) (s : State) : (setLpx m x s).seams = s.seams := rfl
@[simp] theorem setLpx_survive (m : Nat) (x : LpxDev) (s : State) : (setLpx m x s).survive = s.survive := rfl
@[simp] theorem setLpx_hm (m : Nat) (x : LpxDev) (s : State) : (setLpx m x s).hm = s.hm := rfl
@[simp] theorem setLpx_startUp (m : Nat) (x : LpxDev) (s : State) : (setLpx m x s).startUp = s.startUp := rfl
@[simp] theorem setLpx_board (m : Nat) (x : LpxDev) (s : State) : (setLpx m x s).board = s.board := rfl
@[simp] theorem setLpx_power (m : Nat) (x : LpxDev) (s : State) : (setLpx m x s).power = s.power := rfl
@[simp] theorem setMember_pending (d : Nat) (x : Member) (s : State) : (setMember d x s).pending = s.pending := rfl
@[simp] theorem setMember_outbox (d : Nat) (x : Member) (s : State) : (setMember d x s).outbox = s.outbox := rfl
@[simp] theorem setMember_freeCtr (d : Nat) (x : Member) (s : State) : (setMember d x s).freeCtr = s.freeCtr := rfl
@[simp] theorem setMember_frameOut (d : Nat) (x : Member) (s : State) : (setMember d x s).frameOut = s.frameOut := rfl
@[simp] theorem setMember_frameIds (d : Nat) (x : Member) (s : State) : (setMember d x s).frameIds = s.frameIds := rfl
@[simp] theorem setMember_pages (d : Nat) (x : Member) (s : State) : (setMember d x s).pages = s.pages := rfl
@[simp] theorem setMember_lastErr (d : Nat) (x : Member) (s : State) : (setMember d x s).lastErr = s.lastErr := rfl
@[simp] theorem setMember_hiLatch (d : Nat) (x : Member) (s : State) : (setMember d x s).hiLatch = s.hiLatch := rfl
@[simp] theorem setMember_loHeld (d : Nat) (x : Member) (s : State) : (setMember d x s).loHeld = s.loHeld := rfl
@[simp] theorem setMember_tick (d : Nat) (x : Member) (s : State) : (setMember d x s).tick = s.tick := rfl
@[simp] theorem setMember_domains (d : Nat) (x : Member) (s : State) : (setMember d x s).domains = s.domains := rfl
@[simp] theorem setMember_timers (d : Nat) (x : Member) (s : State) : (setMember d x s).timers = s.timers := rfl
@[simp] theorem setMember_irq (d : Nat) (x : Member) (s : State) : (setMember d x s).irq = s.irq := rfl
@[simp] theorem setMember_ledger (d : Nat) (x : Member) (s : State) : (setMember d x s).ledger = s.ledger := rfl
@[simp] theorem setMember_route (d : Nat) (x : Member) (s : State) : (setMember d x s).route = s.route := rfl
@[simp] theorem setMember_hostbr (d : Nat) (x : Member) (s : State) : (setMember d x s).hostbr = s.hostbr := rfl
@[simp] theorem setMember_mem (d : Nat) (x : Member) (s : State) : (setMember d x s).mem = s.mem := rfl
@[simp] theorem setMember_berths (d : Nat) (x : Member) (s : State) : (setMember d x s).berths = s.berths := rfl
@[simp] theorem setMember_serve (d : Nat) (x : Member) (s : State) : (setMember d x s).serve = s.serve := rfl
@[simp] theorem setMember_query (d : Nat) (x : Member) (s : State) : (setMember d x s).query = s.query := rfl
@[simp] theorem setMember_acct (d : Nat) (x : Member) (s : State) : (setMember d x s).acct = s.acct := rfl
@[simp] theorem setMember_weights (d : Nat) (x : Member) (s : State) : (setMember d x s).weights = s.weights := rfl
@[simp] theorem setMember_redctx (d : Nat) (x : Member) (s : State) : (setMember d x s).redctx = s.redctx := rfl
@[simp] theorem setMember_reqs (d : Nat) (x : Member) (s : State) : (setMember d x s).reqs = s.reqs := rfl
@[simp] theorem setMember_health (d : Nat) (x : Member) (s : State) : (setMember d x s).health = s.health := rfl
@[simp] theorem setMember_dies (d : Nat) (x : Member) (s : State) : (setMember d x s).dies = s.dies := rfl
@[simp] theorem setMember_ports (d : Nat) (x : Member) (s : State) : (setMember d x s).ports = s.ports := rfl
@[simp] theorem setMember_seams (d : Nat) (x : Member) (s : State) : (setMember d x s).seams = s.seams := rfl
@[simp] theorem setMember_survive (d : Nat) (x : Member) (s : State) : (setMember d x s).survive = s.survive := rfl
@[simp] theorem setMember_hm (d : Nat) (x : Member) (s : State) : (setMember d x s).hm = s.hm := rfl
@[simp] theorem setMember_startUp (d : Nat) (x : Member) (s : State) : (setMember d x s).startUp = s.startUp := rfl
@[simp] theorem setMember_board (d : Nat) (x : Member) (s : State) : (setMember d x s).board = s.board := rfl
@[simp] theorem setMember_power (d : Nat) (x : Member) (s : State) : (setMember d x s).power = s.power := rfl
@[simp] theorem modMember_pending (d : Nat) (f : Member → Member) (s : State) : (modMember d f s).pending = s.pending := rfl
@[simp] theorem modMember_outbox (d : Nat) (f : Member → Member) (s : State) : (modMember d f s).outbox = s.outbox := rfl
@[simp] theorem modMember_freeCtr (d : Nat) (f : Member → Member) (s : State) : (modMember d f s).freeCtr = s.freeCtr := rfl
@[simp] theorem modMember_frameOut (d : Nat) (f : Member → Member) (s : State) : (modMember d f s).frameOut = s.frameOut := rfl
@[simp] theorem modMember_frameIds (d : Nat) (f : Member → Member) (s : State) : (modMember d f s).frameIds = s.frameIds := rfl
@[simp] theorem modMember_pages (d : Nat) (f : Member → Member) (s : State) : (modMember d f s).pages = s.pages := rfl
@[simp] theorem modMember_lastErr (d : Nat) (f : Member → Member) (s : State) : (modMember d f s).lastErr = s.lastErr := rfl
@[simp] theorem modMember_hiLatch (d : Nat) (f : Member → Member) (s : State) : (modMember d f s).hiLatch = s.hiLatch := rfl
@[simp] theorem modMember_loHeld (d : Nat) (f : Member → Member) (s : State) : (modMember d f s).loHeld = s.loHeld := rfl
@[simp] theorem modMember_tick (d : Nat) (f : Member → Member) (s : State) : (modMember d f s).tick = s.tick := rfl
@[simp] theorem modMember_domains (d : Nat) (f : Member → Member) (s : State) : (modMember d f s).domains = s.domains := rfl
@[simp] theorem modMember_timers (d : Nat) (f : Member → Member) (s : State) : (modMember d f s).timers = s.timers := rfl
@[simp] theorem modMember_irq (d : Nat) (f : Member → Member) (s : State) : (modMember d f s).irq = s.irq := rfl
@[simp] theorem modMember_ledger (d : Nat) (f : Member → Member) (s : State) : (modMember d f s).ledger = s.ledger := rfl
@[simp] theorem modMember_route (d : Nat) (f : Member → Member) (s : State) : (modMember d f s).route = s.route := rfl
@[simp] theorem modMember_hostbr (d : Nat) (f : Member → Member) (s : State) : (modMember d f s).hostbr = s.hostbr := rfl
@[simp] theorem modMember_mem (d : Nat) (f : Member → Member) (s : State) : (modMember d f s).mem = s.mem := rfl
@[simp] theorem modMember_berths (d : Nat) (f : Member → Member) (s : State) : (modMember d f s).berths = s.berths := rfl
@[simp] theorem modMember_serve (d : Nat) (f : Member → Member) (s : State) : (modMember d f s).serve = s.serve := rfl
@[simp] theorem modMember_query (d : Nat) (f : Member → Member) (s : State) : (modMember d f s).query = s.query := rfl
@[simp] theorem modMember_acct (d : Nat) (f : Member → Member) (s : State) : (modMember d f s).acct = s.acct := rfl
@[simp] theorem modMember_weights (d : Nat) (f : Member → Member) (s : State) : (modMember d f s).weights = s.weights := rfl
@[simp] theorem modMember_redctx (d : Nat) (f : Member → Member) (s : State) : (modMember d f s).redctx = s.redctx := rfl
@[simp] theorem modMember_reqs (d : Nat) (f : Member → Member) (s : State) : (modMember d f s).reqs = s.reqs := rfl
@[simp] theorem modMember_health (d : Nat) (f : Member → Member) (s : State) : (modMember d f s).health = s.health := rfl
@[simp] theorem modMember_dies (d : Nat) (f : Member → Member) (s : State) : (modMember d f s).dies = s.dies := rfl
@[simp] theorem modMember_ports (d : Nat) (f : Member → Member) (s : State) : (modMember d f s).ports = s.ports := rfl
@[simp] theorem modMember_seams (d : Nat) (f : Member → Member) (s : State) : (modMember d f s).seams = s.seams := rfl
@[simp] theorem modMember_survive (d : Nat) (f : Member → Member) (s : State) : (modMember d f s).survive = s.survive := rfl
@[simp] theorem modMember_hm (d : Nat) (f : Member → Member) (s : State) : (modMember d f s).hm = s.hm := rfl
@[simp] theorem modMember_startUp (d : Nat) (f : Member → Member) (s : State) : (modMember d f s).startUp = s.startUp := rfl
@[simp] theorem modMember_board (d : Nat) (f : Member → Member) (s : State) : (modMember d f s).board = s.board := rfl
@[simp] theorem modMember_power (d : Nat) (f : Member → Member) (s : State) : (modMember d f s).power = s.power := rfl
@[simp] theorem setMembers_pending (m : MemberBlk) (s : State) : (setMembers m s).pending = s.pending := rfl
@[simp] theorem setMembers_outbox (m : MemberBlk) (s : State) : (setMembers m s).outbox = s.outbox := rfl
@[simp] theorem setMembers_freeCtr (m : MemberBlk) (s : State) : (setMembers m s).freeCtr = s.freeCtr := rfl
@[simp] theorem setMembers_frameOut (m : MemberBlk) (s : State) : (setMembers m s).frameOut = s.frameOut := rfl
@[simp] theorem setMembers_frameIds (m : MemberBlk) (s : State) : (setMembers m s).frameIds = s.frameIds := rfl
@[simp] theorem setMembers_pages (m : MemberBlk) (s : State) : (setMembers m s).pages = s.pages := rfl
@[simp] theorem setMembers_lastErr (m : MemberBlk) (s : State) : (setMembers m s).lastErr = s.lastErr := rfl
@[simp] theorem setMembers_hiLatch (m : MemberBlk) (s : State) : (setMembers m s).hiLatch = s.hiLatch := rfl
@[simp] theorem setMembers_loHeld (m : MemberBlk) (s : State) : (setMembers m s).loHeld = s.loHeld := rfl
@[simp] theorem setMembers_tick (m : MemberBlk) (s : State) : (setMembers m s).tick = s.tick := rfl
@[simp] theorem setMembers_domains (m : MemberBlk) (s : State) : (setMembers m s).domains = s.domains := rfl
@[simp] theorem setMembers_timers (m : MemberBlk) (s : State) : (setMembers m s).timers = s.timers := rfl
@[simp] theorem setMembers_irq (m : MemberBlk) (s : State) : (setMembers m s).irq = s.irq := rfl
@[simp] theorem setMembers_ledger (m : MemberBlk) (s : State) : (setMembers m s).ledger = s.ledger := rfl
@[simp] theorem setMembers_route (m : MemberBlk) (s : State) : (setMembers m s).route = s.route := rfl
@[simp] theorem setMembers_hostbr (m : MemberBlk) (s : State) : (setMembers m s).hostbr = s.hostbr := rfl
@[simp] theorem setMembers_mem (m : MemberBlk) (s : State) : (setMembers m s).mem = s.mem := rfl
@[simp] theorem setMembers_berths (m : MemberBlk) (s : State) : (setMembers m s).berths = s.berths := rfl
@[simp] theorem setMembers_serve (m : MemberBlk) (s : State) : (setMembers m s).serve = s.serve := rfl
@[simp] theorem setMembers_query (m : MemberBlk) (s : State) : (setMembers m s).query = s.query := rfl
@[simp] theorem setMembers_acct (m : MemberBlk) (s : State) : (setMembers m s).acct = s.acct := rfl
@[simp] theorem setMembers_weights (m : MemberBlk) (s : State) : (setMembers m s).weights = s.weights := rfl
@[simp] theorem setMembers_redctx (m : MemberBlk) (s : State) : (setMembers m s).redctx = s.redctx := rfl
@[simp] theorem setMembers_reqs (m : MemberBlk) (s : State) : (setMembers m s).reqs = s.reqs := rfl
@[simp] theorem setMembers_health (m : MemberBlk) (s : State) : (setMembers m s).health = s.health := rfl
@[simp] theorem setMembers_dies (m : MemberBlk) (s : State) : (setMembers m s).dies = s.dies := rfl
@[simp] theorem setMembers_ports (m : MemberBlk) (s : State) : (setMembers m s).ports = s.ports := rfl
@[simp] theorem setMembers_seams (m : MemberBlk) (s : State) : (setMembers m s).seams = s.seams := rfl
@[simp] theorem setMembers_survive (m : MemberBlk) (s : State) : (setMembers m s).survive = s.survive := rfl
@[simp] theorem setMembers_hm (m : MemberBlk) (s : State) : (setMembers m s).hm = s.hm := rfl
@[simp] theorem setMembers_startUp (m : MemberBlk) (s : State) : (setMembers m s).startUp = s.startUp := rfl
@[simp] theorem setMembers_board (m : MemberBlk) (s : State) : (setMembers m s).board = s.board := rfl
@[simp] theorem setMembers_power (m : MemberBlk) (s : State) : (setMembers m s).power = s.power := rfl
@[simp] theorem setServe_pending (d : Nat) (x : Serve) (s : State) : (setServe d x s).pending = s.pending := rfl
@[simp] theorem setServe_outbox (d : Nat) (x : Serve) (s : State) : (setServe d x s).outbox = s.outbox := rfl
@[simp] theorem setServe_freeCtr (d : Nat) (x : Serve) (s : State) : (setServe d x s).freeCtr = s.freeCtr := rfl
@[simp] theorem setServe_frameOut (d : Nat) (x : Serve) (s : State) : (setServe d x s).frameOut = s.frameOut := rfl
@[simp] theorem setServe_frameIds (d : Nat) (x : Serve) (s : State) : (setServe d x s).frameIds = s.frameIds := rfl
@[simp] theorem setServe_pages (d : Nat) (x : Serve) (s : State) : (setServe d x s).pages = s.pages := rfl
@[simp] theorem setServe_lastErr (d : Nat) (x : Serve) (s : State) : (setServe d x s).lastErr = s.lastErr := rfl
@[simp] theorem setServe_hiLatch (d : Nat) (x : Serve) (s : State) : (setServe d x s).hiLatch = s.hiLatch := rfl
@[simp] theorem setServe_loHeld (d : Nat) (x : Serve) (s : State) : (setServe d x s).loHeld = s.loHeld := rfl
@[simp] theorem setServe_tick (d : Nat) (x : Serve) (s : State) : (setServe d x s).tick = s.tick := rfl
@[simp] theorem setServe_domains (d : Nat) (x : Serve) (s : State) : (setServe d x s).domains = s.domains := rfl
@[simp] theorem setServe_timers (d : Nat) (x : Serve) (s : State) : (setServe d x s).timers = s.timers := rfl
@[simp] theorem setServe_irq (d : Nat) (x : Serve) (s : State) : (setServe d x s).irq = s.irq := rfl
@[simp] theorem setServe_ledger (d : Nat) (x : Serve) (s : State) : (setServe d x s).ledger = s.ledger := rfl
@[simp] theorem setServe_route (d : Nat) (x : Serve) (s : State) : (setServe d x s).route = s.route := rfl
@[simp] theorem setServe_hostbr (d : Nat) (x : Serve) (s : State) : (setServe d x s).hostbr = s.hostbr := rfl
@[simp] theorem setServe_mem (d : Nat) (x : Serve) (s : State) : (setServe d x s).mem = s.mem := rfl
@[simp] theorem setServe_berths (d : Nat) (x : Serve) (s : State) : (setServe d x s).berths = s.berths := rfl
@[simp] theorem setServe_query (d : Nat) (x : Serve) (s : State) : (setServe d x s).query = s.query := rfl
@[simp] theorem setServe_acct (d : Nat) (x : Serve) (s : State) : (setServe d x s).acct = s.acct := rfl
@[simp] theorem setServe_weights (d : Nat) (x : Serve) (s : State) : (setServe d x s).weights = s.weights := rfl
@[simp] theorem setServe_members (d : Nat) (x : Serve) (s : State) : (setServe d x s).members = s.members := rfl
@[simp] theorem setServe_redctx (d : Nat) (x : Serve) (s : State) : (setServe d x s).redctx = s.redctx := rfl
@[simp] theorem setServe_reqs (d : Nat) (x : Serve) (s : State) : (setServe d x s).reqs = s.reqs := rfl
@[simp] theorem setServe_health (d : Nat) (x : Serve) (s : State) : (setServe d x s).health = s.health := rfl
@[simp] theorem setServe_dies (d : Nat) (x : Serve) (s : State) : (setServe d x s).dies = s.dies := rfl
@[simp] theorem setServe_ports (d : Nat) (x : Serve) (s : State) : (setServe d x s).ports = s.ports := rfl
@[simp] theorem setServe_seams (d : Nat) (x : Serve) (s : State) : (setServe d x s).seams = s.seams := rfl
@[simp] theorem setServe_survive (d : Nat) (x : Serve) (s : State) : (setServe d x s).survive = s.survive := rfl
@[simp] theorem setServe_hm (d : Nat) (x : Serve) (s : State) : (setServe d x s).hm = s.hm := rfl
@[simp] theorem setServe_startUp (d : Nat) (x : Serve) (s : State) : (setServe d x s).startUp = s.startUp := rfl
@[simp] theorem setServe_board (d : Nat) (x : Serve) (s : State) : (setServe d x s).board = s.board := rfl
@[simp] theorem setServe_power (d : Nat) (x : Serve) (s : State) : (setServe d x s).power = s.power := rfl
@[simp] theorem modServe_pending (d : Nat) (f : Serve → Serve) (s : State) : (modServe d f s).pending = s.pending := rfl
@[simp] theorem modServe_outbox (d : Nat) (f : Serve → Serve) (s : State) : (modServe d f s).outbox = s.outbox := rfl
@[simp] theorem modServe_freeCtr (d : Nat) (f : Serve → Serve) (s : State) : (modServe d f s).freeCtr = s.freeCtr := rfl
@[simp] theorem modServe_frameOut (d : Nat) (f : Serve → Serve) (s : State) : (modServe d f s).frameOut = s.frameOut := rfl
@[simp] theorem modServe_frameIds (d : Nat) (f : Serve → Serve) (s : State) : (modServe d f s).frameIds = s.frameIds := rfl
@[simp] theorem modServe_pages (d : Nat) (f : Serve → Serve) (s : State) : (modServe d f s).pages = s.pages := rfl
@[simp] theorem modServe_lastErr (d : Nat) (f : Serve → Serve) (s : State) : (modServe d f s).lastErr = s.lastErr := rfl
@[simp] theorem modServe_hiLatch (d : Nat) (f : Serve → Serve) (s : State) : (modServe d f s).hiLatch = s.hiLatch := rfl
@[simp] theorem modServe_loHeld (d : Nat) (f : Serve → Serve) (s : State) : (modServe d f s).loHeld = s.loHeld := rfl
@[simp] theorem modServe_tick (d : Nat) (f : Serve → Serve) (s : State) : (modServe d f s).tick = s.tick := rfl
@[simp] theorem modServe_domains (d : Nat) (f : Serve → Serve) (s : State) : (modServe d f s).domains = s.domains := rfl
@[simp] theorem modServe_timers (d : Nat) (f : Serve → Serve) (s : State) : (modServe d f s).timers = s.timers := rfl
@[simp] theorem modServe_irq (d : Nat) (f : Serve → Serve) (s : State) : (modServe d f s).irq = s.irq := rfl
@[simp] theorem modServe_ledger (d : Nat) (f : Serve → Serve) (s : State) : (modServe d f s).ledger = s.ledger := rfl
@[simp] theorem modServe_route (d : Nat) (f : Serve → Serve) (s : State) : (modServe d f s).route = s.route := rfl
@[simp] theorem modServe_hostbr (d : Nat) (f : Serve → Serve) (s : State) : (modServe d f s).hostbr = s.hostbr := rfl
@[simp] theorem modServe_mem (d : Nat) (f : Serve → Serve) (s : State) : (modServe d f s).mem = s.mem := rfl
@[simp] theorem modServe_berths (d : Nat) (f : Serve → Serve) (s : State) : (modServe d f s).berths = s.berths := rfl
@[simp] theorem modServe_query (d : Nat) (f : Serve → Serve) (s : State) : (modServe d f s).query = s.query := rfl
@[simp] theorem modServe_acct (d : Nat) (f : Serve → Serve) (s : State) : (modServe d f s).acct = s.acct := rfl
@[simp] theorem modServe_weights (d : Nat) (f : Serve → Serve) (s : State) : (modServe d f s).weights = s.weights := rfl
@[simp] theorem modServe_members (d : Nat) (f : Serve → Serve) (s : State) : (modServe d f s).members = s.members := rfl
@[simp] theorem modServe_redctx (d : Nat) (f : Serve → Serve) (s : State) : (modServe d f s).redctx = s.redctx := rfl
@[simp] theorem modServe_reqs (d : Nat) (f : Serve → Serve) (s : State) : (modServe d f s).reqs = s.reqs := rfl
@[simp] theorem modServe_health (d : Nat) (f : Serve → Serve) (s : State) : (modServe d f s).health = s.health := rfl
@[simp] theorem modServe_dies (d : Nat) (f : Serve → Serve) (s : State) : (modServe d f s).dies = s.dies := rfl
@[simp] theorem modServe_ports (d : Nat) (f : Serve → Serve) (s : State) : (modServe d f s).ports = s.ports := rfl
@[simp] theorem modServe_seams (d : Nat) (f : Serve → Serve) (s : State) : (modServe d f s).seams = s.seams := rfl
@[simp] theorem modServe_survive (d : Nat) (f : Serve → Serve) (s : State) : (modServe d f s).survive = s.survive := rfl
@[simp] theorem modServe_hm (d : Nat) (f : Serve → Serve) (s : State) : (modServe d f s).hm = s.hm := rfl
@[simp] theorem modServe_startUp (d : Nat) (f : Serve → Serve) (s : State) : (modServe d f s).startUp = s.startUp := rfl
@[simp] theorem modServe_board (d : Nat) (f : Serve → Serve) (s : State) : (modServe d f s).board = s.board := rfl
@[simp] theorem modServe_power (d : Nat) (f : Serve → Serve) (s : State) : (modServe d f s).power = s.power := rfl
@[simp] theorem addCtr_pending (c i n : Nat) (s : State) : (addCtr c i n s).pending = s.pending := rfl
@[simp] theorem addCtr_outbox (c i n : Nat) (s : State) : (addCtr c i n s).outbox = s.outbox := rfl
@[simp] theorem addCtr_freeCtr (c i n : Nat) (s : State) : (addCtr c i n s).freeCtr = s.freeCtr := rfl
@[simp] theorem addCtr_frameOut (c i n : Nat) (s : State) : (addCtr c i n s).frameOut = s.frameOut := rfl
@[simp] theorem addCtr_frameIds (c i n : Nat) (s : State) : (addCtr c i n s).frameIds = s.frameIds := rfl
@[simp] theorem addCtr_pages (c i n : Nat) (s : State) : (addCtr c i n s).pages = s.pages := rfl
@[simp] theorem addCtr_lastErr (c i n : Nat) (s : State) : (addCtr c i n s).lastErr = s.lastErr := rfl
@[simp] theorem addCtr_hiLatch (c i n : Nat) (s : State) : (addCtr c i n s).hiLatch = s.hiLatch := rfl
@[simp] theorem addCtr_loHeld (c i n : Nat) (s : State) : (addCtr c i n s).loHeld = s.loHeld := rfl
@[simp] theorem addCtr_tick (c i n : Nat) (s : State) : (addCtr c i n s).tick = s.tick := rfl
@[simp] theorem addCtr_domains (c i n : Nat) (s : State) : (addCtr c i n s).domains = s.domains := rfl
@[simp] theorem addCtr_timers (c i n : Nat) (s : State) : (addCtr c i n s).timers = s.timers := rfl
@[simp] theorem addCtr_irq (c i n : Nat) (s : State) : (addCtr c i n s).irq = s.irq := rfl
@[simp] theorem addCtr_ledger (c i n : Nat) (s : State) : (addCtr c i n s).ledger = s.ledger := rfl
@[simp] theorem addCtr_route (c i n : Nat) (s : State) : (addCtr c i n s).route = s.route := rfl
@[simp] theorem addCtr_hostbr (c i n : Nat) (s : State) : (addCtr c i n s).hostbr = s.hostbr := rfl
@[simp] theorem addCtr_mem (c i n : Nat) (s : State) : (addCtr c i n s).mem = s.mem := rfl
@[simp] theorem addCtr_berths (c i n : Nat) (s : State) : (addCtr c i n s).berths = s.berths := rfl
@[simp] theorem addCtr_serve (c i n : Nat) (s : State) : (addCtr c i n s).serve = s.serve := rfl
@[simp] theorem addCtr_query (c i n : Nat) (s : State) : (addCtr c i n s).query = s.query := rfl
@[simp] theorem addCtr_weights (c i n : Nat) (s : State) : (addCtr c i n s).weights = s.weights := rfl
@[simp] theorem addCtr_members (c i n : Nat) (s : State) : (addCtr c i n s).members = s.members := rfl
@[simp] theorem addCtr_redctx (c i n : Nat) (s : State) : (addCtr c i n s).redctx = s.redctx := rfl
@[simp] theorem addCtr_reqs (c i n : Nat) (s : State) : (addCtr c i n s).reqs = s.reqs := rfl
@[simp] theorem addCtr_health (c i n : Nat) (s : State) : (addCtr c i n s).health = s.health := rfl
@[simp] theorem addCtr_dies (c i n : Nat) (s : State) : (addCtr c i n s).dies = s.dies := rfl
@[simp] theorem addCtr_ports (c i n : Nat) (s : State) : (addCtr c i n s).ports = s.ports := rfl
@[simp] theorem addCtr_seams (c i n : Nat) (s : State) : (addCtr c i n s).seams = s.seams := rfl
@[simp] theorem addCtr_survive (c i n : Nat) (s : State) : (addCtr c i n s).survive = s.survive := rfl
@[simp] theorem addCtr_hm (c i n : Nat) (s : State) : (addCtr c i n s).hm = s.hm := rfl
@[simp] theorem addCtr_startUp (c i n : Nat) (s : State) : (addCtr c i n s).startUp = s.startUp := rfl
@[simp] theorem addCtr_board (c i n : Nat) (s : State) : (addCtr c i n s).board = s.board := rfl
@[simp] theorem addCtr_power (c i n : Nat) (s : State) : (addCtr c i n s).power = s.power := rfl
@[simp] theorem setAccrual_pending (d : Nat) (a : Accrual) (s : State) : (setAccrual d a s).pending = s.pending := rfl
@[simp] theorem setAccrual_outbox (d : Nat) (a : Accrual) (s : State) : (setAccrual d a s).outbox = s.outbox := rfl
@[simp] theorem setAccrual_freeCtr (d : Nat) (a : Accrual) (s : State) : (setAccrual d a s).freeCtr = s.freeCtr := rfl
@[simp] theorem setAccrual_frameOut (d : Nat) (a : Accrual) (s : State) : (setAccrual d a s).frameOut = s.frameOut := rfl
@[simp] theorem setAccrual_frameIds (d : Nat) (a : Accrual) (s : State) : (setAccrual d a s).frameIds = s.frameIds := rfl
@[simp] theorem setAccrual_pages (d : Nat) (a : Accrual) (s : State) : (setAccrual d a s).pages = s.pages := rfl
@[simp] theorem setAccrual_lastErr (d : Nat) (a : Accrual) (s : State) : (setAccrual d a s).lastErr = s.lastErr := rfl
@[simp] theorem setAccrual_hiLatch (d : Nat) (a : Accrual) (s : State) : (setAccrual d a s).hiLatch = s.hiLatch := rfl
@[simp] theorem setAccrual_loHeld (d : Nat) (a : Accrual) (s : State) : (setAccrual d a s).loHeld = s.loHeld := rfl
@[simp] theorem setAccrual_tick (d : Nat) (a : Accrual) (s : State) : (setAccrual d a s).tick = s.tick := rfl
@[simp] theorem setAccrual_domains (d : Nat) (a : Accrual) (s : State) : (setAccrual d a s).domains = s.domains := rfl
@[simp] theorem setAccrual_timers (d : Nat) (a : Accrual) (s : State) : (setAccrual d a s).timers = s.timers := rfl
@[simp] theorem setAccrual_irq (d : Nat) (a : Accrual) (s : State) : (setAccrual d a s).irq = s.irq := rfl
@[simp] theorem setAccrual_ledger (d : Nat) (a : Accrual) (s : State) : (setAccrual d a s).ledger = s.ledger := rfl
@[simp] theorem setAccrual_route (d : Nat) (a : Accrual) (s : State) : (setAccrual d a s).route = s.route := rfl
@[simp] theorem setAccrual_hostbr (d : Nat) (a : Accrual) (s : State) : (setAccrual d a s).hostbr = s.hostbr := rfl
@[simp] theorem setAccrual_mem (d : Nat) (a : Accrual) (s : State) : (setAccrual d a s).mem = s.mem := rfl
@[simp] theorem setAccrual_berths (d : Nat) (a : Accrual) (s : State) : (setAccrual d a s).berths = s.berths := rfl
@[simp] theorem setAccrual_serve (d : Nat) (a : Accrual) (s : State) : (setAccrual d a s).serve = s.serve := rfl
@[simp] theorem setAccrual_query (d : Nat) (a : Accrual) (s : State) : (setAccrual d a s).query = s.query := rfl
@[simp] theorem setAccrual_weights (d : Nat) (a : Accrual) (s : State) : (setAccrual d a s).weights = s.weights := rfl
@[simp] theorem setAccrual_members (d : Nat) (a : Accrual) (s : State) : (setAccrual d a s).members = s.members := rfl
@[simp] theorem setAccrual_redctx (d : Nat) (a : Accrual) (s : State) : (setAccrual d a s).redctx = s.redctx := rfl
@[simp] theorem setAccrual_reqs (d : Nat) (a : Accrual) (s : State) : (setAccrual d a s).reqs = s.reqs := rfl
@[simp] theorem setAccrual_health (d : Nat) (a : Accrual) (s : State) : (setAccrual d a s).health = s.health := rfl
@[simp] theorem setAccrual_dies (d : Nat) (a : Accrual) (s : State) : (setAccrual d a s).dies = s.dies := rfl
@[simp] theorem setAccrual_ports (d : Nat) (a : Accrual) (s : State) : (setAccrual d a s).ports = s.ports := rfl
@[simp] theorem setAccrual_seams (d : Nat) (a : Accrual) (s : State) : (setAccrual d a s).seams = s.seams := rfl
@[simp] theorem setAccrual_survive (d : Nat) (a : Accrual) (s : State) : (setAccrual d a s).survive = s.survive := rfl
@[simp] theorem setAccrual_hm (d : Nat) (a : Accrual) (s : State) : (setAccrual d a s).hm = s.hm := rfl
@[simp] theorem setAccrual_startUp (d : Nat) (a : Accrual) (s : State) : (setAccrual d a s).startUp = s.startUp := rfl
@[simp] theorem setAccrual_board (d : Nat) (a : Accrual) (s : State) : (setAccrual d a s).board = s.board := rfl
@[simp] theorem setAccrual_power (d : Nat) (a : Accrual) (s : State) : (setAccrual d a s).power = s.power := rfl
@[simp] theorem accrue_pending (d : Nat) (f : Accrual → Accrual) (s : State) : (accrue d f s).pending = s.pending := rfl
@[simp] theorem accrue_outbox (d : Nat) (f : Accrual → Accrual) (s : State) : (accrue d f s).outbox = s.outbox := rfl
@[simp] theorem accrue_freeCtr (d : Nat) (f : Accrual → Accrual) (s : State) : (accrue d f s).freeCtr = s.freeCtr := rfl
@[simp] theorem accrue_frameOut (d : Nat) (f : Accrual → Accrual) (s : State) : (accrue d f s).frameOut = s.frameOut := rfl
@[simp] theorem accrue_frameIds (d : Nat) (f : Accrual → Accrual) (s : State) : (accrue d f s).frameIds = s.frameIds := rfl
@[simp] theorem accrue_pages (d : Nat) (f : Accrual → Accrual) (s : State) : (accrue d f s).pages = s.pages := rfl
@[simp] theorem accrue_lastErr (d : Nat) (f : Accrual → Accrual) (s : State) : (accrue d f s).lastErr = s.lastErr := rfl
@[simp] theorem accrue_hiLatch (d : Nat) (f : Accrual → Accrual) (s : State) : (accrue d f s).hiLatch = s.hiLatch := rfl
@[simp] theorem accrue_loHeld (d : Nat) (f : Accrual → Accrual) (s : State) : (accrue d f s).loHeld = s.loHeld := rfl
@[simp] theorem accrue_tick (d : Nat) (f : Accrual → Accrual) (s : State) : (accrue d f s).tick = s.tick := rfl
@[simp] theorem accrue_domains (d : Nat) (f : Accrual → Accrual) (s : State) : (accrue d f s).domains = s.domains := rfl
@[simp] theorem accrue_timers (d : Nat) (f : Accrual → Accrual) (s : State) : (accrue d f s).timers = s.timers := rfl
@[simp] theorem accrue_irq (d : Nat) (f : Accrual → Accrual) (s : State) : (accrue d f s).irq = s.irq := rfl
@[simp] theorem accrue_ledger (d : Nat) (f : Accrual → Accrual) (s : State) : (accrue d f s).ledger = s.ledger := rfl
@[simp] theorem accrue_route (d : Nat) (f : Accrual → Accrual) (s : State) : (accrue d f s).route = s.route := rfl
@[simp] theorem accrue_hostbr (d : Nat) (f : Accrual → Accrual) (s : State) : (accrue d f s).hostbr = s.hostbr := rfl
@[simp] theorem accrue_mem (d : Nat) (f : Accrual → Accrual) (s : State) : (accrue d f s).mem = s.mem := rfl
@[simp] theorem accrue_berths (d : Nat) (f : Accrual → Accrual) (s : State) : (accrue d f s).berths = s.berths := rfl
@[simp] theorem accrue_serve (d : Nat) (f : Accrual → Accrual) (s : State) : (accrue d f s).serve = s.serve := rfl
@[simp] theorem accrue_query (d : Nat) (f : Accrual → Accrual) (s : State) : (accrue d f s).query = s.query := rfl
@[simp] theorem accrue_weights (d : Nat) (f : Accrual → Accrual) (s : State) : (accrue d f s).weights = s.weights := rfl
@[simp] theorem accrue_members (d : Nat) (f : Accrual → Accrual) (s : State) : (accrue d f s).members = s.members := rfl
@[simp] theorem accrue_redctx (d : Nat) (f : Accrual → Accrual) (s : State) : (accrue d f s).redctx = s.redctx := rfl
@[simp] theorem accrue_reqs (d : Nat) (f : Accrual → Accrual) (s : State) : (accrue d f s).reqs = s.reqs := rfl
@[simp] theorem accrue_health (d : Nat) (f : Accrual → Accrual) (s : State) : (accrue d f s).health = s.health := rfl
@[simp] theorem accrue_dies (d : Nat) (f : Accrual → Accrual) (s : State) : (accrue d f s).dies = s.dies := rfl
@[simp] theorem accrue_ports (d : Nat) (f : Accrual → Accrual) (s : State) : (accrue d f s).ports = s.ports := rfl
@[simp] theorem accrue_seams (d : Nat) (f : Accrual → Accrual) (s : State) : (accrue d f s).seams = s.seams := rfl
@[simp] theorem accrue_survive (d : Nat) (f : Accrual → Accrual) (s : State) : (accrue d f s).survive = s.survive := rfl
@[simp] theorem accrue_hm (d : Nat) (f : Accrual → Accrual) (s : State) : (accrue d f s).hm = s.hm := rfl
@[simp] theorem accrue_startUp (d : Nat) (f : Accrual → Accrual) (s : State) : (accrue d f s).startUp = s.startUp := rfl
@[simp] theorem accrue_board (d : Nat) (f : Accrual → Accrual) (s : State) : (accrue d f s).board = s.board := rfl
@[simp] theorem accrue_power (d : Nat) (f : Accrual → Accrual) (s : State) : (accrue d f s).power = s.power := rfl
@[simp] theorem accrueLate_pending (c : Nat) (f : Accrual → Accrual) (s : State) : (accrueLate c f s).pending = s.pending := rfl
@[simp] theorem accrueLate_outbox (c : Nat) (f : Accrual → Accrual) (s : State) : (accrueLate c f s).outbox = s.outbox := rfl
@[simp] theorem accrueLate_freeCtr (c : Nat) (f : Accrual → Accrual) (s : State) : (accrueLate c f s).freeCtr = s.freeCtr := rfl
@[simp] theorem accrueLate_frameOut (c : Nat) (f : Accrual → Accrual) (s : State) : (accrueLate c f s).frameOut = s.frameOut := rfl
@[simp] theorem accrueLate_frameIds (c : Nat) (f : Accrual → Accrual) (s : State) : (accrueLate c f s).frameIds = s.frameIds := rfl
@[simp] theorem accrueLate_pages (c : Nat) (f : Accrual → Accrual) (s : State) : (accrueLate c f s).pages = s.pages := rfl
@[simp] theorem accrueLate_lastErr (c : Nat) (f : Accrual → Accrual) (s : State) : (accrueLate c f s).lastErr = s.lastErr := rfl
@[simp] theorem accrueLate_hiLatch (c : Nat) (f : Accrual → Accrual) (s : State) : (accrueLate c f s).hiLatch = s.hiLatch := rfl
@[simp] theorem accrueLate_loHeld (c : Nat) (f : Accrual → Accrual) (s : State) : (accrueLate c f s).loHeld = s.loHeld := rfl
@[simp] theorem accrueLate_tick (c : Nat) (f : Accrual → Accrual) (s : State) : (accrueLate c f s).tick = s.tick := rfl
@[simp] theorem accrueLate_domains (c : Nat) (f : Accrual → Accrual) (s : State) : (accrueLate c f s).domains = s.domains := rfl
@[simp] theorem accrueLate_timers (c : Nat) (f : Accrual → Accrual) (s : State) : (accrueLate c f s).timers = s.timers := rfl
@[simp] theorem accrueLate_irq (c : Nat) (f : Accrual → Accrual) (s : State) : (accrueLate c f s).irq = s.irq := rfl
@[simp] theorem accrueLate_ledger (c : Nat) (f : Accrual → Accrual) (s : State) : (accrueLate c f s).ledger = s.ledger := rfl
@[simp] theorem accrueLate_route (c : Nat) (f : Accrual → Accrual) (s : State) : (accrueLate c f s).route = s.route := rfl
@[simp] theorem accrueLate_hostbr (c : Nat) (f : Accrual → Accrual) (s : State) : (accrueLate c f s).hostbr = s.hostbr := rfl
@[simp] theorem accrueLate_mem (c : Nat) (f : Accrual → Accrual) (s : State) : (accrueLate c f s).mem = s.mem := rfl
@[simp] theorem accrueLate_berths (c : Nat) (f : Accrual → Accrual) (s : State) : (accrueLate c f s).berths = s.berths := rfl
@[simp] theorem accrueLate_serve (c : Nat) (f : Accrual → Accrual) (s : State) : (accrueLate c f s).serve = s.serve := rfl
@[simp] theorem accrueLate_query (c : Nat) (f : Accrual → Accrual) (s : State) : (accrueLate c f s).query = s.query := rfl
@[simp] theorem accrueLate_weights (c : Nat) (f : Accrual → Accrual) (s : State) : (accrueLate c f s).weights = s.weights := rfl
@[simp] theorem accrueLate_members (c : Nat) (f : Accrual → Accrual) (s : State) : (accrueLate c f s).members = s.members := rfl
@[simp] theorem accrueLate_redctx (c : Nat) (f : Accrual → Accrual) (s : State) : (accrueLate c f s).redctx = s.redctx := rfl
@[simp] theorem accrueLate_reqs (c : Nat) (f : Accrual → Accrual) (s : State) : (accrueLate c f s).reqs = s.reqs := rfl
@[simp] theorem accrueLate_health (c : Nat) (f : Accrual → Accrual) (s : State) : (accrueLate c f s).health = s.health := rfl
@[simp] theorem accrueLate_dies (c : Nat) (f : Accrual → Accrual) (s : State) : (accrueLate c f s).dies = s.dies := rfl
@[simp] theorem accrueLate_ports (c : Nat) (f : Accrual → Accrual) (s : State) : (accrueLate c f s).ports = s.ports := rfl
@[simp] theorem accrueLate_seams (c : Nat) (f : Accrual → Accrual) (s : State) : (accrueLate c f s).seams = s.seams := rfl
@[simp] theorem accrueLate_survive (c : Nat) (f : Accrual → Accrual) (s : State) : (accrueLate c f s).survive = s.survive := rfl
@[simp] theorem accrueLate_hm (c : Nat) (f : Accrual → Accrual) (s : State) : (accrueLate c f s).hm = s.hm := rfl
@[simp] theorem accrueLate_startUp (c : Nat) (f : Accrual → Accrual) (s : State) : (accrueLate c f s).startUp = s.startUp := rfl
@[simp] theorem accrueLate_board (c : Nat) (f : Accrual → Accrual) (s : State) : (accrueLate c f s).board = s.board := rfl
@[simp] theorem accrueLate_power (c : Nat) (f : Accrual → Accrual) (s : State) : (accrueLate c f s).power = s.power := rfl
@[simp] theorem addAct_pending (c n : Nat) (s : State) : (addAct c n s).pending = s.pending := rfl
@[simp] theorem addAct_outbox (c n : Nat) (s : State) : (addAct c n s).outbox = s.outbox := rfl
@[simp] theorem addAct_freeCtr (c n : Nat) (s : State) : (addAct c n s).freeCtr = s.freeCtr := rfl
@[simp] theorem addAct_frameOut (c n : Nat) (s : State) : (addAct c n s).frameOut = s.frameOut := rfl
@[simp] theorem addAct_frameIds (c n : Nat) (s : State) : (addAct c n s).frameIds = s.frameIds := rfl
@[simp] theorem addAct_pages (c n : Nat) (s : State) : (addAct c n s).pages = s.pages := rfl
@[simp] theorem addAct_lastErr (c n : Nat) (s : State) : (addAct c n s).lastErr = s.lastErr := rfl
@[simp] theorem addAct_hiLatch (c n : Nat) (s : State) : (addAct c n s).hiLatch = s.hiLatch := rfl
@[simp] theorem addAct_loHeld (c n : Nat) (s : State) : (addAct c n s).loHeld = s.loHeld := rfl
@[simp] theorem addAct_tick (c n : Nat) (s : State) : (addAct c n s).tick = s.tick := rfl
@[simp] theorem addAct_domains (c n : Nat) (s : State) : (addAct c n s).domains = s.domains := rfl
@[simp] theorem addAct_timers (c n : Nat) (s : State) : (addAct c n s).timers = s.timers := rfl
@[simp] theorem addAct_irq (c n : Nat) (s : State) : (addAct c n s).irq = s.irq := rfl
@[simp] theorem addAct_ledger (c n : Nat) (s : State) : (addAct c n s).ledger = s.ledger := rfl
@[simp] theorem addAct_route (c n : Nat) (s : State) : (addAct c n s).route = s.route := rfl
@[simp] theorem addAct_hostbr (c n : Nat) (s : State) : (addAct c n s).hostbr = s.hostbr := rfl
@[simp] theorem addAct_mem (c n : Nat) (s : State) : (addAct c n s).mem = s.mem := rfl
@[simp] theorem addAct_berths (c n : Nat) (s : State) : (addAct c n s).berths = s.berths := rfl
@[simp] theorem addAct_serve (c n : Nat) (s : State) : (addAct c n s).serve = s.serve := rfl
@[simp] theorem addAct_query (c n : Nat) (s : State) : (addAct c n s).query = s.query := rfl
@[simp] theorem addAct_weights (c n : Nat) (s : State) : (addAct c n s).weights = s.weights := rfl
@[simp] theorem addAct_members (c n : Nat) (s : State) : (addAct c n s).members = s.members := rfl
@[simp] theorem addAct_redctx (c n : Nat) (s : State) : (addAct c n s).redctx = s.redctx := rfl
@[simp] theorem addAct_reqs (c n : Nat) (s : State) : (addAct c n s).reqs = s.reqs := rfl
@[simp] theorem addAct_health (c n : Nat) (s : State) : (addAct c n s).health = s.health := rfl
@[simp] theorem addAct_dies (c n : Nat) (s : State) : (addAct c n s).dies = s.dies := rfl
@[simp] theorem addAct_ports (c n : Nat) (s : State) : (addAct c n s).ports = s.ports := rfl
@[simp] theorem addAct_seams (c n : Nat) (s : State) : (addAct c n s).seams = s.seams := rfl
@[simp] theorem addAct_survive (c n : Nat) (s : State) : (addAct c n s).survive = s.survive := rfl
@[simp] theorem addAct_hm (c n : Nat) (s : State) : (addAct c n s).hm = s.hm := rfl
@[simp] theorem addAct_startUp (c n : Nat) (s : State) : (addAct c n s).startUp = s.startUp := rfl
@[simp] theorem addAct_board (c n : Nat) (s : State) : (addAct c n s).board = s.board := rfl
@[simp] theorem addAct_power (c n : Nat) (s : State) : (addAct c n s).power = s.power := rfl
@[simp] theorem setHealth_pending (h : Health) (s : State) : (setHealth h s).pending = s.pending := rfl
@[simp] theorem setHealth_outbox (h : Health) (s : State) : (setHealth h s).outbox = s.outbox := rfl
@[simp] theorem setHealth_freeCtr (h : Health) (s : State) : (setHealth h s).freeCtr = s.freeCtr := rfl
@[simp] theorem setHealth_frameOut (h : Health) (s : State) : (setHealth h s).frameOut = s.frameOut := rfl
@[simp] theorem setHealth_frameIds (h : Health) (s : State) : (setHealth h s).frameIds = s.frameIds := rfl
@[simp] theorem setHealth_pages (h : Health) (s : State) : (setHealth h s).pages = s.pages := rfl
@[simp] theorem setHealth_lastErr (h : Health) (s : State) : (setHealth h s).lastErr = s.lastErr := rfl
@[simp] theorem setHealth_hiLatch (h : Health) (s : State) : (setHealth h s).hiLatch = s.hiLatch := rfl
@[simp] theorem setHealth_loHeld (h : Health) (s : State) : (setHealth h s).loHeld = s.loHeld := rfl
@[simp] theorem setHealth_tick (h : Health) (s : State) : (setHealth h s).tick = s.tick := rfl
@[simp] theorem setHealth_domains (h : Health) (s : State) : (setHealth h s).domains = s.domains := rfl
@[simp] theorem setHealth_timers (h : Health) (s : State) : (setHealth h s).timers = s.timers := rfl
@[simp] theorem setHealth_irq (h : Health) (s : State) : (setHealth h s).irq = s.irq := rfl
@[simp] theorem setHealth_ledger (h : Health) (s : State) : (setHealth h s).ledger = s.ledger := rfl
@[simp] theorem setHealth_route (h : Health) (s : State) : (setHealth h s).route = s.route := rfl
@[simp] theorem setHealth_hostbr (h : Health) (s : State) : (setHealth h s).hostbr = s.hostbr := rfl
@[simp] theorem setHealth_mem (h : Health) (s : State) : (setHealth h s).mem = s.mem := rfl
@[simp] theorem setHealth_berths (h : Health) (s : State) : (setHealth h s).berths = s.berths := rfl
@[simp] theorem setHealth_serve (h : Health) (s : State) : (setHealth h s).serve = s.serve := rfl
@[simp] theorem setHealth_query (h : Health) (s : State) : (setHealth h s).query = s.query := rfl
@[simp] theorem setHealth_acct (h : Health) (s : State) : (setHealth h s).acct = s.acct := rfl
@[simp] theorem setHealth_weights (h : Health) (s : State) : (setHealth h s).weights = s.weights := rfl
@[simp] theorem setHealth_members (h : Health) (s : State) : (setHealth h s).members = s.members := rfl
@[simp] theorem setHealth_redctx (h : Health) (s : State) : (setHealth h s).redctx = s.redctx := rfl
@[simp] theorem setHealth_reqs (h : Health) (s : State) : (setHealth h s).reqs = s.reqs := rfl
@[simp] theorem setHealth_dies (h : Health) (s : State) : (setHealth h s).dies = s.dies := rfl
@[simp] theorem setHealth_ports (h : Health) (s : State) : (setHealth h s).ports = s.ports := rfl
@[simp] theorem setHealth_seams (h : Health) (s : State) : (setHealth h s).seams = s.seams := rfl
@[simp] theorem setHealth_survive (h : Health) (s : State) : (setHealth h s).survive = s.survive := rfl
@[simp] theorem setHealth_hm (h : Health) (s : State) : (setHealth h s).hm = s.hm := rfl
@[simp] theorem setHealth_startUp (h : Health) (s : State) : (setHealth h s).startUp = s.startUp := rfl
@[simp] theorem setHealth_board (h : Health) (s : State) : (setHealth h s).board = s.board := rfl
@[simp] theorem setHealth_power (h : Health) (s : State) : (setHealth h s).power = s.power := rfl
@[simp] theorem setWeights_pending (w : Weights) (s : State) : (setWeights w s).pending = s.pending := rfl
@[simp] theorem setWeights_outbox (w : Weights) (s : State) : (setWeights w s).outbox = s.outbox := rfl
@[simp] theorem setWeights_freeCtr (w : Weights) (s : State) : (setWeights w s).freeCtr = s.freeCtr := rfl
@[simp] theorem setWeights_frameOut (w : Weights) (s : State) : (setWeights w s).frameOut = s.frameOut := rfl
@[simp] theorem setWeights_frameIds (w : Weights) (s : State) : (setWeights w s).frameIds = s.frameIds := rfl
@[simp] theorem setWeights_pages (w : Weights) (s : State) : (setWeights w s).pages = s.pages := rfl
@[simp] theorem setWeights_lastErr (w : Weights) (s : State) : (setWeights w s).lastErr = s.lastErr := rfl
@[simp] theorem setWeights_hiLatch (w : Weights) (s : State) : (setWeights w s).hiLatch = s.hiLatch := rfl
@[simp] theorem setWeights_loHeld (w : Weights) (s : State) : (setWeights w s).loHeld = s.loHeld := rfl
@[simp] theorem setWeights_tick (w : Weights) (s : State) : (setWeights w s).tick = s.tick := rfl
@[simp] theorem setWeights_domains (w : Weights) (s : State) : (setWeights w s).domains = s.domains := rfl
@[simp] theorem setWeights_timers (w : Weights) (s : State) : (setWeights w s).timers = s.timers := rfl
@[simp] theorem setWeights_irq (w : Weights) (s : State) : (setWeights w s).irq = s.irq := rfl
@[simp] theorem setWeights_ledger (w : Weights) (s : State) : (setWeights w s).ledger = s.ledger := rfl
@[simp] theorem setWeights_route (w : Weights) (s : State) : (setWeights w s).route = s.route := rfl
@[simp] theorem setWeights_hostbr (w : Weights) (s : State) : (setWeights w s).hostbr = s.hostbr := rfl
@[simp] theorem setWeights_mem (w : Weights) (s : State) : (setWeights w s).mem = s.mem := rfl
@[simp] theorem setWeights_berths (w : Weights) (s : State) : (setWeights w s).berths = s.berths := rfl
@[simp] theorem setWeights_serve (w : Weights) (s : State) : (setWeights w s).serve = s.serve := rfl
@[simp] theorem setWeights_query (w : Weights) (s : State) : (setWeights w s).query = s.query := rfl
@[simp] theorem setWeights_acct (w : Weights) (s : State) : (setWeights w s).acct = s.acct := rfl
@[simp] theorem setWeights_members (w : Weights) (s : State) : (setWeights w s).members = s.members := rfl
@[simp] theorem setWeights_redctx (w : Weights) (s : State) : (setWeights w s).redctx = s.redctx := rfl
@[simp] theorem setWeights_reqs (w : Weights) (s : State) : (setWeights w s).reqs = s.reqs := rfl
@[simp] theorem setWeights_health (w : Weights) (s : State) : (setWeights w s).health = s.health := rfl
@[simp] theorem setWeights_dies (w : Weights) (s : State) : (setWeights w s).dies = s.dies := rfl
@[simp] theorem setWeights_ports (w : Weights) (s : State) : (setWeights w s).ports = s.ports := rfl
@[simp] theorem setWeights_seams (w : Weights) (s : State) : (setWeights w s).seams = s.seams := rfl
@[simp] theorem setWeights_survive (w : Weights) (s : State) : (setWeights w s).survive = s.survive := rfl
@[simp] theorem setWeights_hm (w : Weights) (s : State) : (setWeights w s).hm = s.hm := rfl
@[simp] theorem setWeights_startUp (w : Weights) (s : State) : (setWeights w s).startUp = s.startUp := rfl
@[simp] theorem setWeights_board (w : Weights) (s : State) : (setWeights w s).board = s.board := rfl
@[simp] theorem setWeights_power (w : Weights) (s : State) : (setWeights w s).power = s.power := rfl
@[simp] theorem setSlot_pending (k : Nat) (x : WsSlot) (s : State) : (setSlot k x s).pending = s.pending := rfl
@[simp] theorem setSlot_outbox (k : Nat) (x : WsSlot) (s : State) : (setSlot k x s).outbox = s.outbox := rfl
@[simp] theorem setSlot_freeCtr (k : Nat) (x : WsSlot) (s : State) : (setSlot k x s).freeCtr = s.freeCtr := rfl
@[simp] theorem setSlot_frameOut (k : Nat) (x : WsSlot) (s : State) : (setSlot k x s).frameOut = s.frameOut := rfl
@[simp] theorem setSlot_frameIds (k : Nat) (x : WsSlot) (s : State) : (setSlot k x s).frameIds = s.frameIds := rfl
@[simp] theorem setSlot_pages (k : Nat) (x : WsSlot) (s : State) : (setSlot k x s).pages = s.pages := rfl
@[simp] theorem setSlot_lastErr (k : Nat) (x : WsSlot) (s : State) : (setSlot k x s).lastErr = s.lastErr := rfl
@[simp] theorem setSlot_hiLatch (k : Nat) (x : WsSlot) (s : State) : (setSlot k x s).hiLatch = s.hiLatch := rfl
@[simp] theorem setSlot_loHeld (k : Nat) (x : WsSlot) (s : State) : (setSlot k x s).loHeld = s.loHeld := rfl
@[simp] theorem setSlot_tick (k : Nat) (x : WsSlot) (s : State) : (setSlot k x s).tick = s.tick := rfl
@[simp] theorem setSlot_domains (k : Nat) (x : WsSlot) (s : State) : (setSlot k x s).domains = s.domains := rfl
@[simp] theorem setSlot_timers (k : Nat) (x : WsSlot) (s : State) : (setSlot k x s).timers = s.timers := rfl
@[simp] theorem setSlot_irq (k : Nat) (x : WsSlot) (s : State) : (setSlot k x s).irq = s.irq := rfl
@[simp] theorem setSlot_ledger (k : Nat) (x : WsSlot) (s : State) : (setSlot k x s).ledger = s.ledger := rfl
@[simp] theorem setSlot_route (k : Nat) (x : WsSlot) (s : State) : (setSlot k x s).route = s.route := rfl
@[simp] theorem setSlot_hostbr (k : Nat) (x : WsSlot) (s : State) : (setSlot k x s).hostbr = s.hostbr := rfl
@[simp] theorem setSlot_mem (k : Nat) (x : WsSlot) (s : State) : (setSlot k x s).mem = s.mem := rfl
@[simp] theorem setSlot_berths (k : Nat) (x : WsSlot) (s : State) : (setSlot k x s).berths = s.berths := rfl
@[simp] theorem setSlot_serve (k : Nat) (x : WsSlot) (s : State) : (setSlot k x s).serve = s.serve := rfl
@[simp] theorem setSlot_query (k : Nat) (x : WsSlot) (s : State) : (setSlot k x s).query = s.query := rfl
@[simp] theorem setSlot_acct (k : Nat) (x : WsSlot) (s : State) : (setSlot k x s).acct = s.acct := rfl
@[simp] theorem setSlot_members (k : Nat) (x : WsSlot) (s : State) : (setSlot k x s).members = s.members := rfl
@[simp] theorem setSlot_redctx (k : Nat) (x : WsSlot) (s : State) : (setSlot k x s).redctx = s.redctx := rfl
@[simp] theorem setSlot_reqs (k : Nat) (x : WsSlot) (s : State) : (setSlot k x s).reqs = s.reqs := rfl
@[simp] theorem setSlot_health (k : Nat) (x : WsSlot) (s : State) : (setSlot k x s).health = s.health := rfl
@[simp] theorem setSlot_dies (k : Nat) (x : WsSlot) (s : State) : (setSlot k x s).dies = s.dies := rfl
@[simp] theorem setSlot_ports (k : Nat) (x : WsSlot) (s : State) : (setSlot k x s).ports = s.ports := rfl
@[simp] theorem setSlot_seams (k : Nat) (x : WsSlot) (s : State) : (setSlot k x s).seams = s.seams := rfl
@[simp] theorem setSlot_survive (k : Nat) (x : WsSlot) (s : State) : (setSlot k x s).survive = s.survive := rfl
@[simp] theorem setSlot_hm (k : Nat) (x : WsSlot) (s : State) : (setSlot k x s).hm = s.hm := rfl
@[simp] theorem setSlot_startUp (k : Nat) (x : WsSlot) (s : State) : (setSlot k x s).startUp = s.startUp := rfl
@[simp] theorem setSlot_board (k : Nat) (x : WsSlot) (s : State) : (setSlot k x s).board = s.board := rfl
@[simp] theorem setSlot_power (k : Nat) (x : WsSlot) (s : State) : (setSlot k x s).power = s.power := rfl
@[simp] theorem modSlot_pending (k : Nat) (f : WsSlot → WsSlot) (s : State) : (modSlot k f s).pending = s.pending := rfl
@[simp] theorem modSlot_outbox (k : Nat) (f : WsSlot → WsSlot) (s : State) : (modSlot k f s).outbox = s.outbox := rfl
@[simp] theorem modSlot_freeCtr (k : Nat) (f : WsSlot → WsSlot) (s : State) : (modSlot k f s).freeCtr = s.freeCtr := rfl
@[simp] theorem modSlot_frameOut (k : Nat) (f : WsSlot → WsSlot) (s : State) : (modSlot k f s).frameOut = s.frameOut := rfl
@[simp] theorem modSlot_frameIds (k : Nat) (f : WsSlot → WsSlot) (s : State) : (modSlot k f s).frameIds = s.frameIds := rfl
@[simp] theorem modSlot_pages (k : Nat) (f : WsSlot → WsSlot) (s : State) : (modSlot k f s).pages = s.pages := rfl
@[simp] theorem modSlot_lastErr (k : Nat) (f : WsSlot → WsSlot) (s : State) : (modSlot k f s).lastErr = s.lastErr := rfl
@[simp] theorem modSlot_hiLatch (k : Nat) (f : WsSlot → WsSlot) (s : State) : (modSlot k f s).hiLatch = s.hiLatch := rfl
@[simp] theorem modSlot_loHeld (k : Nat) (f : WsSlot → WsSlot) (s : State) : (modSlot k f s).loHeld = s.loHeld := rfl
@[simp] theorem modSlot_tick (k : Nat) (f : WsSlot → WsSlot) (s : State) : (modSlot k f s).tick = s.tick := rfl
@[simp] theorem modSlot_domains (k : Nat) (f : WsSlot → WsSlot) (s : State) : (modSlot k f s).domains = s.domains := rfl
@[simp] theorem modSlot_timers (k : Nat) (f : WsSlot → WsSlot) (s : State) : (modSlot k f s).timers = s.timers := rfl
@[simp] theorem modSlot_irq (k : Nat) (f : WsSlot → WsSlot) (s : State) : (modSlot k f s).irq = s.irq := rfl
@[simp] theorem modSlot_ledger (k : Nat) (f : WsSlot → WsSlot) (s : State) : (modSlot k f s).ledger = s.ledger := rfl
@[simp] theorem modSlot_route (k : Nat) (f : WsSlot → WsSlot) (s : State) : (modSlot k f s).route = s.route := rfl
@[simp] theorem modSlot_hostbr (k : Nat) (f : WsSlot → WsSlot) (s : State) : (modSlot k f s).hostbr = s.hostbr := rfl
@[simp] theorem modSlot_mem (k : Nat) (f : WsSlot → WsSlot) (s : State) : (modSlot k f s).mem = s.mem := rfl
@[simp] theorem modSlot_berths (k : Nat) (f : WsSlot → WsSlot) (s : State) : (modSlot k f s).berths = s.berths := rfl
@[simp] theorem modSlot_serve (k : Nat) (f : WsSlot → WsSlot) (s : State) : (modSlot k f s).serve = s.serve := rfl
@[simp] theorem modSlot_query (k : Nat) (f : WsSlot → WsSlot) (s : State) : (modSlot k f s).query = s.query := rfl
@[simp] theorem modSlot_acct (k : Nat) (f : WsSlot → WsSlot) (s : State) : (modSlot k f s).acct = s.acct := rfl
@[simp] theorem modSlot_members (k : Nat) (f : WsSlot → WsSlot) (s : State) : (modSlot k f s).members = s.members := rfl
@[simp] theorem modSlot_redctx (k : Nat) (f : WsSlot → WsSlot) (s : State) : (modSlot k f s).redctx = s.redctx := rfl
@[simp] theorem modSlot_reqs (k : Nat) (f : WsSlot → WsSlot) (s : State) : (modSlot k f s).reqs = s.reqs := rfl
@[simp] theorem modSlot_health (k : Nat) (f : WsSlot → WsSlot) (s : State) : (modSlot k f s).health = s.health := rfl
@[simp] theorem modSlot_dies (k : Nat) (f : WsSlot → WsSlot) (s : State) : (modSlot k f s).dies = s.dies := rfl
@[simp] theorem modSlot_ports (k : Nat) (f : WsSlot → WsSlot) (s : State) : (modSlot k f s).ports = s.ports := rfl
@[simp] theorem modSlot_seams (k : Nat) (f : WsSlot → WsSlot) (s : State) : (modSlot k f s).seams = s.seams := rfl
@[simp] theorem modSlot_survive (k : Nat) (f : WsSlot → WsSlot) (s : State) : (modSlot k f s).survive = s.survive := rfl
@[simp] theorem modSlot_hm (k : Nat) (f : WsSlot → WsSlot) (s : State) : (modSlot k f s).hm = s.hm := rfl
@[simp] theorem modSlot_startUp (k : Nat) (f : WsSlot → WsSlot) (s : State) : (modSlot k f s).startUp = s.startUp := rfl
@[simp] theorem modSlot_board (k : Nat) (f : WsSlot → WsSlot) (s : State) : (modSlot k f s).board = s.board := rfl
@[simp] theorem modSlot_power (k : Nat) (f : WsSlot → WsSlot) (s : State) : (modSlot k f s).power = s.power := rfl
@[simp] theorem setSurvive_pending (p : SurvivePage) (s : State) : (setSurvive p s).pending = s.pending := rfl
@[simp] theorem setSurvive_outbox (p : SurvivePage) (s : State) : (setSurvive p s).outbox = s.outbox := rfl
@[simp] theorem setSurvive_freeCtr (p : SurvivePage) (s : State) : (setSurvive p s).freeCtr = s.freeCtr := rfl
@[simp] theorem setSurvive_frameOut (p : SurvivePage) (s : State) : (setSurvive p s).frameOut = s.frameOut := rfl
@[simp] theorem setSurvive_frameIds (p : SurvivePage) (s : State) : (setSurvive p s).frameIds = s.frameIds := rfl
@[simp] theorem setSurvive_pages (p : SurvivePage) (s : State) : (setSurvive p s).pages = s.pages := rfl
@[simp] theorem setSurvive_lastErr (p : SurvivePage) (s : State) : (setSurvive p s).lastErr = s.lastErr := rfl
@[simp] theorem setSurvive_hiLatch (p : SurvivePage) (s : State) : (setSurvive p s).hiLatch = s.hiLatch := rfl
@[simp] theorem setSurvive_loHeld (p : SurvivePage) (s : State) : (setSurvive p s).loHeld = s.loHeld := rfl
@[simp] theorem setSurvive_tick (p : SurvivePage) (s : State) : (setSurvive p s).tick = s.tick := rfl
@[simp] theorem setSurvive_domains (p : SurvivePage) (s : State) : (setSurvive p s).domains = s.domains := rfl
@[simp] theorem setSurvive_timers (p : SurvivePage) (s : State) : (setSurvive p s).timers = s.timers := rfl
@[simp] theorem setSurvive_irq (p : SurvivePage) (s : State) : (setSurvive p s).irq = s.irq := rfl
@[simp] theorem setSurvive_ledger (p : SurvivePage) (s : State) : (setSurvive p s).ledger = s.ledger := rfl
@[simp] theorem setSurvive_route (p : SurvivePage) (s : State) : (setSurvive p s).route = s.route := rfl
@[simp] theorem setSurvive_hostbr (p : SurvivePage) (s : State) : (setSurvive p s).hostbr = s.hostbr := rfl
@[simp] theorem setSurvive_mem (p : SurvivePage) (s : State) : (setSurvive p s).mem = s.mem := rfl
@[simp] theorem setSurvive_berths (p : SurvivePage) (s : State) : (setSurvive p s).berths = s.berths := rfl
@[simp] theorem setSurvive_serve (p : SurvivePage) (s : State) : (setSurvive p s).serve = s.serve := rfl
@[simp] theorem setSurvive_query (p : SurvivePage) (s : State) : (setSurvive p s).query = s.query := rfl
@[simp] theorem setSurvive_acct (p : SurvivePage) (s : State) : (setSurvive p s).acct = s.acct := rfl
@[simp] theorem setSurvive_weights (p : SurvivePage) (s : State) : (setSurvive p s).weights = s.weights := rfl
@[simp] theorem setSurvive_members (p : SurvivePage) (s : State) : (setSurvive p s).members = s.members := rfl
@[simp] theorem setSurvive_redctx (p : SurvivePage) (s : State) : (setSurvive p s).redctx = s.redctx := rfl
@[simp] theorem setSurvive_reqs (p : SurvivePage) (s : State) : (setSurvive p s).reqs = s.reqs := rfl
@[simp] theorem setSurvive_health (p : SurvivePage) (s : State) : (setSurvive p s).health = s.health := rfl
@[simp] theorem setSurvive_dies (p : SurvivePage) (s : State) : (setSurvive p s).dies = s.dies := rfl
@[simp] theorem setSurvive_ports (p : SurvivePage) (s : State) : (setSurvive p s).ports = s.ports := rfl
@[simp] theorem setSurvive_seams (p : SurvivePage) (s : State) : (setSurvive p s).seams = s.seams := rfl
@[simp] theorem setSurvive_hm (p : SurvivePage) (s : State) : (setSurvive p s).hm = s.hm := rfl
@[simp] theorem setSurvive_startUp (p : SurvivePage) (s : State) : (setSurvive p s).startUp = s.startUp := rfl
@[simp] theorem setSurvive_board (p : SurvivePage) (s : State) : (setSurvive p s).board = s.board := rfl
@[simp] theorem setSurvive_power (p : SurvivePage) (s : State) : (setSurvive p s).power = s.power := rfl
@[simp] theorem setSurv_pending (d : Nat) (x : Survive) (s : State) : (setSurv d x s).pending = s.pending := rfl
@[simp] theorem setSurv_outbox (d : Nat) (x : Survive) (s : State) : (setSurv d x s).outbox = s.outbox := rfl
@[simp] theorem setSurv_freeCtr (d : Nat) (x : Survive) (s : State) : (setSurv d x s).freeCtr = s.freeCtr := rfl
@[simp] theorem setSurv_frameOut (d : Nat) (x : Survive) (s : State) : (setSurv d x s).frameOut = s.frameOut := rfl
@[simp] theorem setSurv_frameIds (d : Nat) (x : Survive) (s : State) : (setSurv d x s).frameIds = s.frameIds := rfl
@[simp] theorem setSurv_pages (d : Nat) (x : Survive) (s : State) : (setSurv d x s).pages = s.pages := rfl
@[simp] theorem setSurv_lastErr (d : Nat) (x : Survive) (s : State) : (setSurv d x s).lastErr = s.lastErr := rfl
@[simp] theorem setSurv_hiLatch (d : Nat) (x : Survive) (s : State) : (setSurv d x s).hiLatch = s.hiLatch := rfl
@[simp] theorem setSurv_loHeld (d : Nat) (x : Survive) (s : State) : (setSurv d x s).loHeld = s.loHeld := rfl
@[simp] theorem setSurv_tick (d : Nat) (x : Survive) (s : State) : (setSurv d x s).tick = s.tick := rfl
@[simp] theorem setSurv_domains (d : Nat) (x : Survive) (s : State) : (setSurv d x s).domains = s.domains := rfl
@[simp] theorem setSurv_timers (d : Nat) (x : Survive) (s : State) : (setSurv d x s).timers = s.timers := rfl
@[simp] theorem setSurv_irq (d : Nat) (x : Survive) (s : State) : (setSurv d x s).irq = s.irq := rfl
@[simp] theorem setSurv_ledger (d : Nat) (x : Survive) (s : State) : (setSurv d x s).ledger = s.ledger := rfl
@[simp] theorem setSurv_route (d : Nat) (x : Survive) (s : State) : (setSurv d x s).route = s.route := rfl
@[simp] theorem setSurv_hostbr (d : Nat) (x : Survive) (s : State) : (setSurv d x s).hostbr = s.hostbr := rfl
@[simp] theorem setSurv_mem (d : Nat) (x : Survive) (s : State) : (setSurv d x s).mem = s.mem := rfl
@[simp] theorem setSurv_berths (d : Nat) (x : Survive) (s : State) : (setSurv d x s).berths = s.berths := rfl
@[simp] theorem setSurv_serve (d : Nat) (x : Survive) (s : State) : (setSurv d x s).serve = s.serve := rfl
@[simp] theorem setSurv_query (d : Nat) (x : Survive) (s : State) : (setSurv d x s).query = s.query := rfl
@[simp] theorem setSurv_acct (d : Nat) (x : Survive) (s : State) : (setSurv d x s).acct = s.acct := rfl
@[simp] theorem setSurv_weights (d : Nat) (x : Survive) (s : State) : (setSurv d x s).weights = s.weights := rfl
@[simp] theorem setSurv_members (d : Nat) (x : Survive) (s : State) : (setSurv d x s).members = s.members := rfl
@[simp] theorem setSurv_redctx (d : Nat) (x : Survive) (s : State) : (setSurv d x s).redctx = s.redctx := rfl
@[simp] theorem setSurv_reqs (d : Nat) (x : Survive) (s : State) : (setSurv d x s).reqs = s.reqs := rfl
@[simp] theorem setSurv_health (d : Nat) (x : Survive) (s : State) : (setSurv d x s).health = s.health := rfl
@[simp] theorem setSurv_dies (d : Nat) (x : Survive) (s : State) : (setSurv d x s).dies = s.dies := rfl
@[simp] theorem setSurv_ports (d : Nat) (x : Survive) (s : State) : (setSurv d x s).ports = s.ports := rfl
@[simp] theorem setSurv_seams (d : Nat) (x : Survive) (s : State) : (setSurv d x s).seams = s.seams := rfl
@[simp] theorem setSurv_hm (d : Nat) (x : Survive) (s : State) : (setSurv d x s).hm = s.hm := rfl
@[simp] theorem setSurv_startUp (d : Nat) (x : Survive) (s : State) : (setSurv d x s).startUp = s.startUp := rfl
@[simp] theorem setSurv_board (d : Nat) (x : Survive) (s : State) : (setSurv d x s).board = s.board := rfl
@[simp] theorem setSurv_power (d : Nat) (x : Survive) (s : State) : (setSurv d x s).power = s.power := rfl
@[simp] theorem modSurv_pending (d : Nat) (f : Survive → Survive) (s : State) : (modSurv d f s).pending = s.pending := rfl
@[simp] theorem modSurv_outbox (d : Nat) (f : Survive → Survive) (s : State) : (modSurv d f s).outbox = s.outbox := rfl
@[simp] theorem modSurv_freeCtr (d : Nat) (f : Survive → Survive) (s : State) : (modSurv d f s).freeCtr = s.freeCtr := rfl
@[simp] theorem modSurv_frameOut (d : Nat) (f : Survive → Survive) (s : State) : (modSurv d f s).frameOut = s.frameOut := rfl
@[simp] theorem modSurv_frameIds (d : Nat) (f : Survive → Survive) (s : State) : (modSurv d f s).frameIds = s.frameIds := rfl
@[simp] theorem modSurv_pages (d : Nat) (f : Survive → Survive) (s : State) : (modSurv d f s).pages = s.pages := rfl
@[simp] theorem modSurv_lastErr (d : Nat) (f : Survive → Survive) (s : State) : (modSurv d f s).lastErr = s.lastErr := rfl
@[simp] theorem modSurv_hiLatch (d : Nat) (f : Survive → Survive) (s : State) : (modSurv d f s).hiLatch = s.hiLatch := rfl
@[simp] theorem modSurv_loHeld (d : Nat) (f : Survive → Survive) (s : State) : (modSurv d f s).loHeld = s.loHeld := rfl
@[simp] theorem modSurv_tick (d : Nat) (f : Survive → Survive) (s : State) : (modSurv d f s).tick = s.tick := rfl
@[simp] theorem modSurv_domains (d : Nat) (f : Survive → Survive) (s : State) : (modSurv d f s).domains = s.domains := rfl
@[simp] theorem modSurv_timers (d : Nat) (f : Survive → Survive) (s : State) : (modSurv d f s).timers = s.timers := rfl
@[simp] theorem modSurv_irq (d : Nat) (f : Survive → Survive) (s : State) : (modSurv d f s).irq = s.irq := rfl
@[simp] theorem modSurv_ledger (d : Nat) (f : Survive → Survive) (s : State) : (modSurv d f s).ledger = s.ledger := rfl
@[simp] theorem modSurv_route (d : Nat) (f : Survive → Survive) (s : State) : (modSurv d f s).route = s.route := rfl
@[simp] theorem modSurv_hostbr (d : Nat) (f : Survive → Survive) (s : State) : (modSurv d f s).hostbr = s.hostbr := rfl
@[simp] theorem modSurv_mem (d : Nat) (f : Survive → Survive) (s : State) : (modSurv d f s).mem = s.mem := rfl
@[simp] theorem modSurv_berths (d : Nat) (f : Survive → Survive) (s : State) : (modSurv d f s).berths = s.berths := rfl
@[simp] theorem modSurv_serve (d : Nat) (f : Survive → Survive) (s : State) : (modSurv d f s).serve = s.serve := rfl
@[simp] theorem modSurv_query (d : Nat) (f : Survive → Survive) (s : State) : (modSurv d f s).query = s.query := rfl
@[simp] theorem modSurv_acct (d : Nat) (f : Survive → Survive) (s : State) : (modSurv d f s).acct = s.acct := rfl
@[simp] theorem modSurv_weights (d : Nat) (f : Survive → Survive) (s : State) : (modSurv d f s).weights = s.weights := rfl
@[simp] theorem modSurv_members (d : Nat) (f : Survive → Survive) (s : State) : (modSurv d f s).members = s.members := rfl
@[simp] theorem modSurv_redctx (d : Nat) (f : Survive → Survive) (s : State) : (modSurv d f s).redctx = s.redctx := rfl
@[simp] theorem modSurv_reqs (d : Nat) (f : Survive → Survive) (s : State) : (modSurv d f s).reqs = s.reqs := rfl
@[simp] theorem modSurv_health (d : Nat) (f : Survive → Survive) (s : State) : (modSurv d f s).health = s.health := rfl
@[simp] theorem modSurv_dies (d : Nat) (f : Survive → Survive) (s : State) : (modSurv d f s).dies = s.dies := rfl
@[simp] theorem modSurv_ports (d : Nat) (f : Survive → Survive) (s : State) : (modSurv d f s).ports = s.ports := rfl
@[simp] theorem modSurv_seams (d : Nat) (f : Survive → Survive) (s : State) : (modSurv d f s).seams = s.seams := rfl
@[simp] theorem modSurv_hm (d : Nat) (f : Survive → Survive) (s : State) : (modSurv d f s).hm = s.hm := rfl
@[simp] theorem modSurv_startUp (d : Nat) (f : Survive → Survive) (s : State) : (modSurv d f s).startUp = s.startUp := rfl
@[simp] theorem modSurv_board (d : Nat) (f : Survive → Survive) (s : State) : (modSurv d f s).board = s.board := rfl
@[simp] theorem modSurv_power (d : Nat) (f : Survive → Survive) (s : State) : (modSurv d f s).power = s.power := rfl
@[simp] theorem setPgroup_pending (d n : Nat) (g : PGroup) (s : State) : (setPgroup d n g s).pending = s.pending := rfl
@[simp] theorem setPgroup_outbox (d n : Nat) (g : PGroup) (s : State) : (setPgroup d n g s).outbox = s.outbox := rfl
@[simp] theorem setPgroup_freeCtr (d n : Nat) (g : PGroup) (s : State) : (setPgroup d n g s).freeCtr = s.freeCtr := rfl
@[simp] theorem setPgroup_frameOut (d n : Nat) (g : PGroup) (s : State) : (setPgroup d n g s).frameOut = s.frameOut := rfl
@[simp] theorem setPgroup_frameIds (d n : Nat) (g : PGroup) (s : State) : (setPgroup d n g s).frameIds = s.frameIds := rfl
@[simp] theorem setPgroup_pages (d n : Nat) (g : PGroup) (s : State) : (setPgroup d n g s).pages = s.pages := rfl
@[simp] theorem setPgroup_lastErr (d n : Nat) (g : PGroup) (s : State) : (setPgroup d n g s).lastErr = s.lastErr := rfl
@[simp] theorem setPgroup_hiLatch (d n : Nat) (g : PGroup) (s : State) : (setPgroup d n g s).hiLatch = s.hiLatch := rfl
@[simp] theorem setPgroup_loHeld (d n : Nat) (g : PGroup) (s : State) : (setPgroup d n g s).loHeld = s.loHeld := rfl
@[simp] theorem setPgroup_tick (d n : Nat) (g : PGroup) (s : State) : (setPgroup d n g s).tick = s.tick := rfl
@[simp] theorem setPgroup_domains (d n : Nat) (g : PGroup) (s : State) : (setPgroup d n g s).domains = s.domains := rfl
@[simp] theorem setPgroup_timers (d n : Nat) (g : PGroup) (s : State) : (setPgroup d n g s).timers = s.timers := rfl
@[simp] theorem setPgroup_irq (d n : Nat) (g : PGroup) (s : State) : (setPgroup d n g s).irq = s.irq := rfl
@[simp] theorem setPgroup_ledger (d n : Nat) (g : PGroup) (s : State) : (setPgroup d n g s).ledger = s.ledger := rfl
@[simp] theorem setPgroup_route (d n : Nat) (g : PGroup) (s : State) : (setPgroup d n g s).route = s.route := rfl
@[simp] theorem setPgroup_hostbr (d n : Nat) (g : PGroup) (s : State) : (setPgroup d n g s).hostbr = s.hostbr := rfl
@[simp] theorem setPgroup_mem (d n : Nat) (g : PGroup) (s : State) : (setPgroup d n g s).mem = s.mem := rfl
@[simp] theorem setPgroup_berths (d n : Nat) (g : PGroup) (s : State) : (setPgroup d n g s).berths = s.berths := rfl
@[simp] theorem setPgroup_serve (d n : Nat) (g : PGroup) (s : State) : (setPgroup d n g s).serve = s.serve := rfl
@[simp] theorem setPgroup_query (d n : Nat) (g : PGroup) (s : State) : (setPgroup d n g s).query = s.query := rfl
@[simp] theorem setPgroup_acct (d n : Nat) (g : PGroup) (s : State) : (setPgroup d n g s).acct = s.acct := rfl
@[simp] theorem setPgroup_weights (d n : Nat) (g : PGroup) (s : State) : (setPgroup d n g s).weights = s.weights := rfl
@[simp] theorem setPgroup_members (d n : Nat) (g : PGroup) (s : State) : (setPgroup d n g s).members = s.members := rfl
@[simp] theorem setPgroup_redctx (d n : Nat) (g : PGroup) (s : State) : (setPgroup d n g s).redctx = s.redctx := rfl
@[simp] theorem setPgroup_reqs (d n : Nat) (g : PGroup) (s : State) : (setPgroup d n g s).reqs = s.reqs := rfl
@[simp] theorem setPgroup_health (d n : Nat) (g : PGroup) (s : State) : (setPgroup d n g s).health = s.health := rfl
@[simp] theorem setPgroup_dies (d n : Nat) (g : PGroup) (s : State) : (setPgroup d n g s).dies = s.dies := rfl
@[simp] theorem setPgroup_ports (d n : Nat) (g : PGroup) (s : State) : (setPgroup d n g s).ports = s.ports := rfl
@[simp] theorem setPgroup_seams (d n : Nat) (g : PGroup) (s : State) : (setPgroup d n g s).seams = s.seams := rfl
@[simp] theorem setPgroup_hm (d n : Nat) (g : PGroup) (s : State) : (setPgroup d n g s).hm = s.hm := rfl
@[simp] theorem setPgroup_startUp (d n : Nat) (g : PGroup) (s : State) : (setPgroup d n g s).startUp = s.startUp := rfl
@[simp] theorem setPgroup_board (d n : Nat) (g : PGroup) (s : State) : (setPgroup d n g s).board = s.board := rfl
@[simp] theorem setPgroup_power (d n : Nat) (g : PGroup) (s : State) : (setPgroup d n g s).power = s.power := rfl
@[simp] theorem setJobs_pending (l : List PqJob) (s : State) : (setJobs l s).pending = s.pending := rfl
@[simp] theorem setJobs_outbox (l : List PqJob) (s : State) : (setJobs l s).outbox = s.outbox := rfl
@[simp] theorem setJobs_freeCtr (l : List PqJob) (s : State) : (setJobs l s).freeCtr = s.freeCtr := rfl
@[simp] theorem setJobs_frameOut (l : List PqJob) (s : State) : (setJobs l s).frameOut = s.frameOut := rfl
@[simp] theorem setJobs_frameIds (l : List PqJob) (s : State) : (setJobs l s).frameIds = s.frameIds := rfl
@[simp] theorem setJobs_pages (l : List PqJob) (s : State) : (setJobs l s).pages = s.pages := rfl
@[simp] theorem setJobs_lastErr (l : List PqJob) (s : State) : (setJobs l s).lastErr = s.lastErr := rfl
@[simp] theorem setJobs_hiLatch (l : List PqJob) (s : State) : (setJobs l s).hiLatch = s.hiLatch := rfl
@[simp] theorem setJobs_loHeld (l : List PqJob) (s : State) : (setJobs l s).loHeld = s.loHeld := rfl
@[simp] theorem setJobs_tick (l : List PqJob) (s : State) : (setJobs l s).tick = s.tick := rfl
@[simp] theorem setJobs_domains (l : List PqJob) (s : State) : (setJobs l s).domains = s.domains := rfl
@[simp] theorem setJobs_timers (l : List PqJob) (s : State) : (setJobs l s).timers = s.timers := rfl
@[simp] theorem setJobs_irq (l : List PqJob) (s : State) : (setJobs l s).irq = s.irq := rfl
@[simp] theorem setJobs_ledger (l : List PqJob) (s : State) : (setJobs l s).ledger = s.ledger := rfl
@[simp] theorem setJobs_route (l : List PqJob) (s : State) : (setJobs l s).route = s.route := rfl
@[simp] theorem setJobs_hostbr (l : List PqJob) (s : State) : (setJobs l s).hostbr = s.hostbr := rfl
@[simp] theorem setJobs_mem (l : List PqJob) (s : State) : (setJobs l s).mem = s.mem := rfl
@[simp] theorem setJobs_berths (l : List PqJob) (s : State) : (setJobs l s).berths = s.berths := rfl
@[simp] theorem setJobs_serve (l : List PqJob) (s : State) : (setJobs l s).serve = s.serve := rfl
@[simp] theorem setJobs_query (l : List PqJob) (s : State) : (setJobs l s).query = s.query := rfl
@[simp] theorem setJobs_acct (l : List PqJob) (s : State) : (setJobs l s).acct = s.acct := rfl
@[simp] theorem setJobs_weights (l : List PqJob) (s : State) : (setJobs l s).weights = s.weights := rfl
@[simp] theorem setJobs_members (l : List PqJob) (s : State) : (setJobs l s).members = s.members := rfl
@[simp] theorem setJobs_redctx (l : List PqJob) (s : State) : (setJobs l s).redctx = s.redctx := rfl
@[simp] theorem setJobs_reqs (l : List PqJob) (s : State) : (setJobs l s).reqs = s.reqs := rfl
@[simp] theorem setJobs_health (l : List PqJob) (s : State) : (setJobs l s).health = s.health := rfl
@[simp] theorem setJobs_dies (l : List PqJob) (s : State) : (setJobs l s).dies = s.dies := rfl
@[simp] theorem setJobs_ports (l : List PqJob) (s : State) : (setJobs l s).ports = s.ports := rfl
@[simp] theorem setJobs_seams (l : List PqJob) (s : State) : (setJobs l s).seams = s.seams := rfl
@[simp] theorem setJobs_hm (l : List PqJob) (s : State) : (setJobs l s).hm = s.hm := rfl
@[simp] theorem setJobs_startUp (l : List PqJob) (s : State) : (setJobs l s).startUp = s.startUp := rfl
@[simp] theorem setJobs_board (l : List PqJob) (s : State) : (setJobs l s).board = s.board := rfl
@[simp] theorem setJobs_power (l : List PqJob) (s : State) : (setJobs l s).power = s.power := rfl
@[simp] theorem setWards_pending (l : List Ward) (s : State) : (setWards l s).pending = s.pending := rfl
@[simp] theorem setWards_outbox (l : List Ward) (s : State) : (setWards l s).outbox = s.outbox := rfl
@[simp] theorem setWards_freeCtr (l : List Ward) (s : State) : (setWards l s).freeCtr = s.freeCtr := rfl
@[simp] theorem setWards_frameOut (l : List Ward) (s : State) : (setWards l s).frameOut = s.frameOut := rfl
@[simp] theorem setWards_frameIds (l : List Ward) (s : State) : (setWards l s).frameIds = s.frameIds := rfl
@[simp] theorem setWards_pages (l : List Ward) (s : State) : (setWards l s).pages = s.pages := rfl
@[simp] theorem setWards_lastErr (l : List Ward) (s : State) : (setWards l s).lastErr = s.lastErr := rfl
@[simp] theorem setWards_hiLatch (l : List Ward) (s : State) : (setWards l s).hiLatch = s.hiLatch := rfl
@[simp] theorem setWards_loHeld (l : List Ward) (s : State) : (setWards l s).loHeld = s.loHeld := rfl
@[simp] theorem setWards_tick (l : List Ward) (s : State) : (setWards l s).tick = s.tick := rfl
@[simp] theorem setWards_domains (l : List Ward) (s : State) : (setWards l s).domains = s.domains := rfl
@[simp] theorem setWards_timers (l : List Ward) (s : State) : (setWards l s).timers = s.timers := rfl
@[simp] theorem setWards_irq (l : List Ward) (s : State) : (setWards l s).irq = s.irq := rfl
@[simp] theorem setWards_ledger (l : List Ward) (s : State) : (setWards l s).ledger = s.ledger := rfl
@[simp] theorem setWards_route (l : List Ward) (s : State) : (setWards l s).route = s.route := rfl
@[simp] theorem setWards_hostbr (l : List Ward) (s : State) : (setWards l s).hostbr = s.hostbr := rfl
@[simp] theorem setWards_mem (l : List Ward) (s : State) : (setWards l s).mem = s.mem := rfl
@[simp] theorem setWards_berths (l : List Ward) (s : State) : (setWards l s).berths = s.berths := rfl
@[simp] theorem setWards_serve (l : List Ward) (s : State) : (setWards l s).serve = s.serve := rfl
@[simp] theorem setWards_query (l : List Ward) (s : State) : (setWards l s).query = s.query := rfl
@[simp] theorem setWards_acct (l : List Ward) (s : State) : (setWards l s).acct = s.acct := rfl
@[simp] theorem setWards_weights (l : List Ward) (s : State) : (setWards l s).weights = s.weights := rfl
@[simp] theorem setWards_members (l : List Ward) (s : State) : (setWards l s).members = s.members := rfl
@[simp] theorem setWards_redctx (l : List Ward) (s : State) : (setWards l s).redctx = s.redctx := rfl
@[simp] theorem setWards_reqs (l : List Ward) (s : State) : (setWards l s).reqs = s.reqs := rfl
@[simp] theorem setWards_health (l : List Ward) (s : State) : (setWards l s).health = s.health := rfl
@[simp] theorem setWards_dies (l : List Ward) (s : State) : (setWards l s).dies = s.dies := rfl
@[simp] theorem setWards_ports (l : List Ward) (s : State) : (setWards l s).ports = s.ports := rfl
@[simp] theorem setWards_seams (l : List Ward) (s : State) : (setWards l s).seams = s.seams := rfl
@[simp] theorem setWards_hm (l : List Ward) (s : State) : (setWards l s).hm = s.hm := rfl
@[simp] theorem setWards_startUp (l : List Ward) (s : State) : (setWards l s).startUp = s.startUp := rfl
@[simp] theorem setWards_board (l : List Ward) (s : State) : (setWards l s).board = s.board := rfl
@[simp] theorem setWards_power (l : List Ward) (s : State) : (setWards l s).power = s.power := rfl
@[simp] theorem setPort_pending (p : Nat) (x : Port) (s : State) : (setPort p x s).pending = s.pending := rfl
@[simp] theorem setPort_outbox (p : Nat) (x : Port) (s : State) : (setPort p x s).outbox = s.outbox := rfl
@[simp] theorem setPort_freeCtr (p : Nat) (x : Port) (s : State) : (setPort p x s).freeCtr = s.freeCtr := rfl
@[simp] theorem setPort_frameOut (p : Nat) (x : Port) (s : State) : (setPort p x s).frameOut = s.frameOut := rfl
@[simp] theorem setPort_frameIds (p : Nat) (x : Port) (s : State) : (setPort p x s).frameIds = s.frameIds := rfl
@[simp] theorem setPort_pages (p : Nat) (x : Port) (s : State) : (setPort p x s).pages = s.pages := rfl
@[simp] theorem setPort_lastErr (p : Nat) (x : Port) (s : State) : (setPort p x s).lastErr = s.lastErr := rfl
@[simp] theorem setPort_hiLatch (p : Nat) (x : Port) (s : State) : (setPort p x s).hiLatch = s.hiLatch := rfl
@[simp] theorem setPort_loHeld (p : Nat) (x : Port) (s : State) : (setPort p x s).loHeld = s.loHeld := rfl
@[simp] theorem setPort_tick (p : Nat) (x : Port) (s : State) : (setPort p x s).tick = s.tick := rfl
@[simp] theorem setPort_domains (p : Nat) (x : Port) (s : State) : (setPort p x s).domains = s.domains := rfl
@[simp] theorem setPort_timers (p : Nat) (x : Port) (s : State) : (setPort p x s).timers = s.timers := rfl
@[simp] theorem setPort_irq (p : Nat) (x : Port) (s : State) : (setPort p x s).irq = s.irq := rfl
@[simp] theorem setPort_ledger (p : Nat) (x : Port) (s : State) : (setPort p x s).ledger = s.ledger := rfl
@[simp] theorem setPort_route (p : Nat) (x : Port) (s : State) : (setPort p x s).route = s.route := rfl
@[simp] theorem setPort_hostbr (p : Nat) (x : Port) (s : State) : (setPort p x s).hostbr = s.hostbr := rfl
@[simp] theorem setPort_mem (p : Nat) (x : Port) (s : State) : (setPort p x s).mem = s.mem := rfl
@[simp] theorem setPort_berths (p : Nat) (x : Port) (s : State) : (setPort p x s).berths = s.berths := rfl
@[simp] theorem setPort_serve (p : Nat) (x : Port) (s : State) : (setPort p x s).serve = s.serve := rfl
@[simp] theorem setPort_query (p : Nat) (x : Port) (s : State) : (setPort p x s).query = s.query := rfl
@[simp] theorem setPort_acct (p : Nat) (x : Port) (s : State) : (setPort p x s).acct = s.acct := rfl
@[simp] theorem setPort_weights (p : Nat) (x : Port) (s : State) : (setPort p x s).weights = s.weights := rfl
@[simp] theorem setPort_members (p : Nat) (x : Port) (s : State) : (setPort p x s).members = s.members := rfl
@[simp] theorem setPort_redctx (p : Nat) (x : Port) (s : State) : (setPort p x s).redctx = s.redctx := rfl
@[simp] theorem setPort_reqs (p : Nat) (x : Port) (s : State) : (setPort p x s).reqs = s.reqs := rfl
@[simp] theorem setPort_health (p : Nat) (x : Port) (s : State) : (setPort p x s).health = s.health := rfl
@[simp] theorem setPort_dies (p : Nat) (x : Port) (s : State) : (setPort p x s).dies = s.dies := rfl
@[simp] theorem setPort_seams (p : Nat) (x : Port) (s : State) : (setPort p x s).seams = s.seams := rfl
@[simp] theorem setPort_survive (p : Nat) (x : Port) (s : State) : (setPort p x s).survive = s.survive := rfl
@[simp] theorem setPort_hm (p : Nat) (x : Port) (s : State) : (setPort p x s).hm = s.hm := rfl
@[simp] theorem setPort_startUp (p : Nat) (x : Port) (s : State) : (setPort p x s).startUp = s.startUp := rfl
@[simp] theorem setPort_board (p : Nat) (x : Port) (s : State) : (setPort p x s).board = s.board := rfl
@[simp] theorem setPort_power (p : Nat) (x : Port) (s : State) : (setPort p x s).power = s.power := rfl
@[simp] theorem modPort_pending (p : Nat) (f : Port → Port) (s : State) : (modPort p f s).pending = s.pending := rfl
@[simp] theorem modPort_outbox (p : Nat) (f : Port → Port) (s : State) : (modPort p f s).outbox = s.outbox := rfl
@[simp] theorem modPort_freeCtr (p : Nat) (f : Port → Port) (s : State) : (modPort p f s).freeCtr = s.freeCtr := rfl
@[simp] theorem modPort_frameOut (p : Nat) (f : Port → Port) (s : State) : (modPort p f s).frameOut = s.frameOut := rfl
@[simp] theorem modPort_frameIds (p : Nat) (f : Port → Port) (s : State) : (modPort p f s).frameIds = s.frameIds := rfl
@[simp] theorem modPort_pages (p : Nat) (f : Port → Port) (s : State) : (modPort p f s).pages = s.pages := rfl
@[simp] theorem modPort_lastErr (p : Nat) (f : Port → Port) (s : State) : (modPort p f s).lastErr = s.lastErr := rfl
@[simp] theorem modPort_hiLatch (p : Nat) (f : Port → Port) (s : State) : (modPort p f s).hiLatch = s.hiLatch := rfl
@[simp] theorem modPort_loHeld (p : Nat) (f : Port → Port) (s : State) : (modPort p f s).loHeld = s.loHeld := rfl
@[simp] theorem modPort_tick (p : Nat) (f : Port → Port) (s : State) : (modPort p f s).tick = s.tick := rfl
@[simp] theorem modPort_domains (p : Nat) (f : Port → Port) (s : State) : (modPort p f s).domains = s.domains := rfl
@[simp] theorem modPort_timers (p : Nat) (f : Port → Port) (s : State) : (modPort p f s).timers = s.timers := rfl
@[simp] theorem modPort_irq (p : Nat) (f : Port → Port) (s : State) : (modPort p f s).irq = s.irq := rfl
@[simp] theorem modPort_ledger (p : Nat) (f : Port → Port) (s : State) : (modPort p f s).ledger = s.ledger := rfl
@[simp] theorem modPort_route (p : Nat) (f : Port → Port) (s : State) : (modPort p f s).route = s.route := rfl
@[simp] theorem modPort_hostbr (p : Nat) (f : Port → Port) (s : State) : (modPort p f s).hostbr = s.hostbr := rfl
@[simp] theorem modPort_mem (p : Nat) (f : Port → Port) (s : State) : (modPort p f s).mem = s.mem := rfl
@[simp] theorem modPort_berths (p : Nat) (f : Port → Port) (s : State) : (modPort p f s).berths = s.berths := rfl
@[simp] theorem modPort_serve (p : Nat) (f : Port → Port) (s : State) : (modPort p f s).serve = s.serve := rfl
@[simp] theorem modPort_query (p : Nat) (f : Port → Port) (s : State) : (modPort p f s).query = s.query := rfl
@[simp] theorem modPort_acct (p : Nat) (f : Port → Port) (s : State) : (modPort p f s).acct = s.acct := rfl
@[simp] theorem modPort_weights (p : Nat) (f : Port → Port) (s : State) : (modPort p f s).weights = s.weights := rfl
@[simp] theorem modPort_members (p : Nat) (f : Port → Port) (s : State) : (modPort p f s).members = s.members := rfl
@[simp] theorem modPort_redctx (p : Nat) (f : Port → Port) (s : State) : (modPort p f s).redctx = s.redctx := rfl
@[simp] theorem modPort_reqs (p : Nat) (f : Port → Port) (s : State) : (modPort p f s).reqs = s.reqs := rfl
@[simp] theorem modPort_health (p : Nat) (f : Port → Port) (s : State) : (modPort p f s).health = s.health := rfl
@[simp] theorem modPort_dies (p : Nat) (f : Port → Port) (s : State) : (modPort p f s).dies = s.dies := rfl
@[simp] theorem modPort_seams (p : Nat) (f : Port → Port) (s : State) : (modPort p f s).seams = s.seams := rfl
@[simp] theorem modPort_survive (p : Nat) (f : Port → Port) (s : State) : (modPort p f s).survive = s.survive := rfl
@[simp] theorem modPort_hm (p : Nat) (f : Port → Port) (s : State) : (modPort p f s).hm = s.hm := rfl
@[simp] theorem modPort_startUp (p : Nat) (f : Port → Port) (s : State) : (modPort p f s).startUp = s.startUp := rfl
@[simp] theorem modPort_board (p : Nat) (f : Port → Port) (s : State) : (modPort p f s).board = s.board := rfl
@[simp] theorem modPort_power (p : Nat) (f : Port → Port) (s : State) : (modPort p f s).power = s.power := rfl
@[simp] theorem setStartUp_pending (u : StartUp) (s : State) : (setStartUp u s).pending = s.pending := rfl
@[simp] theorem setStartUp_outbox (u : StartUp) (s : State) : (setStartUp u s).outbox = s.outbox := rfl
@[simp] theorem setStartUp_freeCtr (u : StartUp) (s : State) : (setStartUp u s).freeCtr = s.freeCtr := rfl
@[simp] theorem setStartUp_frameOut (u : StartUp) (s : State) : (setStartUp u s).frameOut = s.frameOut := rfl
@[simp] theorem setStartUp_frameIds (u : StartUp) (s : State) : (setStartUp u s).frameIds = s.frameIds := rfl
@[simp] theorem setStartUp_pages (u : StartUp) (s : State) : (setStartUp u s).pages = s.pages := rfl
@[simp] theorem setStartUp_lastErr (u : StartUp) (s : State) : (setStartUp u s).lastErr = s.lastErr := rfl
@[simp] theorem setStartUp_hiLatch (u : StartUp) (s : State) : (setStartUp u s).hiLatch = s.hiLatch := rfl
@[simp] theorem setStartUp_loHeld (u : StartUp) (s : State) : (setStartUp u s).loHeld = s.loHeld := rfl
@[simp] theorem setStartUp_tick (u : StartUp) (s : State) : (setStartUp u s).tick = s.tick := rfl
@[simp] theorem setStartUp_domains (u : StartUp) (s : State) : (setStartUp u s).domains = s.domains := rfl
@[simp] theorem setStartUp_timers (u : StartUp) (s : State) : (setStartUp u s).timers = s.timers := rfl
@[simp] theorem setStartUp_irq (u : StartUp) (s : State) : (setStartUp u s).irq = s.irq := rfl
@[simp] theorem setStartUp_ledger (u : StartUp) (s : State) : (setStartUp u s).ledger = s.ledger := rfl
@[simp] theorem setStartUp_route (u : StartUp) (s : State) : (setStartUp u s).route = s.route := rfl
@[simp] theorem setStartUp_hostbr (u : StartUp) (s : State) : (setStartUp u s).hostbr = s.hostbr := rfl
@[simp] theorem setStartUp_mem (u : StartUp) (s : State) : (setStartUp u s).mem = s.mem := rfl
@[simp] theorem setStartUp_berths (u : StartUp) (s : State) : (setStartUp u s).berths = s.berths := rfl
@[simp] theorem setStartUp_serve (u : StartUp) (s : State) : (setStartUp u s).serve = s.serve := rfl
@[simp] theorem setStartUp_query (u : StartUp) (s : State) : (setStartUp u s).query = s.query := rfl
@[simp] theorem setStartUp_acct (u : StartUp) (s : State) : (setStartUp u s).acct = s.acct := rfl
@[simp] theorem setStartUp_weights (u : StartUp) (s : State) : (setStartUp u s).weights = s.weights := rfl
@[simp] theorem setStartUp_members (u : StartUp) (s : State) : (setStartUp u s).members = s.members := rfl
@[simp] theorem setStartUp_redctx (u : StartUp) (s : State) : (setStartUp u s).redctx = s.redctx := rfl
@[simp] theorem setStartUp_reqs (u : StartUp) (s : State) : (setStartUp u s).reqs = s.reqs := rfl
@[simp] theorem setStartUp_health (u : StartUp) (s : State) : (setStartUp u s).health = s.health := rfl
@[simp] theorem setStartUp_dies (u : StartUp) (s : State) : (setStartUp u s).dies = s.dies := rfl
@[simp] theorem setStartUp_ports (u : StartUp) (s : State) : (setStartUp u s).ports = s.ports := rfl
@[simp] theorem setStartUp_seams (u : StartUp) (s : State) : (setStartUp u s).seams = s.seams := rfl
@[simp] theorem setStartUp_survive (u : StartUp) (s : State) : (setStartUp u s).survive = s.survive := rfl
@[simp] theorem setStartUp_hm (u : StartUp) (s : State) : (setStartUp u s).hm = s.hm := rfl
@[simp] theorem setStartUp_board (u : StartUp) (s : State) : (setStartUp u s).board = s.board := rfl
@[simp] theorem setStartUp_power (u : StartUp) (s : State) : (setStartUp u s).power = s.power := rfl
@[simp] theorem setIrq_pending (q : Irq) (s : State) : (setIrq q s).pending = s.pending := rfl
@[simp] theorem setIrq_outbox (q : Irq) (s : State) : (setIrq q s).outbox = s.outbox := rfl
@[simp] theorem setIrq_freeCtr (q : Irq) (s : State) : (setIrq q s).freeCtr = s.freeCtr := rfl
@[simp] theorem setIrq_frameOut (q : Irq) (s : State) : (setIrq q s).frameOut = s.frameOut := rfl
@[simp] theorem setIrq_frameIds (q : Irq) (s : State) : (setIrq q s).frameIds = s.frameIds := rfl
@[simp] theorem setIrq_pages (q : Irq) (s : State) : (setIrq q s).pages = s.pages := rfl
@[simp] theorem setIrq_lastErr (q : Irq) (s : State) : (setIrq q s).lastErr = s.lastErr := rfl
@[simp] theorem setIrq_hiLatch (q : Irq) (s : State) : (setIrq q s).hiLatch = s.hiLatch := rfl
@[simp] theorem setIrq_loHeld (q : Irq) (s : State) : (setIrq q s).loHeld = s.loHeld := rfl
@[simp] theorem setIrq_tick (q : Irq) (s : State) : (setIrq q s).tick = s.tick := rfl
@[simp] theorem setIrq_domains (q : Irq) (s : State) : (setIrq q s).domains = s.domains := rfl
@[simp] theorem setIrq_timers (q : Irq) (s : State) : (setIrq q s).timers = s.timers := rfl
@[simp] theorem setIrq_ledger (q : Irq) (s : State) : (setIrq q s).ledger = s.ledger := rfl
@[simp] theorem setIrq_route (q : Irq) (s : State) : (setIrq q s).route = s.route := rfl
@[simp] theorem setIrq_hostbr (q : Irq) (s : State) : (setIrq q s).hostbr = s.hostbr := rfl
@[simp] theorem setIrq_mem (q : Irq) (s : State) : (setIrq q s).mem = s.mem := rfl
@[simp] theorem setIrq_berths (q : Irq) (s : State) : (setIrq q s).berths = s.berths := rfl
@[simp] theorem setIrq_serve (q : Irq) (s : State) : (setIrq q s).serve = s.serve := rfl
@[simp] theorem setIrq_query (q : Irq) (s : State) : (setIrq q s).query = s.query := rfl
@[simp] theorem setIrq_acct (q : Irq) (s : State) : (setIrq q s).acct = s.acct := rfl
@[simp] theorem setIrq_weights (q : Irq) (s : State) : (setIrq q s).weights = s.weights := rfl
@[simp] theorem setIrq_members (q : Irq) (s : State) : (setIrq q s).members = s.members := rfl
@[simp] theorem setIrq_redctx (q : Irq) (s : State) : (setIrq q s).redctx = s.redctx := rfl
@[simp] theorem setIrq_reqs (q : Irq) (s : State) : (setIrq q s).reqs = s.reqs := rfl
@[simp] theorem setIrq_health (q : Irq) (s : State) : (setIrq q s).health = s.health := rfl
@[simp] theorem setIrq_dies (q : Irq) (s : State) : (setIrq q s).dies = s.dies := rfl
@[simp] theorem setIrq_ports (q : Irq) (s : State) : (setIrq q s).ports = s.ports := rfl
@[simp] theorem setIrq_seams (q : Irq) (s : State) : (setIrq q s).seams = s.seams := rfl
@[simp] theorem setIrq_survive (q : Irq) (s : State) : (setIrq q s).survive = s.survive := rfl
@[simp] theorem setIrq_hm (q : Irq) (s : State) : (setIrq q s).hm = s.hm := rfl
@[simp] theorem setIrq_startUp (q : Irq) (s : State) : (setIrq q s).startUp = s.startUp := rfl
@[simp] theorem setIrq_board (q : Irq) (s : State) : (setIrq q s).board = s.board := rfl
@[simp] theorem setIrq_power (q : Irq) (s : State) : (setIrq q s).power = s.power := rfl
@[simp] theorem setIrqSrc_pending (n : Nat) (e : IrqSrc) (s : State) : (setIrqSrc n e s).pending = s.pending := rfl
@[simp] theorem setIrqSrc_outbox (n : Nat) (e : IrqSrc) (s : State) : (setIrqSrc n e s).outbox = s.outbox := rfl
@[simp] theorem setIrqSrc_freeCtr (n : Nat) (e : IrqSrc) (s : State) : (setIrqSrc n e s).freeCtr = s.freeCtr := rfl
@[simp] theorem setIrqSrc_frameOut (n : Nat) (e : IrqSrc) (s : State) : (setIrqSrc n e s).frameOut = s.frameOut := rfl
@[simp] theorem setIrqSrc_frameIds (n : Nat) (e : IrqSrc) (s : State) : (setIrqSrc n e s).frameIds = s.frameIds := rfl
@[simp] theorem setIrqSrc_pages (n : Nat) (e : IrqSrc) (s : State) : (setIrqSrc n e s).pages = s.pages := rfl
@[simp] theorem setIrqSrc_lastErr (n : Nat) (e : IrqSrc) (s : State) : (setIrqSrc n e s).lastErr = s.lastErr := rfl
@[simp] theorem setIrqSrc_hiLatch (n : Nat) (e : IrqSrc) (s : State) : (setIrqSrc n e s).hiLatch = s.hiLatch := rfl
@[simp] theorem setIrqSrc_loHeld (n : Nat) (e : IrqSrc) (s : State) : (setIrqSrc n e s).loHeld = s.loHeld := rfl
@[simp] theorem setIrqSrc_tick (n : Nat) (e : IrqSrc) (s : State) : (setIrqSrc n e s).tick = s.tick := rfl
@[simp] theorem setIrqSrc_domains (n : Nat) (e : IrqSrc) (s : State) : (setIrqSrc n e s).domains = s.domains := rfl
@[simp] theorem setIrqSrc_timers (n : Nat) (e : IrqSrc) (s : State) : (setIrqSrc n e s).timers = s.timers := rfl
@[simp] theorem setIrqSrc_ledger (n : Nat) (e : IrqSrc) (s : State) : (setIrqSrc n e s).ledger = s.ledger := rfl
@[simp] theorem setIrqSrc_route (n : Nat) (e : IrqSrc) (s : State) : (setIrqSrc n e s).route = s.route := rfl
@[simp] theorem setIrqSrc_hostbr (n : Nat) (e : IrqSrc) (s : State) : (setIrqSrc n e s).hostbr = s.hostbr := rfl
@[simp] theorem setIrqSrc_mem (n : Nat) (e : IrqSrc) (s : State) : (setIrqSrc n e s).mem = s.mem := rfl
@[simp] theorem setIrqSrc_berths (n : Nat) (e : IrqSrc) (s : State) : (setIrqSrc n e s).berths = s.berths := rfl
@[simp] theorem setIrqSrc_serve (n : Nat) (e : IrqSrc) (s : State) : (setIrqSrc n e s).serve = s.serve := rfl
@[simp] theorem setIrqSrc_query (n : Nat) (e : IrqSrc) (s : State) : (setIrqSrc n e s).query = s.query := rfl
@[simp] theorem setIrqSrc_acct (n : Nat) (e : IrqSrc) (s : State) : (setIrqSrc n e s).acct = s.acct := rfl
@[simp] theorem setIrqSrc_weights (n : Nat) (e : IrqSrc) (s : State) : (setIrqSrc n e s).weights = s.weights := rfl
@[simp] theorem setIrqSrc_members (n : Nat) (e : IrqSrc) (s : State) : (setIrqSrc n e s).members = s.members := rfl
@[simp] theorem setIrqSrc_redctx (n : Nat) (e : IrqSrc) (s : State) : (setIrqSrc n e s).redctx = s.redctx := rfl
@[simp] theorem setIrqSrc_reqs (n : Nat) (e : IrqSrc) (s : State) : (setIrqSrc n e s).reqs = s.reqs := rfl
@[simp] theorem setIrqSrc_health (n : Nat) (e : IrqSrc) (s : State) : (setIrqSrc n e s).health = s.health := rfl
@[simp] theorem setIrqSrc_dies (n : Nat) (e : IrqSrc) (s : State) : (setIrqSrc n e s).dies = s.dies := rfl
@[simp] theorem setIrqSrc_ports (n : Nat) (e : IrqSrc) (s : State) : (setIrqSrc n e s).ports = s.ports := rfl
@[simp] theorem setIrqSrc_seams (n : Nat) (e : IrqSrc) (s : State) : (setIrqSrc n e s).seams = s.seams := rfl
@[simp] theorem setIrqSrc_survive (n : Nat) (e : IrqSrc) (s : State) : (setIrqSrc n e s).survive = s.survive := rfl
@[simp] theorem setIrqSrc_hm (n : Nat) (e : IrqSrc) (s : State) : (setIrqSrc n e s).hm = s.hm := rfl
@[simp] theorem setIrqSrc_startUp (n : Nat) (e : IrqSrc) (s : State) : (setIrqSrc n e s).startUp = s.startUp := rfl
@[simp] theorem setIrqSrc_board (n : Nat) (e : IrqSrc) (s : State) : (setIrqSrc n e s).board = s.board := rfl
@[simp] theorem setIrqSrc_power (n : Nat) (e : IrqSrc) (s : State) : (setIrqSrc n e s).power = s.power := rfl
@[simp] theorem setLedger_pending (l : Ledger) (s : State) : (setLedger l s).pending = s.pending := rfl
@[simp] theorem setLedger_outbox (l : Ledger) (s : State) : (setLedger l s).outbox = s.outbox := rfl
@[simp] theorem setLedger_freeCtr (l : Ledger) (s : State) : (setLedger l s).freeCtr = s.freeCtr := rfl
@[simp] theorem setLedger_frameOut (l : Ledger) (s : State) : (setLedger l s).frameOut = s.frameOut := rfl
@[simp] theorem setLedger_frameIds (l : Ledger) (s : State) : (setLedger l s).frameIds = s.frameIds := rfl
@[simp] theorem setLedger_pages (l : Ledger) (s : State) : (setLedger l s).pages = s.pages := rfl
@[simp] theorem setLedger_lastErr (l : Ledger) (s : State) : (setLedger l s).lastErr = s.lastErr := rfl
@[simp] theorem setLedger_hiLatch (l : Ledger) (s : State) : (setLedger l s).hiLatch = s.hiLatch := rfl
@[simp] theorem setLedger_loHeld (l : Ledger) (s : State) : (setLedger l s).loHeld = s.loHeld := rfl
@[simp] theorem setLedger_tick (l : Ledger) (s : State) : (setLedger l s).tick = s.tick := rfl
@[simp] theorem setLedger_domains (l : Ledger) (s : State) : (setLedger l s).domains = s.domains := rfl
@[simp] theorem setLedger_timers (l : Ledger) (s : State) : (setLedger l s).timers = s.timers := rfl
@[simp] theorem setLedger_irq (l : Ledger) (s : State) : (setLedger l s).irq = s.irq := rfl
@[simp] theorem setLedger_route (l : Ledger) (s : State) : (setLedger l s).route = s.route := rfl
@[simp] theorem setLedger_hostbr (l : Ledger) (s : State) : (setLedger l s).hostbr = s.hostbr := rfl
@[simp] theorem setLedger_mem (l : Ledger) (s : State) : (setLedger l s).mem = s.mem := rfl
@[simp] theorem setLedger_berths (l : Ledger) (s : State) : (setLedger l s).berths = s.berths := rfl
@[simp] theorem setLedger_serve (l : Ledger) (s : State) : (setLedger l s).serve = s.serve := rfl
@[simp] theorem setLedger_query (l : Ledger) (s : State) : (setLedger l s).query = s.query := rfl
@[simp] theorem setLedger_acct (l : Ledger) (s : State) : (setLedger l s).acct = s.acct := rfl
@[simp] theorem setLedger_weights (l : Ledger) (s : State) : (setLedger l s).weights = s.weights := rfl
@[simp] theorem setLedger_members (l : Ledger) (s : State) : (setLedger l s).members = s.members := rfl
@[simp] theorem setLedger_redctx (l : Ledger) (s : State) : (setLedger l s).redctx = s.redctx := rfl
@[simp] theorem setLedger_reqs (l : Ledger) (s : State) : (setLedger l s).reqs = s.reqs := rfl
@[simp] theorem setLedger_health (l : Ledger) (s : State) : (setLedger l s).health = s.health := rfl
@[simp] theorem setLedger_dies (l : Ledger) (s : State) : (setLedger l s).dies = s.dies := rfl
@[simp] theorem setLedger_ports (l : Ledger) (s : State) : (setLedger l s).ports = s.ports := rfl
@[simp] theorem setLedger_seams (l : Ledger) (s : State) : (setLedger l s).seams = s.seams := rfl
@[simp] theorem setLedger_survive (l : Ledger) (s : State) : (setLedger l s).survive = s.survive := rfl
@[simp] theorem setLedger_hm (l : Ledger) (s : State) : (setLedger l s).hm = s.hm := rfl
@[simp] theorem setLedger_startUp (l : Ledger) (s : State) : (setLedger l s).startUp = s.startUp := rfl
@[simp] theorem setLedger_board (l : Ledger) (s : State) : (setLedger l s).board = s.board := rfl
@[simp] theorem setLedger_power (l : Ledger) (s : State) : (setLedger l s).power = s.power := rfl
@[simp] theorem setEntry_pending (n : Nat) (e : LedgerEntry) (s : State) : (setEntry n e s).pending = s.pending := rfl
@[simp] theorem setEntry_outbox (n : Nat) (e : LedgerEntry) (s : State) : (setEntry n e s).outbox = s.outbox := rfl
@[simp] theorem setEntry_freeCtr (n : Nat) (e : LedgerEntry) (s : State) : (setEntry n e s).freeCtr = s.freeCtr := rfl
@[simp] theorem setEntry_frameOut (n : Nat) (e : LedgerEntry) (s : State) : (setEntry n e s).frameOut = s.frameOut := rfl
@[simp] theorem setEntry_frameIds (n : Nat) (e : LedgerEntry) (s : State) : (setEntry n e s).frameIds = s.frameIds := rfl
@[simp] theorem setEntry_pages (n : Nat) (e : LedgerEntry) (s : State) : (setEntry n e s).pages = s.pages := rfl
@[simp] theorem setEntry_lastErr (n : Nat) (e : LedgerEntry) (s : State) : (setEntry n e s).lastErr = s.lastErr := rfl
@[simp] theorem setEntry_hiLatch (n : Nat) (e : LedgerEntry) (s : State) : (setEntry n e s).hiLatch = s.hiLatch := rfl
@[simp] theorem setEntry_loHeld (n : Nat) (e : LedgerEntry) (s : State) : (setEntry n e s).loHeld = s.loHeld := rfl
@[simp] theorem setEntry_tick (n : Nat) (e : LedgerEntry) (s : State) : (setEntry n e s).tick = s.tick := rfl
@[simp] theorem setEntry_domains (n : Nat) (e : LedgerEntry) (s : State) : (setEntry n e s).domains = s.domains := rfl
@[simp] theorem setEntry_timers (n : Nat) (e : LedgerEntry) (s : State) : (setEntry n e s).timers = s.timers := rfl
@[simp] theorem setEntry_irq (n : Nat) (e : LedgerEntry) (s : State) : (setEntry n e s).irq = s.irq := rfl
@[simp] theorem setEntry_route (n : Nat) (e : LedgerEntry) (s : State) : (setEntry n e s).route = s.route := rfl
@[simp] theorem setEntry_hostbr (n : Nat) (e : LedgerEntry) (s : State) : (setEntry n e s).hostbr = s.hostbr := rfl
@[simp] theorem setEntry_mem (n : Nat) (e : LedgerEntry) (s : State) : (setEntry n e s).mem = s.mem := rfl
@[simp] theorem setEntry_berths (n : Nat) (e : LedgerEntry) (s : State) : (setEntry n e s).berths = s.berths := rfl
@[simp] theorem setEntry_serve (n : Nat) (e : LedgerEntry) (s : State) : (setEntry n e s).serve = s.serve := rfl
@[simp] theorem setEntry_query (n : Nat) (e : LedgerEntry) (s : State) : (setEntry n e s).query = s.query := rfl
@[simp] theorem setEntry_acct (n : Nat) (e : LedgerEntry) (s : State) : (setEntry n e s).acct = s.acct := rfl
@[simp] theorem setEntry_weights (n : Nat) (e : LedgerEntry) (s : State) : (setEntry n e s).weights = s.weights := rfl
@[simp] theorem setEntry_members (n : Nat) (e : LedgerEntry) (s : State) : (setEntry n e s).members = s.members := rfl
@[simp] theorem setEntry_redctx (n : Nat) (e : LedgerEntry) (s : State) : (setEntry n e s).redctx = s.redctx := rfl
@[simp] theorem setEntry_reqs (n : Nat) (e : LedgerEntry) (s : State) : (setEntry n e s).reqs = s.reqs := rfl
@[simp] theorem setEntry_health (n : Nat) (e : LedgerEntry) (s : State) : (setEntry n e s).health = s.health := rfl
@[simp] theorem setEntry_dies (n : Nat) (e : LedgerEntry) (s : State) : (setEntry n e s).dies = s.dies := rfl
@[simp] theorem setEntry_ports (n : Nat) (e : LedgerEntry) (s : State) : (setEntry n e s).ports = s.ports := rfl
@[simp] theorem setEntry_seams (n : Nat) (e : LedgerEntry) (s : State) : (setEntry n e s).seams = s.seams := rfl
@[simp] theorem setEntry_survive (n : Nat) (e : LedgerEntry) (s : State) : (setEntry n e s).survive = s.survive := rfl
@[simp] theorem setEntry_hm (n : Nat) (e : LedgerEntry) (s : State) : (setEntry n e s).hm = s.hm := rfl
@[simp] theorem setEntry_startUp (n : Nat) (e : LedgerEntry) (s : State) : (setEntry n e s).startUp = s.startUp := rfl
@[simp] theorem setEntry_board (n : Nat) (e : LedgerEntry) (s : State) : (setEntry n e s).board = s.board := rfl
@[simp] theorem setEntry_power (n : Nat) (e : LedgerEntry) (s : State) : (setEntry n e s).power = s.power := rfl
@[simp] theorem setTick_pending (t : TickUnit) (s : State) : (setTick t s).pending = s.pending := rfl
@[simp] theorem setTick_outbox (t : TickUnit) (s : State) : (setTick t s).outbox = s.outbox := rfl
@[simp] theorem setTick_freeCtr (t : TickUnit) (s : State) : (setTick t s).freeCtr = s.freeCtr := rfl
@[simp] theorem setTick_frameOut (t : TickUnit) (s : State) : (setTick t s).frameOut = s.frameOut := rfl
@[simp] theorem setTick_frameIds (t : TickUnit) (s : State) : (setTick t s).frameIds = s.frameIds := rfl
@[simp] theorem setTick_pages (t : TickUnit) (s : State) : (setTick t s).pages = s.pages := rfl
@[simp] theorem setTick_lastErr (t : TickUnit) (s : State) : (setTick t s).lastErr = s.lastErr := rfl
@[simp] theorem setTick_hiLatch (t : TickUnit) (s : State) : (setTick t s).hiLatch = s.hiLatch := rfl
@[simp] theorem setTick_loHeld (t : TickUnit) (s : State) : (setTick t s).loHeld = s.loHeld := rfl
@[simp] theorem setTick_domains (t : TickUnit) (s : State) : (setTick t s).domains = s.domains := rfl
@[simp] theorem setTick_timers (t : TickUnit) (s : State) : (setTick t s).timers = s.timers := rfl
@[simp] theorem setTick_irq (t : TickUnit) (s : State) : (setTick t s).irq = s.irq := rfl
@[simp] theorem setTick_ledger (t : TickUnit) (s : State) : (setTick t s).ledger = s.ledger := rfl
@[simp] theorem setTick_route (t : TickUnit) (s : State) : (setTick t s).route = s.route := rfl
@[simp] theorem setTick_hostbr (t : TickUnit) (s : State) : (setTick t s).hostbr = s.hostbr := rfl
@[simp] theorem setTick_mem (t : TickUnit) (s : State) : (setTick t s).mem = s.mem := rfl
@[simp] theorem setTick_berths (t : TickUnit) (s : State) : (setTick t s).berths = s.berths := rfl
@[simp] theorem setTick_serve (t : TickUnit) (s : State) : (setTick t s).serve = s.serve := rfl
@[simp] theorem setTick_query (t : TickUnit) (s : State) : (setTick t s).query = s.query := rfl
@[simp] theorem setTick_acct (t : TickUnit) (s : State) : (setTick t s).acct = s.acct := rfl
@[simp] theorem setTick_weights (t : TickUnit) (s : State) : (setTick t s).weights = s.weights := rfl
@[simp] theorem setTick_members (t : TickUnit) (s : State) : (setTick t s).members = s.members := rfl
@[simp] theorem setTick_redctx (t : TickUnit) (s : State) : (setTick t s).redctx = s.redctx := rfl
@[simp] theorem setTick_reqs (t : TickUnit) (s : State) : (setTick t s).reqs = s.reqs := rfl
@[simp] theorem setTick_health (t : TickUnit) (s : State) : (setTick t s).health = s.health := rfl
@[simp] theorem setTick_dies (t : TickUnit) (s : State) : (setTick t s).dies = s.dies := rfl
@[simp] theorem setTick_ports (t : TickUnit) (s : State) : (setTick t s).ports = s.ports := rfl
@[simp] theorem setTick_seams (t : TickUnit) (s : State) : (setTick t s).seams = s.seams := rfl
@[simp] theorem setTick_survive (t : TickUnit) (s : State) : (setTick t s).survive = s.survive := rfl
@[simp] theorem setTick_hm (t : TickUnit) (s : State) : (setTick t s).hm = s.hm := rfl
@[simp] theorem setTick_startUp (t : TickUnit) (s : State) : (setTick t s).startUp = s.startUp := rfl
@[simp] theorem setTick_board (t : TickUnit) (s : State) : (setTick t s).board = s.board := rfl
@[simp] theorem setTick_power (t : TickUnit) (s : State) : (setTick t s).power = s.power := rfl
@[simp] theorem setBoard_pending (b : Board) (s : State) : (setBoard b s).pending = s.pending := rfl
@[simp] theorem setBoard_outbox (b : Board) (s : State) : (setBoard b s).outbox = s.outbox := rfl
@[simp] theorem setBoard_freeCtr (b : Board) (s : State) : (setBoard b s).freeCtr = s.freeCtr := rfl
@[simp] theorem setBoard_frameOut (b : Board) (s : State) : (setBoard b s).frameOut = s.frameOut := rfl
@[simp] theorem setBoard_frameIds (b : Board) (s : State) : (setBoard b s).frameIds = s.frameIds := rfl
@[simp] theorem setBoard_pages (b : Board) (s : State) : (setBoard b s).pages = s.pages := rfl
@[simp] theorem setBoard_lastErr (b : Board) (s : State) : (setBoard b s).lastErr = s.lastErr := rfl
@[simp] theorem setBoard_hiLatch (b : Board) (s : State) : (setBoard b s).hiLatch = s.hiLatch := rfl
@[simp] theorem setBoard_loHeld (b : Board) (s : State) : (setBoard b s).loHeld = s.loHeld := rfl
@[simp] theorem setBoard_tick (b : Board) (s : State) : (setBoard b s).tick = s.tick := rfl
@[simp] theorem setBoard_domains (b : Board) (s : State) : (setBoard b s).domains = s.domains := rfl
@[simp] theorem setBoard_timers (b : Board) (s : State) : (setBoard b s).timers = s.timers := rfl
@[simp] theorem setBoard_irq (b : Board) (s : State) : (setBoard b s).irq = s.irq := rfl
@[simp] theorem setBoard_ledger (b : Board) (s : State) : (setBoard b s).ledger = s.ledger := rfl
@[simp] theorem setBoard_route (b : Board) (s : State) : (setBoard b s).route = s.route := rfl
@[simp] theorem setBoard_hostbr (b : Board) (s : State) : (setBoard b s).hostbr = s.hostbr := rfl
@[simp] theorem setBoard_mem (b : Board) (s : State) : (setBoard b s).mem = s.mem := rfl
@[simp] theorem setBoard_berths (b : Board) (s : State) : (setBoard b s).berths = s.berths := rfl
@[simp] theorem setBoard_serve (b : Board) (s : State) : (setBoard b s).serve = s.serve := rfl
@[simp] theorem setBoard_query (b : Board) (s : State) : (setBoard b s).query = s.query := rfl
@[simp] theorem setBoard_acct (b : Board) (s : State) : (setBoard b s).acct = s.acct := rfl
@[simp] theorem setBoard_weights (b : Board) (s : State) : (setBoard b s).weights = s.weights := rfl
@[simp] theorem setBoard_members (b : Board) (s : State) : (setBoard b s).members = s.members := rfl
@[simp] theorem setBoard_redctx (b : Board) (s : State) : (setBoard b s).redctx = s.redctx := rfl
@[simp] theorem setBoard_reqs (b : Board) (s : State) : (setBoard b s).reqs = s.reqs := rfl
@[simp] theorem setBoard_health (b : Board) (s : State) : (setBoard b s).health = s.health := rfl
@[simp] theorem setBoard_dies (b : Board) (s : State) : (setBoard b s).dies = s.dies := rfl
@[simp] theorem setBoard_ports (b : Board) (s : State) : (setBoard b s).ports = s.ports := rfl
@[simp] theorem setBoard_seams (b : Board) (s : State) : (setBoard b s).seams = s.seams := rfl
@[simp] theorem setBoard_survive (b : Board) (s : State) : (setBoard b s).survive = s.survive := rfl
@[simp] theorem setBoard_hm (b : Board) (s : State) : (setBoard b s).hm = s.hm := rfl
@[simp] theorem setBoard_startUp (b : Board) (s : State) : (setBoard b s).startUp = s.startUp := rfl
@[simp] theorem setBoard_power (b : Board) (s : State) : (setBoard b s).power = s.power := rfl
@[simp] theorem setPower_pending (p : Power) (s : State) : (setPower p s).pending = s.pending := rfl
@[simp] theorem setPower_outbox (p : Power) (s : State) : (setPower p s).outbox = s.outbox := rfl
@[simp] theorem setPower_freeCtr (p : Power) (s : State) : (setPower p s).freeCtr = s.freeCtr := rfl
@[simp] theorem setPower_frameOut (p : Power) (s : State) : (setPower p s).frameOut = s.frameOut := rfl
@[simp] theorem setPower_frameIds (p : Power) (s : State) : (setPower p s).frameIds = s.frameIds := rfl
@[simp] theorem setPower_pages (p : Power) (s : State) : (setPower p s).pages = s.pages := rfl
@[simp] theorem setPower_lastErr (p : Power) (s : State) : (setPower p s).lastErr = s.lastErr := rfl
@[simp] theorem setPower_hiLatch (p : Power) (s : State) : (setPower p s).hiLatch = s.hiLatch := rfl
@[simp] theorem setPower_loHeld (p : Power) (s : State) : (setPower p s).loHeld = s.loHeld := rfl
@[simp] theorem setPower_tick (p : Power) (s : State) : (setPower p s).tick = s.tick := rfl
@[simp] theorem setPower_domains (p : Power) (s : State) : (setPower p s).domains = s.domains := rfl
@[simp] theorem setPower_timers (p : Power) (s : State) : (setPower p s).timers = s.timers := rfl
@[simp] theorem setPower_irq (p : Power) (s : State) : (setPower p s).irq = s.irq := rfl
@[simp] theorem setPower_ledger (p : Power) (s : State) : (setPower p s).ledger = s.ledger := rfl
@[simp] theorem setPower_route (p : Power) (s : State) : (setPower p s).route = s.route := rfl
@[simp] theorem setPower_hostbr (p : Power) (s : State) : (setPower p s).hostbr = s.hostbr := rfl
@[simp] theorem setPower_mem (p : Power) (s : State) : (setPower p s).mem = s.mem := rfl
@[simp] theorem setPower_berths (p : Power) (s : State) : (setPower p s).berths = s.berths := rfl
@[simp] theorem setPower_serve (p : Power) (s : State) : (setPower p s).serve = s.serve := rfl
@[simp] theorem setPower_query (p : Power) (s : State) : (setPower p s).query = s.query := rfl
@[simp] theorem setPower_acct (p : Power) (s : State) : (setPower p s).acct = s.acct := rfl
@[simp] theorem setPower_weights (p : Power) (s : State) : (setPower p s).weights = s.weights := rfl
@[simp] theorem setPower_members (p : Power) (s : State) : (setPower p s).members = s.members := rfl
@[simp] theorem setPower_redctx (p : Power) (s : State) : (setPower p s).redctx = s.redctx := rfl
@[simp] theorem setPower_reqs (p : Power) (s : State) : (setPower p s).reqs = s.reqs := rfl
@[simp] theorem setPower_health (p : Power) (s : State) : (setPower p s).health = s.health := rfl
@[simp] theorem setPower_dies (p : Power) (s : State) : (setPower p s).dies = s.dies := rfl
@[simp] theorem setPower_ports (p : Power) (s : State) : (setPower p s).ports = s.ports := rfl
@[simp] theorem setPower_seams (p : Power) (s : State) : (setPower p s).seams = s.seams := rfl
@[simp] theorem setPower_survive (p : Power) (s : State) : (setPower p s).survive = s.survive := rfl
@[simp] theorem setPower_hm (p : Power) (s : State) : (setPower p s).hm = s.hm := rfl
@[simp] theorem setPower_startUp (p : Power) (s : State) : (setPower p s).startUp = s.startUp := rfl
@[simp] theorem setPower_board (p : Power) (s : State) : (setPower p s).board = s.board := rfl
@[simp] theorem setClock_pending (c : Nat) (s : State) : (setClock c s).pending = s.pending := rfl
@[simp] theorem setClock_outbox (c : Nat) (s : State) : (setClock c s).outbox = s.outbox := rfl
@[simp] theorem setClock_freeCtr (c : Nat) (s : State) : (setClock c s).freeCtr = s.freeCtr := rfl
@[simp] theorem setClock_frameOut (c : Nat) (s : State) : (setClock c s).frameOut = s.frameOut := rfl
@[simp] theorem setClock_frameIds (c : Nat) (s : State) : (setClock c s).frameIds = s.frameIds := rfl
@[simp] theorem setClock_pages (c : Nat) (s : State) : (setClock c s).pages = s.pages := rfl
@[simp] theorem setClock_lastErr (c : Nat) (s : State) : (setClock c s).lastErr = s.lastErr := rfl
@[simp] theorem setClock_hiLatch (c : Nat) (s : State) : (setClock c s).hiLatch = s.hiLatch := rfl
@[simp] theorem setClock_loHeld (c : Nat) (s : State) : (setClock c s).loHeld = s.loHeld := rfl
@[simp] theorem setClock_tick (c : Nat) (s : State) : (setClock c s).tick = s.tick := rfl
@[simp] theorem setClock_domains (c : Nat) (s : State) : (setClock c s).domains = s.domains := rfl
@[simp] theorem setClock_timers (c : Nat) (s : State) : (setClock c s).timers = s.timers := rfl
@[simp] theorem setClock_irq (c : Nat) (s : State) : (setClock c s).irq = s.irq := rfl
@[simp] theorem setClock_ledger (c : Nat) (s : State) : (setClock c s).ledger = s.ledger := rfl
@[simp] theorem setClock_route (c : Nat) (s : State) : (setClock c s).route = s.route := rfl
@[simp] theorem setClock_hostbr (c : Nat) (s : State) : (setClock c s).hostbr = s.hostbr := rfl
@[simp] theorem setClock_mem (c : Nat) (s : State) : (setClock c s).mem = s.mem := rfl
@[simp] theorem setClock_berths (c : Nat) (s : State) : (setClock c s).berths = s.berths := rfl
@[simp] theorem setClock_serve (c : Nat) (s : State) : (setClock c s).serve = s.serve := rfl
@[simp] theorem setClock_query (c : Nat) (s : State) : (setClock c s).query = s.query := rfl
@[simp] theorem setClock_acct (c : Nat) (s : State) : (setClock c s).acct = s.acct := rfl
@[simp] theorem setClock_weights (c : Nat) (s : State) : (setClock c s).weights = s.weights := rfl
@[simp] theorem setClock_members (c : Nat) (s : State) : (setClock c s).members = s.members := rfl
@[simp] theorem setClock_redctx (c : Nat) (s : State) : (setClock c s).redctx = s.redctx := rfl
@[simp] theorem setClock_reqs (c : Nat) (s : State) : (setClock c s).reqs = s.reqs := rfl
@[simp] theorem setClock_health (c : Nat) (s : State) : (setClock c s).health = s.health := rfl
@[simp] theorem setClock_ports (c : Nat) (s : State) : (setClock c s).ports = s.ports := rfl
@[simp] theorem setClock_seams (c : Nat) (s : State) : (setClock c s).seams = s.seams := rfl
@[simp] theorem setClock_survive (c : Nat) (s : State) : (setClock c s).survive = s.survive := rfl
@[simp] theorem setClock_hm (c : Nat) (s : State) : (setClock c s).hm = s.hm := rfl
@[simp] theorem setClock_startUp (c : Nat) (s : State) : (setClock c s).startUp = s.startUp := rfl
@[simp] theorem setClock_board (c : Nat) (s : State) : (setClock c s).board = s.board := rfl
@[simp] theorem setClock_power (c : Nat) (s : State) : (setClock c s).power = s.power := rfl
@[simp] theorem setHm_pending (h : Hm) (s : State) : (setHm h s).pending = s.pending := rfl
@[simp] theorem setHm_outbox (h : Hm) (s : State) : (setHm h s).outbox = s.outbox := rfl
@[simp] theorem setHm_freeCtr (h : Hm) (s : State) : (setHm h s).freeCtr = s.freeCtr := rfl
@[simp] theorem setHm_frameOut (h : Hm) (s : State) : (setHm h s).frameOut = s.frameOut := rfl
@[simp] theorem setHm_frameIds (h : Hm) (s : State) : (setHm h s).frameIds = s.frameIds := rfl
@[simp] theorem setHm_pages (h : Hm) (s : State) : (setHm h s).pages = s.pages := rfl
@[simp] theorem setHm_lastErr (h : Hm) (s : State) : (setHm h s).lastErr = s.lastErr := rfl
@[simp] theorem setHm_hiLatch (h : Hm) (s : State) : (setHm h s).hiLatch = s.hiLatch := rfl
@[simp] theorem setHm_loHeld (h : Hm) (s : State) : (setHm h s).loHeld = s.loHeld := rfl
@[simp] theorem setHm_tick (h : Hm) (s : State) : (setHm h s).tick = s.tick := rfl
@[simp] theorem setHm_domains (h : Hm) (s : State) : (setHm h s).domains = s.domains := rfl
@[simp] theorem setHm_timers (h : Hm) (s : State) : (setHm h s).timers = s.timers := rfl
@[simp] theorem setHm_irq (h : Hm) (s : State) : (setHm h s).irq = s.irq := rfl
@[simp] theorem setHm_ledger (h : Hm) (s : State) : (setHm h s).ledger = s.ledger := rfl
@[simp] theorem setHm_route (h : Hm) (s : State) : (setHm h s).route = s.route := rfl
@[simp] theorem setHm_hostbr (h : Hm) (s : State) : (setHm h s).hostbr = s.hostbr := rfl
@[simp] theorem setHm_mem (h : Hm) (s : State) : (setHm h s).mem = s.mem := rfl
@[simp] theorem setHm_berths (h : Hm) (s : State) : (setHm h s).berths = s.berths := rfl
@[simp] theorem setHm_serve (h : Hm) (s : State) : (setHm h s).serve = s.serve := rfl
@[simp] theorem setHm_query (h : Hm) (s : State) : (setHm h s).query = s.query := rfl
@[simp] theorem setHm_acct (h : Hm) (s : State) : (setHm h s).acct = s.acct := rfl
@[simp] theorem setHm_weights (h : Hm) (s : State) : (setHm h s).weights = s.weights := rfl
@[simp] theorem setHm_members (h : Hm) (s : State) : (setHm h s).members = s.members := rfl
@[simp] theorem setHm_redctx (h : Hm) (s : State) : (setHm h s).redctx = s.redctx := rfl
@[simp] theorem setHm_reqs (h : Hm) (s : State) : (setHm h s).reqs = s.reqs := rfl
@[simp] theorem setHm_health (h : Hm) (s : State) : (setHm h s).health = s.health := rfl
@[simp] theorem setHm_dies (h : Hm) (s : State) : (setHm h s).dies = s.dies := rfl
@[simp] theorem setHm_ports (h : Hm) (s : State) : (setHm h s).ports = s.ports := rfl
@[simp] theorem setHm_seams (h : Hm) (s : State) : (setHm h s).seams = s.seams := rfl
@[simp] theorem setHm_survive (h : Hm) (s : State) : (setHm h s).survive = s.survive := rfl
@[simp] theorem setHm_startUp (h : Hm) (s : State) : (setHm h s).startUp = s.startUp := rfl
@[simp] theorem setHm_board (h : Hm) (s : State) : (setHm h s).board = s.board := rfl
@[simp] theorem setHm_power (h : Hm) (s : State) : (setHm h s).power = s.power := rfl
@[simp] theorem setRedCtx_pending (c : Nat) (x : RedCtx) (s : State) : (setRedCtx c x s).pending = s.pending := rfl
@[simp] theorem setRedCtx_outbox (c : Nat) (x : RedCtx) (s : State) : (setRedCtx c x s).outbox = s.outbox := rfl
@[simp] theorem setRedCtx_freeCtr (c : Nat) (x : RedCtx) (s : State) : (setRedCtx c x s).freeCtr = s.freeCtr := rfl
@[simp] theorem setRedCtx_frameOut (c : Nat) (x : RedCtx) (s : State) : (setRedCtx c x s).frameOut = s.frameOut := rfl
@[simp] theorem setRedCtx_frameIds (c : Nat) (x : RedCtx) (s : State) : (setRedCtx c x s).frameIds = s.frameIds := rfl
@[simp] theorem setRedCtx_pages (c : Nat) (x : RedCtx) (s : State) : (setRedCtx c x s).pages = s.pages := rfl
@[simp] theorem setRedCtx_lastErr (c : Nat) (x : RedCtx) (s : State) : (setRedCtx c x s).lastErr = s.lastErr := rfl
@[simp] theorem setRedCtx_hiLatch (c : Nat) (x : RedCtx) (s : State) : (setRedCtx c x s).hiLatch = s.hiLatch := rfl
@[simp] theorem setRedCtx_loHeld (c : Nat) (x : RedCtx) (s : State) : (setRedCtx c x s).loHeld = s.loHeld := rfl
@[simp] theorem setRedCtx_tick (c : Nat) (x : RedCtx) (s : State) : (setRedCtx c x s).tick = s.tick := rfl
@[simp] theorem setRedCtx_domains (c : Nat) (x : RedCtx) (s : State) : (setRedCtx c x s).domains = s.domains := rfl
@[simp] theorem setRedCtx_timers (c : Nat) (x : RedCtx) (s : State) : (setRedCtx c x s).timers = s.timers := rfl
@[simp] theorem setRedCtx_irq (c : Nat) (x : RedCtx) (s : State) : (setRedCtx c x s).irq = s.irq := rfl
@[simp] theorem setRedCtx_ledger (c : Nat) (x : RedCtx) (s : State) : (setRedCtx c x s).ledger = s.ledger := rfl
@[simp] theorem setRedCtx_route (c : Nat) (x : RedCtx) (s : State) : (setRedCtx c x s).route = s.route := rfl
@[simp] theorem setRedCtx_hostbr (c : Nat) (x : RedCtx) (s : State) : (setRedCtx c x s).hostbr = s.hostbr := rfl
@[simp] theorem setRedCtx_mem (c : Nat) (x : RedCtx) (s : State) : (setRedCtx c x s).mem = s.mem := rfl
@[simp] theorem setRedCtx_berths (c : Nat) (x : RedCtx) (s : State) : (setRedCtx c x s).berths = s.berths := rfl
@[simp] theorem setRedCtx_serve (c : Nat) (x : RedCtx) (s : State) : (setRedCtx c x s).serve = s.serve := rfl
@[simp] theorem setRedCtx_query (c : Nat) (x : RedCtx) (s : State) : (setRedCtx c x s).query = s.query := rfl
@[simp] theorem setRedCtx_acct (c : Nat) (x : RedCtx) (s : State) : (setRedCtx c x s).acct = s.acct := rfl
@[simp] theorem setRedCtx_weights (c : Nat) (x : RedCtx) (s : State) : (setRedCtx c x s).weights = s.weights := rfl
@[simp] theorem setRedCtx_members (c : Nat) (x : RedCtx) (s : State) : (setRedCtx c x s).members = s.members := rfl
@[simp] theorem setRedCtx_reqs (c : Nat) (x : RedCtx) (s : State) : (setRedCtx c x s).reqs = s.reqs := rfl
@[simp] theorem setRedCtx_health (c : Nat) (x : RedCtx) (s : State) : (setRedCtx c x s).health = s.health := rfl
@[simp] theorem setRedCtx_dies (c : Nat) (x : RedCtx) (s : State) : (setRedCtx c x s).dies = s.dies := rfl
@[simp] theorem setRedCtx_ports (c : Nat) (x : RedCtx) (s : State) : (setRedCtx c x s).ports = s.ports := rfl
@[simp] theorem setRedCtx_seams (c : Nat) (x : RedCtx) (s : State) : (setRedCtx c x s).seams = s.seams := rfl
@[simp] theorem setRedCtx_survive (c : Nat) (x : RedCtx) (s : State) : (setRedCtx c x s).survive = s.survive := rfl
@[simp] theorem setRedCtx_hm (c : Nat) (x : RedCtx) (s : State) : (setRedCtx c x s).hm = s.hm := rfl
@[simp] theorem setRedCtx_startUp (c : Nat) (x : RedCtx) (s : State) : (setRedCtx c x s).startUp = s.startUp := rfl
@[simp] theorem setRedCtx_board (c : Nat) (x : RedCtx) (s : State) : (setRedCtx c x s).board = s.board := rfl
@[simp] theorem setRedCtx_power (c : Nat) (x : RedCtx) (s : State) : (setRedCtx c x s).power = s.power := rfl
@[simp] theorem modRedCtx_pending (c : Nat) (f : RedCtx → RedCtx) (s : State) : (modRedCtx c f s).pending = s.pending := rfl
@[simp] theorem modRedCtx_outbox (c : Nat) (f : RedCtx → RedCtx) (s : State) : (modRedCtx c f s).outbox = s.outbox := rfl
@[simp] theorem modRedCtx_freeCtr (c : Nat) (f : RedCtx → RedCtx) (s : State) : (modRedCtx c f s).freeCtr = s.freeCtr := rfl
@[simp] theorem modRedCtx_frameOut (c : Nat) (f : RedCtx → RedCtx) (s : State) : (modRedCtx c f s).frameOut = s.frameOut := rfl
@[simp] theorem modRedCtx_frameIds (c : Nat) (f : RedCtx → RedCtx) (s : State) : (modRedCtx c f s).frameIds = s.frameIds := rfl
@[simp] theorem modRedCtx_pages (c : Nat) (f : RedCtx → RedCtx) (s : State) : (modRedCtx c f s).pages = s.pages := rfl
@[simp] theorem modRedCtx_lastErr (c : Nat) (f : RedCtx → RedCtx) (s : State) : (modRedCtx c f s).lastErr = s.lastErr := rfl
@[simp] theorem modRedCtx_hiLatch (c : Nat) (f : RedCtx → RedCtx) (s : State) : (modRedCtx c f s).hiLatch = s.hiLatch := rfl
@[simp] theorem modRedCtx_loHeld (c : Nat) (f : RedCtx → RedCtx) (s : State) : (modRedCtx c f s).loHeld = s.loHeld := rfl
@[simp] theorem modRedCtx_tick (c : Nat) (f : RedCtx → RedCtx) (s : State) : (modRedCtx c f s).tick = s.tick := rfl
@[simp] theorem modRedCtx_domains (c : Nat) (f : RedCtx → RedCtx) (s : State) : (modRedCtx c f s).domains = s.domains := rfl
@[simp] theorem modRedCtx_timers (c : Nat) (f : RedCtx → RedCtx) (s : State) : (modRedCtx c f s).timers = s.timers := rfl
@[simp] theorem modRedCtx_irq (c : Nat) (f : RedCtx → RedCtx) (s : State) : (modRedCtx c f s).irq = s.irq := rfl
@[simp] theorem modRedCtx_ledger (c : Nat) (f : RedCtx → RedCtx) (s : State) : (modRedCtx c f s).ledger = s.ledger := rfl
@[simp] theorem modRedCtx_route (c : Nat) (f : RedCtx → RedCtx) (s : State) : (modRedCtx c f s).route = s.route := rfl
@[simp] theorem modRedCtx_hostbr (c : Nat) (f : RedCtx → RedCtx) (s : State) : (modRedCtx c f s).hostbr = s.hostbr := rfl
@[simp] theorem modRedCtx_mem (c : Nat) (f : RedCtx → RedCtx) (s : State) : (modRedCtx c f s).mem = s.mem := rfl
@[simp] theorem modRedCtx_berths (c : Nat) (f : RedCtx → RedCtx) (s : State) : (modRedCtx c f s).berths = s.berths := rfl
@[simp] theorem modRedCtx_serve (c : Nat) (f : RedCtx → RedCtx) (s : State) : (modRedCtx c f s).serve = s.serve := rfl
@[simp] theorem modRedCtx_query (c : Nat) (f : RedCtx → RedCtx) (s : State) : (modRedCtx c f s).query = s.query := rfl
@[simp] theorem modRedCtx_acct (c : Nat) (f : RedCtx → RedCtx) (s : State) : (modRedCtx c f s).acct = s.acct := rfl
@[simp] theorem modRedCtx_weights (c : Nat) (f : RedCtx → RedCtx) (s : State) : (modRedCtx c f s).weights = s.weights := rfl
@[simp] theorem modRedCtx_members (c : Nat) (f : RedCtx → RedCtx) (s : State) : (modRedCtx c f s).members = s.members := rfl
@[simp] theorem modRedCtx_reqs (c : Nat) (f : RedCtx → RedCtx) (s : State) : (modRedCtx c f s).reqs = s.reqs := rfl
@[simp] theorem modRedCtx_health (c : Nat) (f : RedCtx → RedCtx) (s : State) : (modRedCtx c f s).health = s.health := rfl
@[simp] theorem modRedCtx_dies (c : Nat) (f : RedCtx → RedCtx) (s : State) : (modRedCtx c f s).dies = s.dies := rfl
@[simp] theorem modRedCtx_ports (c : Nat) (f : RedCtx → RedCtx) (s : State) : (modRedCtx c f s).ports = s.ports := rfl
@[simp] theorem modRedCtx_seams (c : Nat) (f : RedCtx → RedCtx) (s : State) : (modRedCtx c f s).seams = s.seams := rfl
@[simp] theorem modRedCtx_survive (c : Nat) (f : RedCtx → RedCtx) (s : State) : (modRedCtx c f s).survive = s.survive := rfl
@[simp] theorem modRedCtx_hm (c : Nat) (f : RedCtx → RedCtx) (s : State) : (modRedCtx c f s).hm = s.hm := rfl
@[simp] theorem modRedCtx_startUp (c : Nat) (f : RedCtx → RedCtx) (s : State) : (modRedCtx c f s).startUp = s.startUp := rfl
@[simp] theorem modRedCtx_board (c : Nat) (f : RedCtx → RedCtx) (s : State) : (modRedCtx c f s).board = s.board := rfl
@[simp] theorem modRedCtx_power (c : Nat) (f : RedCtx → RedCtx) (s : State) : (modRedCtx c f s).power = s.power := rfl
@[simp] theorem setRedRun_pending (c : Nat) (x : RedRun) (s : State) : (setRedRun c x s).pending = s.pending := rfl
@[simp] theorem setRedRun_outbox (c : Nat) (x : RedRun) (s : State) : (setRedRun c x s).outbox = s.outbox := rfl
@[simp] theorem setRedRun_freeCtr (c : Nat) (x : RedRun) (s : State) : (setRedRun c x s).freeCtr = s.freeCtr := rfl
@[simp] theorem setRedRun_frameOut (c : Nat) (x : RedRun) (s : State) : (setRedRun c x s).frameOut = s.frameOut := rfl
@[simp] theorem setRedRun_frameIds (c : Nat) (x : RedRun) (s : State) : (setRedRun c x s).frameIds = s.frameIds := rfl
@[simp] theorem setRedRun_pages (c : Nat) (x : RedRun) (s : State) : (setRedRun c x s).pages = s.pages := rfl
@[simp] theorem setRedRun_lastErr (c : Nat) (x : RedRun) (s : State) : (setRedRun c x s).lastErr = s.lastErr := rfl
@[simp] theorem setRedRun_hiLatch (c : Nat) (x : RedRun) (s : State) : (setRedRun c x s).hiLatch = s.hiLatch := rfl
@[simp] theorem setRedRun_loHeld (c : Nat) (x : RedRun) (s : State) : (setRedRun c x s).loHeld = s.loHeld := rfl
@[simp] theorem setRedRun_tick (c : Nat) (x : RedRun) (s : State) : (setRedRun c x s).tick = s.tick := rfl
@[simp] theorem setRedRun_domains (c : Nat) (x : RedRun) (s : State) : (setRedRun c x s).domains = s.domains := rfl
@[simp] theorem setRedRun_timers (c : Nat) (x : RedRun) (s : State) : (setRedRun c x s).timers = s.timers := rfl
@[simp] theorem setRedRun_irq (c : Nat) (x : RedRun) (s : State) : (setRedRun c x s).irq = s.irq := rfl
@[simp] theorem setRedRun_ledger (c : Nat) (x : RedRun) (s : State) : (setRedRun c x s).ledger = s.ledger := rfl
@[simp] theorem setRedRun_route (c : Nat) (x : RedRun) (s : State) : (setRedRun c x s).route = s.route := rfl
@[simp] theorem setRedRun_hostbr (c : Nat) (x : RedRun) (s : State) : (setRedRun c x s).hostbr = s.hostbr := rfl
@[simp] theorem setRedRun_mem (c : Nat) (x : RedRun) (s : State) : (setRedRun c x s).mem = s.mem := rfl
@[simp] theorem setRedRun_berths (c : Nat) (x : RedRun) (s : State) : (setRedRun c x s).berths = s.berths := rfl
@[simp] theorem setRedRun_serve (c : Nat) (x : RedRun) (s : State) : (setRedRun c x s).serve = s.serve := rfl
@[simp] theorem setRedRun_query (c : Nat) (x : RedRun) (s : State) : (setRedRun c x s).query = s.query := rfl
@[simp] theorem setRedRun_acct (c : Nat) (x : RedRun) (s : State) : (setRedRun c x s).acct = s.acct := rfl
@[simp] theorem setRedRun_weights (c : Nat) (x : RedRun) (s : State) : (setRedRun c x s).weights = s.weights := rfl
@[simp] theorem setRedRun_members (c : Nat) (x : RedRun) (s : State) : (setRedRun c x s).members = s.members := rfl
@[simp] theorem setRedRun_reqs (c : Nat) (x : RedRun) (s : State) : (setRedRun c x s).reqs = s.reqs := rfl
@[simp] theorem setRedRun_health (c : Nat) (x : RedRun) (s : State) : (setRedRun c x s).health = s.health := rfl
@[simp] theorem setRedRun_dies (c : Nat) (x : RedRun) (s : State) : (setRedRun c x s).dies = s.dies := rfl
@[simp] theorem setRedRun_ports (c : Nat) (x : RedRun) (s : State) : (setRedRun c x s).ports = s.ports := rfl
@[simp] theorem setRedRun_seams (c : Nat) (x : RedRun) (s : State) : (setRedRun c x s).seams = s.seams := rfl
@[simp] theorem setRedRun_survive (c : Nat) (x : RedRun) (s : State) : (setRedRun c x s).survive = s.survive := rfl
@[simp] theorem setRedRun_hm (c : Nat) (x : RedRun) (s : State) : (setRedRun c x s).hm = s.hm := rfl
@[simp] theorem setRedRun_startUp (c : Nat) (x : RedRun) (s : State) : (setRedRun c x s).startUp = s.startUp := rfl
@[simp] theorem setRedRun_board (c : Nat) (x : RedRun) (s : State) : (setRedRun c x s).board = s.board := rfl
@[simp] theorem setRedRun_power (c : Nat) (x : RedRun) (s : State) : (setRedRun c x s).power = s.power := rfl
@[simp] theorem setSeam_pending (c k : Nat) (x : Seam) (s : State) : (setSeam c k x s).pending = s.pending := rfl
@[simp] theorem setSeam_outbox (c k : Nat) (x : Seam) (s : State) : (setSeam c k x s).outbox = s.outbox := rfl
@[simp] theorem setSeam_freeCtr (c k : Nat) (x : Seam) (s : State) : (setSeam c k x s).freeCtr = s.freeCtr := rfl
@[simp] theorem setSeam_frameOut (c k : Nat) (x : Seam) (s : State) : (setSeam c k x s).frameOut = s.frameOut := rfl
@[simp] theorem setSeam_frameIds (c k : Nat) (x : Seam) (s : State) : (setSeam c k x s).frameIds = s.frameIds := rfl
@[simp] theorem setSeam_pages (c k : Nat) (x : Seam) (s : State) : (setSeam c k x s).pages = s.pages := rfl
@[simp] theorem setSeam_lastErr (c k : Nat) (x : Seam) (s : State) : (setSeam c k x s).lastErr = s.lastErr := rfl
@[simp] theorem setSeam_hiLatch (c k : Nat) (x : Seam) (s : State) : (setSeam c k x s).hiLatch = s.hiLatch := rfl
@[simp] theorem setSeam_loHeld (c k : Nat) (x : Seam) (s : State) : (setSeam c k x s).loHeld = s.loHeld := rfl
@[simp] theorem setSeam_tick (c k : Nat) (x : Seam) (s : State) : (setSeam c k x s).tick = s.tick := rfl
@[simp] theorem setSeam_domains (c k : Nat) (x : Seam) (s : State) : (setSeam c k x s).domains = s.domains := rfl
@[simp] theorem setSeam_timers (c k : Nat) (x : Seam) (s : State) : (setSeam c k x s).timers = s.timers := rfl
@[simp] theorem setSeam_irq (c k : Nat) (x : Seam) (s : State) : (setSeam c k x s).irq = s.irq := rfl
@[simp] theorem setSeam_ledger (c k : Nat) (x : Seam) (s : State) : (setSeam c k x s).ledger = s.ledger := rfl
@[simp] theorem setSeam_route (c k : Nat) (x : Seam) (s : State) : (setSeam c k x s).route = s.route := rfl
@[simp] theorem setSeam_hostbr (c k : Nat) (x : Seam) (s : State) : (setSeam c k x s).hostbr = s.hostbr := rfl
@[simp] theorem setSeam_mem (c k : Nat) (x : Seam) (s : State) : (setSeam c k x s).mem = s.mem := rfl
@[simp] theorem setSeam_berths (c k : Nat) (x : Seam) (s : State) : (setSeam c k x s).berths = s.berths := rfl
@[simp] theorem setSeam_serve (c k : Nat) (x : Seam) (s : State) : (setSeam c k x s).serve = s.serve := rfl
@[simp] theorem setSeam_query (c k : Nat) (x : Seam) (s : State) : (setSeam c k x s).query = s.query := rfl
@[simp] theorem setSeam_acct (c k : Nat) (x : Seam) (s : State) : (setSeam c k x s).acct = s.acct := rfl
@[simp] theorem setSeam_weights (c k : Nat) (x : Seam) (s : State) : (setSeam c k x s).weights = s.weights := rfl
@[simp] theorem setSeam_members (c k : Nat) (x : Seam) (s : State) : (setSeam c k x s).members = s.members := rfl
@[simp] theorem setSeam_redctx (c k : Nat) (x : Seam) (s : State) : (setSeam c k x s).redctx = s.redctx := rfl
@[simp] theorem setSeam_reqs (c k : Nat) (x : Seam) (s : State) : (setSeam c k x s).reqs = s.reqs := rfl
@[simp] theorem setSeam_health (c k : Nat) (x : Seam) (s : State) : (setSeam c k x s).health = s.health := rfl
@[simp] theorem setSeam_dies (c k : Nat) (x : Seam) (s : State) : (setSeam c k x s).dies = s.dies := rfl
@[simp] theorem setSeam_ports (c k : Nat) (x : Seam) (s : State) : (setSeam c k x s).ports = s.ports := rfl
@[simp] theorem setSeam_survive (c k : Nat) (x : Seam) (s : State) : (setSeam c k x s).survive = s.survive := rfl
@[simp] theorem setSeam_hm (c k : Nat) (x : Seam) (s : State) : (setSeam c k x s).hm = s.hm := rfl
@[simp] theorem setSeam_startUp (c k : Nat) (x : Seam) (s : State) : (setSeam c k x s).startUp = s.startUp := rfl
@[simp] theorem setSeam_board (c k : Nat) (x : Seam) (s : State) : (setSeam c k x s).board = s.board := rfl
@[simp] theorem setSeam_power (c k : Nat) (x : Seam) (s : State) : (setSeam c k x s).power = s.power := rfl
@[simp] theorem setCaravan_pending (d : Nat) (c : Caravan) (s : State) : (setCaravan d c s).pending = s.pending := rfl
@[simp] theorem setCaravan_outbox (d : Nat) (c : Caravan) (s : State) : (setCaravan d c s).outbox = s.outbox := rfl
@[simp] theorem setCaravan_freeCtr (d : Nat) (c : Caravan) (s : State) : (setCaravan d c s).freeCtr = s.freeCtr := rfl
@[simp] theorem setCaravan_frameOut (d : Nat) (c : Caravan) (s : State) : (setCaravan d c s).frameOut = s.frameOut := rfl
@[simp] theorem setCaravan_frameIds (d : Nat) (c : Caravan) (s : State) : (setCaravan d c s).frameIds = s.frameIds := rfl
@[simp] theorem setCaravan_pages (d : Nat) (c : Caravan) (s : State) : (setCaravan d c s).pages = s.pages := rfl
@[simp] theorem setCaravan_lastErr (d : Nat) (c : Caravan) (s : State) : (setCaravan d c s).lastErr = s.lastErr := rfl
@[simp] theorem setCaravan_hiLatch (d : Nat) (c : Caravan) (s : State) : (setCaravan d c s).hiLatch = s.hiLatch := rfl
@[simp] theorem setCaravan_loHeld (d : Nat) (c : Caravan) (s : State) : (setCaravan d c s).loHeld = s.loHeld := rfl
@[simp] theorem setCaravan_tick (d : Nat) (c : Caravan) (s : State) : (setCaravan d c s).tick = s.tick := rfl
@[simp] theorem setCaravan_domains (d : Nat) (c : Caravan) (s : State) : (setCaravan d c s).domains = s.domains := rfl
@[simp] theorem setCaravan_timers (d : Nat) (c : Caravan) (s : State) : (setCaravan d c s).timers = s.timers := rfl
@[simp] theorem setCaravan_irq (d : Nat) (c : Caravan) (s : State) : (setCaravan d c s).irq = s.irq := rfl
@[simp] theorem setCaravan_ledger (d : Nat) (c : Caravan) (s : State) : (setCaravan d c s).ledger = s.ledger := rfl
@[simp] theorem setCaravan_route (d : Nat) (c : Caravan) (s : State) : (setCaravan d c s).route = s.route := rfl
@[simp] theorem setCaravan_hostbr (d : Nat) (c : Caravan) (s : State) : (setCaravan d c s).hostbr = s.hostbr := rfl
@[simp] theorem setCaravan_mem (d : Nat) (c : Caravan) (s : State) : (setCaravan d c s).mem = s.mem := rfl
@[simp] theorem setCaravan_berths (d : Nat) (c : Caravan) (s : State) : (setCaravan d c s).berths = s.berths := rfl
@[simp] theorem setCaravan_serve (d : Nat) (c : Caravan) (s : State) : (setCaravan d c s).serve = s.serve := rfl
@[simp] theorem setCaravan_query (d : Nat) (c : Caravan) (s : State) : (setCaravan d c s).query = s.query := rfl
@[simp] theorem setCaravan_acct (d : Nat) (c : Caravan) (s : State) : (setCaravan d c s).acct = s.acct := rfl
@[simp] theorem setCaravan_members (d : Nat) (c : Caravan) (s : State) : (setCaravan d c s).members = s.members := rfl
@[simp] theorem setCaravan_redctx (d : Nat) (c : Caravan) (s : State) : (setCaravan d c s).redctx = s.redctx := rfl
@[simp] theorem setCaravan_reqs (d : Nat) (c : Caravan) (s : State) : (setCaravan d c s).reqs = s.reqs := rfl
@[simp] theorem setCaravan_health (d : Nat) (c : Caravan) (s : State) : (setCaravan d c s).health = s.health := rfl
@[simp] theorem setCaravan_dies (d : Nat) (c : Caravan) (s : State) : (setCaravan d c s).dies = s.dies := rfl
@[simp] theorem setCaravan_ports (d : Nat) (c : Caravan) (s : State) : (setCaravan d c s).ports = s.ports := rfl
@[simp] theorem setCaravan_seams (d : Nat) (c : Caravan) (s : State) : (setCaravan d c s).seams = s.seams := rfl
@[simp] theorem setCaravan_survive (d : Nat) (c : Caravan) (s : State) : (setCaravan d c s).survive = s.survive := rfl
@[simp] theorem setCaravan_hm (d : Nat) (c : Caravan) (s : State) : (setCaravan d c s).hm = s.hm := rfl
@[simp] theorem setCaravan_startUp (d : Nat) (c : Caravan) (s : State) : (setCaravan d c s).startUp = s.startUp := rfl
@[simp] theorem setCaravan_board (d : Nat) (c : Caravan) (s : State) : (setCaravan d c s).board = s.board := rfl
@[simp] theorem setCaravan_power (d : Nat) (c : Caravan) (s : State) : (setCaravan d c s).power = s.power := rfl
@[simp] theorem setInactive_pending (b : RouteBank) (s : State) : (setInactive b s).pending = s.pending := rfl
@[simp] theorem setInactive_outbox (b : RouteBank) (s : State) : (setInactive b s).outbox = s.outbox := rfl
@[simp] theorem setInactive_freeCtr (b : RouteBank) (s : State) : (setInactive b s).freeCtr = s.freeCtr := rfl
@[simp] theorem setInactive_frameOut (b : RouteBank) (s : State) : (setInactive b s).frameOut = s.frameOut := rfl
@[simp] theorem setInactive_frameIds (b : RouteBank) (s : State) : (setInactive b s).frameIds = s.frameIds := rfl
@[simp] theorem setInactive_pages (b : RouteBank) (s : State) : (setInactive b s).pages = s.pages := rfl
@[simp] theorem setInactive_lastErr (b : RouteBank) (s : State) : (setInactive b s).lastErr = s.lastErr := rfl
@[simp] theorem setInactive_hiLatch (b : RouteBank) (s : State) : (setInactive b s).hiLatch = s.hiLatch := rfl
@[simp] theorem setInactive_loHeld (b : RouteBank) (s : State) : (setInactive b s).loHeld = s.loHeld := rfl
@[simp] theorem setInactive_tick (b : RouteBank) (s : State) : (setInactive b s).tick = s.tick := rfl
@[simp] theorem setInactive_domains (b : RouteBank) (s : State) : (setInactive b s).domains = s.domains := rfl
@[simp] theorem setInactive_timers (b : RouteBank) (s : State) : (setInactive b s).timers = s.timers := rfl
@[simp] theorem setInactive_irq (b : RouteBank) (s : State) : (setInactive b s).irq = s.irq := rfl
@[simp] theorem setInactive_ledger (b : RouteBank) (s : State) : (setInactive b s).ledger = s.ledger := rfl
@[simp] theorem setInactive_hostbr (b : RouteBank) (s : State) : (setInactive b s).hostbr = s.hostbr := rfl
@[simp] theorem setInactive_mem (b : RouteBank) (s : State) : (setInactive b s).mem = s.mem := rfl
@[simp] theorem setInactive_berths (b : RouteBank) (s : State) : (setInactive b s).berths = s.berths := rfl
@[simp] theorem setInactive_serve (b : RouteBank) (s : State) : (setInactive b s).serve = s.serve := rfl
@[simp] theorem setInactive_query (b : RouteBank) (s : State) : (setInactive b s).query = s.query := rfl
@[simp] theorem setInactive_acct (b : RouteBank) (s : State) : (setInactive b s).acct = s.acct := rfl
@[simp] theorem setInactive_weights (b : RouteBank) (s : State) : (setInactive b s).weights = s.weights := rfl
@[simp] theorem setInactive_members (b : RouteBank) (s : State) : (setInactive b s).members = s.members := rfl
@[simp] theorem setInactive_redctx (b : RouteBank) (s : State) : (setInactive b s).redctx = s.redctx := rfl
@[simp] theorem setInactive_reqs (b : RouteBank) (s : State) : (setInactive b s).reqs = s.reqs := rfl
@[simp] theorem setInactive_health (b : RouteBank) (s : State) : (setInactive b s).health = s.health := rfl
@[simp] theorem setInactive_dies (b : RouteBank) (s : State) : (setInactive b s).dies = s.dies := rfl
@[simp] theorem setInactive_ports (b : RouteBank) (s : State) : (setInactive b s).ports = s.ports := rfl
@[simp] theorem setInactive_seams (b : RouteBank) (s : State) : (setInactive b s).seams = s.seams := rfl
@[simp] theorem setInactive_survive (b : RouteBank) (s : State) : (setInactive b s).survive = s.survive := rfl
@[simp] theorem setInactive_hm (b : RouteBank) (s : State) : (setInactive b s).hm = s.hm := rfl
@[simp] theorem setInactive_startUp (b : RouteBank) (s : State) : (setInactive b s).startUp = s.startUp := rfl
@[simp] theorem setInactive_board (b : RouteBank) (s : State) : (setInactive b s).board = s.board := rfl
@[simp] theorem setInactive_power (b : RouteBank) (s : State) : (setInactive b s).power = s.power := rfl
@[simp] theorem takeLastErr_pending (k : Blk) (c : W16) (s : State) : (takeLastErr k c s).pending = s.pending := by
  unfold takeLastErr; split <;> split <;> split <;> rfl
@[simp] theorem takeLastErr_outbox (k : Blk) (c : W16) (s : State) : (takeLastErr k c s).outbox = s.outbox := by
  unfold takeLastErr; split <;> split <;> split <;> rfl
@[simp] theorem takeLastErr_freeCtr (k : Blk) (c : W16) (s : State) : (takeLastErr k c s).freeCtr = s.freeCtr := by
  unfold takeLastErr; split <;> split <;> split <;> rfl
@[simp] theorem takeLastErr_frameOut (k : Blk) (c : W16) (s : State) : (takeLastErr k c s).frameOut = s.frameOut := by
  unfold takeLastErr; split <;> split <;> split <;> rfl
@[simp] theorem takeLastErr_frameIds (k : Blk) (c : W16) (s : State) : (takeLastErr k c s).frameIds = s.frameIds := by
  unfold takeLastErr; split <;> split <;> split <;> rfl
@[simp] theorem takeLastErr_hiLatch (k : Blk) (c : W16) (s : State) : (takeLastErr k c s).hiLatch = s.hiLatch := by
  unfold takeLastErr; split <;> split <;> split <;> rfl
@[simp] theorem takeLastErr_loHeld (k : Blk) (c : W16) (s : State) : (takeLastErr k c s).loHeld = s.loHeld := by
  unfold takeLastErr; split <;> split <;> split <;> rfl
@[simp] theorem takeLastErr_tick (k : Blk) (c : W16) (s : State) : (takeLastErr k c s).tick = s.tick := by
  unfold takeLastErr; split <;> split <;> split <;> rfl
@[simp] theorem takeLastErr_domains (k : Blk) (c : W16) (s : State) : (takeLastErr k c s).domains = s.domains := by
  unfold takeLastErr; split <;> split <;> split <;> rfl
@[simp] theorem takeLastErr_timers (k : Blk) (c : W16) (s : State) : (takeLastErr k c s).timers = s.timers := by
  unfold takeLastErr; split <;> split <;> split <;> rfl
@[simp] theorem takeLastErr_irq (k : Blk) (c : W16) (s : State) : (takeLastErr k c s).irq = s.irq := by
  unfold takeLastErr; split <;> split <;> split <;> rfl
@[simp] theorem takeLastErr_ledger (k : Blk) (c : W16) (s : State) : (takeLastErr k c s).ledger = s.ledger := by
  unfold takeLastErr; split <;> split <;> split <;> rfl
@[simp] theorem takeLastErr_route (k : Blk) (c : W16) (s : State) : (takeLastErr k c s).route = s.route := by
  unfold takeLastErr; split <;> split <;> split <;> rfl
@[simp] theorem takeLastErr_hostbr (k : Blk) (c : W16) (s : State) : (takeLastErr k c s).hostbr = s.hostbr := by
  unfold takeLastErr; split <;> split <;> split <;> rfl
@[simp] theorem takeLastErr_mem (k : Blk) (c : W16) (s : State) : (takeLastErr k c s).mem = s.mem := by
  unfold takeLastErr; split <;> split <;> split <;> rfl
@[simp] theorem takeLastErr_berths (k : Blk) (c : W16) (s : State) : (takeLastErr k c s).berths = s.berths := by
  unfold takeLastErr; split <;> split <;> split <;> rfl
@[simp] theorem takeLastErr_serve (k : Blk) (c : W16) (s : State) : (takeLastErr k c s).serve = s.serve := by
  unfold takeLastErr; split <;> split <;> split <;> rfl
@[simp] theorem takeLastErr_query (k : Blk) (c : W16) (s : State) : (takeLastErr k c s).query = s.query := by
  unfold takeLastErr; split <;> split <;> split <;> rfl
@[simp] theorem takeLastErr_acct (k : Blk) (c : W16) (s : State) : (takeLastErr k c s).acct = s.acct := by
  unfold takeLastErr; split <;> split <;> split <;> rfl
@[simp] theorem takeLastErr_weights (k : Blk) (c : W16) (s : State) : (takeLastErr k c s).weights = s.weights := by
  unfold takeLastErr; split <;> split <;> split <;> rfl
@[simp] theorem takeLastErr_members (k : Blk) (c : W16) (s : State) : (takeLastErr k c s).members = s.members := by
  unfold takeLastErr; split <;> split <;> split <;> rfl
@[simp] theorem takeLastErr_redctx (k : Blk) (c : W16) (s : State) : (takeLastErr k c s).redctx = s.redctx := by
  unfold takeLastErr; split <;> split <;> split <;> rfl
@[simp] theorem takeLastErr_reqs (k : Blk) (c : W16) (s : State) : (takeLastErr k c s).reqs = s.reqs := by
  unfold takeLastErr; split <;> split <;> split <;> rfl
@[simp] theorem takeLastErr_health (k : Blk) (c : W16) (s : State) : (takeLastErr k c s).health = s.health := by
  unfold takeLastErr; split <;> split <;> split <;> rfl
@[simp] theorem takeLastErr_dies (k : Blk) (c : W16) (s : State) : (takeLastErr k c s).dies = s.dies := by
  unfold takeLastErr; split <;> split <;> split <;> rfl
@[simp] theorem takeLastErr_ports (k : Blk) (c : W16) (s : State) : (takeLastErr k c s).ports = s.ports := by
  unfold takeLastErr; split <;> split <;> split <;> rfl
@[simp] theorem takeLastErr_seams (k : Blk) (c : W16) (s : State) : (takeLastErr k c s).seams = s.seams := by
  unfold takeLastErr; split <;> split <;> split <;> rfl
@[simp] theorem takeLastErr_survive (k : Blk) (c : W16) (s : State) : (takeLastErr k c s).survive = s.survive := by
  unfold takeLastErr; split <;> split <;> split <;> rfl
@[simp] theorem takeLastErr_hm (k : Blk) (c : W16) (s : State) : (takeLastErr k c s).hm = s.hm := by
  unfold takeLastErr; split <;> split <;> split <;> rfl
@[simp] theorem takeLastErr_startUp (k : Blk) (c : W16) (s : State) : (takeLastErr k c s).startUp = s.startUp := by
  unfold takeLastErr; split <;> split <;> split <;> rfl
@[simp] theorem takeLastErr_board (k : Blk) (c : W16) (s : State) : (takeLastErr k c s).board = s.board := by
  unfold takeLastErr; split <;> split <;> split <;> rfl
@[simp] theorem takeLastErr_power (k : Blk) (c : W16) (s : State) : (takeLastErr k c s).power = s.power := by
  unfold takeLastErr; split <;> split <;> split <;> rfl
@[simp] theorem report_pending (k : Blk) (c : W16) (s : State) : (report k c s).pending = s.pending := by simp [report]
@[simp] theorem report_outbox (k : Blk) (c : W16) (s : State) : (report k c s).outbox = s.outbox := by simp [report]
@[simp] theorem report_freeCtr (k : Blk) (c : W16) (s : State) : (report k c s).freeCtr = s.freeCtr := by simp [report]
@[simp] theorem report_frameOut (k : Blk) (c : W16) (s : State) : (report k c s).frameOut = s.frameOut := by simp [report]
@[simp] theorem report_frameIds (k : Blk) (c : W16) (s : State) : (report k c s).frameIds = s.frameIds := by simp [report]
@[simp] theorem report_hiLatch (k : Blk) (c : W16) (s : State) : (report k c s).hiLatch = s.hiLatch := by simp [report]
@[simp] theorem report_loHeld (k : Blk) (c : W16) (s : State) : (report k c s).loHeld = s.loHeld := by simp [report]
@[simp] theorem report_tick (k : Blk) (c : W16) (s : State) : (report k c s).tick = s.tick := by simp [report]
@[simp] theorem report_domains (k : Blk) (c : W16) (s : State) : (report k c s).domains = s.domains := by simp [report]
@[simp] theorem report_timers (k : Blk) (c : W16) (s : State) : (report k c s).timers = s.timers := by simp [report]
@[simp] theorem report_irq (k : Blk) (c : W16) (s : State) : (report k c s).irq = s.irq := by simp [report]
@[simp] theorem report_ledger (k : Blk) (c : W16) (s : State) : (report k c s).ledger = s.ledger := by simp [report]
@[simp] theorem report_route (k : Blk) (c : W16) (s : State) : (report k c s).route = s.route := by simp [report]
@[simp] theorem report_hostbr (k : Blk) (c : W16) (s : State) : (report k c s).hostbr = s.hostbr := by simp [report]
@[simp] theorem report_mem (k : Blk) (c : W16) (s : State) : (report k c s).mem = s.mem := by simp [report]
@[simp] theorem report_berths (k : Blk) (c : W16) (s : State) : (report k c s).berths = s.berths := by simp [report]
@[simp] theorem report_serve (k : Blk) (c : W16) (s : State) : (report k c s).serve = s.serve := by simp [report]
@[simp] theorem report_query (k : Blk) (c : W16) (s : State) : (report k c s).query = s.query := by simp [report]
@[simp] theorem report_acct (k : Blk) (c : W16) (s : State) : (report k c s).acct = s.acct := by simp [report]
@[simp] theorem report_weights (k : Blk) (c : W16) (s : State) : (report k c s).weights = s.weights := by simp [report]
@[simp] theorem report_members (k : Blk) (c : W16) (s : State) : (report k c s).members = s.members := by simp [report]
@[simp] theorem report_redctx (k : Blk) (c : W16) (s : State) : (report k c s).redctx = s.redctx := by simp [report]
@[simp] theorem report_reqs (k : Blk) (c : W16) (s : State) : (report k c s).reqs = s.reqs := by simp [report]
@[simp] theorem report_health (k : Blk) (c : W16) (s : State) : (report k c s).health = s.health := by simp [report]
@[simp] theorem report_dies (k : Blk) (c : W16) (s : State) : (report k c s).dies = s.dies := by simp [report]
@[simp] theorem report_ports (k : Blk) (c : W16) (s : State) : (report k c s).ports = s.ports := by simp [report]
@[simp] theorem report_seams (k : Blk) (c : W16) (s : State) : (report k c s).seams = s.seams := by simp [report]
@[simp] theorem report_survive (k : Blk) (c : W16) (s : State) : (report k c s).survive = s.survive := by simp [report]
@[simp] theorem report_hm (k : Blk) (c : W16) (s : State) : (report k c s).hm = s.hm := by simp [report]
@[simp] theorem report_startUp (k : Blk) (c : W16) (s : State) : (report k c s).startUp = s.startUp := by simp [report]
@[simp] theorem report_board (k : Blk) (c : W16) (s : State) : (report k c s).board = s.board := by simp [report]
@[simp] theorem report_power (k : Blk) (c : W16) (s : State) : (report k c s).power = s.power := by simp [report]
@[simp] theorem refuse_pending (k : Blk) (c : W16) (s : State) : (refuse k c s).pending = s.pending := by simp [refuse]
@[simp] theorem refuse_outbox (k : Blk) (c : W16) (s : State) : (refuse k c s).outbox = s.outbox := by simp [refuse]
@[simp] theorem refuse_freeCtr (k : Blk) (c : W16) (s : State) : (refuse k c s).freeCtr = s.freeCtr := by simp [refuse]
@[simp] theorem refuse_frameOut (k : Blk) (c : W16) (s : State) : (refuse k c s).frameOut = s.frameOut := by simp [refuse]
@[simp] theorem refuse_frameIds (k : Blk) (c : W16) (s : State) : (refuse k c s).frameIds = s.frameIds := by simp [refuse]
@[simp] theorem refuse_hiLatch (k : Blk) (c : W16) (s : State) : (refuse k c s).hiLatch = s.hiLatch := by simp [refuse]
@[simp] theorem refuse_loHeld (k : Blk) (c : W16) (s : State) : (refuse k c s).loHeld = s.loHeld := by simp [refuse]
@[simp] theorem refuse_tick (k : Blk) (c : W16) (s : State) : (refuse k c s).tick = s.tick := by simp [refuse]
@[simp] theorem refuse_domains (k : Blk) (c : W16) (s : State) : (refuse k c s).domains = s.domains := by simp [refuse]
@[simp] theorem refuse_timers (k : Blk) (c : W16) (s : State) : (refuse k c s).timers = s.timers := by simp [refuse]
@[simp] theorem refuse_irq (k : Blk) (c : W16) (s : State) : (refuse k c s).irq = s.irq := by simp [refuse]
@[simp] theorem refuse_ledger (k : Blk) (c : W16) (s : State) : (refuse k c s).ledger = s.ledger := by simp [refuse]
@[simp] theorem refuse_route (k : Blk) (c : W16) (s : State) : (refuse k c s).route = s.route := by simp [refuse]
@[simp] theorem refuse_hostbr (k : Blk) (c : W16) (s : State) : (refuse k c s).hostbr = s.hostbr := by simp [refuse]
@[simp] theorem refuse_mem (k : Blk) (c : W16) (s : State) : (refuse k c s).mem = s.mem := by simp [refuse]
@[simp] theorem refuse_berths (k : Blk) (c : W16) (s : State) : (refuse k c s).berths = s.berths := by simp [refuse]
@[simp] theorem refuse_serve (k : Blk) (c : W16) (s : State) : (refuse k c s).serve = s.serve := by simp [refuse]
@[simp] theorem refuse_query (k : Blk) (c : W16) (s : State) : (refuse k c s).query = s.query := by simp [refuse]
@[simp] theorem refuse_acct (k : Blk) (c : W16) (s : State) : (refuse k c s).acct = s.acct := by simp [refuse]
@[simp] theorem refuse_weights (k : Blk) (c : W16) (s : State) : (refuse k c s).weights = s.weights := by simp [refuse]
@[simp] theorem refuse_members (k : Blk) (c : W16) (s : State) : (refuse k c s).members = s.members := by simp [refuse]
@[simp] theorem refuse_redctx (k : Blk) (c : W16) (s : State) : (refuse k c s).redctx = s.redctx := by simp [refuse]
@[simp] theorem refuse_reqs (k : Blk) (c : W16) (s : State) : (refuse k c s).reqs = s.reqs := by simp [refuse]
@[simp] theorem refuse_health (k : Blk) (c : W16) (s : State) : (refuse k c s).health = s.health := by simp [refuse]
@[simp] theorem refuse_dies (k : Blk) (c : W16) (s : State) : (refuse k c s).dies = s.dies := by simp [refuse]
@[simp] theorem refuse_ports (k : Blk) (c : W16) (s : State) : (refuse k c s).ports = s.ports := by simp [refuse]
@[simp] theorem refuse_seams (k : Blk) (c : W16) (s : State) : (refuse k c s).seams = s.seams := by simp [refuse]
@[simp] theorem refuse_survive (k : Blk) (c : W16) (s : State) : (refuse k c s).survive = s.survive := by simp [refuse]
@[simp] theorem refuse_hm (k : Blk) (c : W16) (s : State) : (refuse k c s).hm = s.hm := by simp [refuse]
@[simp] theorem refuse_startUp (k : Blk) (c : W16) (s : State) : (refuse k c s).startUp = s.startUp := by simp [refuse]
@[simp] theorem refuse_board (k : Blk) (c : W16) (s : State) : (refuse k c s).board = s.board := by simp [refuse]
@[simp] theorem refuse_power (k : Blk) (c : W16) (s : State) : (refuse k c s).power = s.power := by simp [refuse]
@[simp] theorem nextFree_pending (s : State) : (nextFree s).2.pending = s.pending := rfl
@[simp] theorem nextFree_outbox (s : State) : (nextFree s).2.outbox = s.outbox := rfl
@[simp] theorem nextFree_frameOut (s : State) : (nextFree s).2.frameOut = s.frameOut := rfl
@[simp] theorem nextFree_frameIds (s : State) : (nextFree s).2.frameIds = s.frameIds := rfl
@[simp] theorem nextFree_pages (s : State) : (nextFree s).2.pages = s.pages := rfl
@[simp] theorem nextFree_lastErr (s : State) : (nextFree s).2.lastErr = s.lastErr := rfl
@[simp] theorem nextFree_hiLatch (s : State) : (nextFree s).2.hiLatch = s.hiLatch := rfl
@[simp] theorem nextFree_loHeld (s : State) : (nextFree s).2.loHeld = s.loHeld := rfl
@[simp] theorem nextFree_tick (s : State) : (nextFree s).2.tick = s.tick := rfl
@[simp] theorem nextFree_domains (s : State) : (nextFree s).2.domains = s.domains := rfl
@[simp] theorem nextFree_timers (s : State) : (nextFree s).2.timers = s.timers := rfl
@[simp] theorem nextFree_irq (s : State) : (nextFree s).2.irq = s.irq := rfl
@[simp] theorem nextFree_ledger (s : State) : (nextFree s).2.ledger = s.ledger := rfl
@[simp] theorem nextFree_route (s : State) : (nextFree s).2.route = s.route := rfl
@[simp] theorem nextFree_hostbr (s : State) : (nextFree s).2.hostbr = s.hostbr := rfl
@[simp] theorem nextFree_mem (s : State) : (nextFree s).2.mem = s.mem := rfl
@[simp] theorem nextFree_berths (s : State) : (nextFree s).2.berths = s.berths := rfl
@[simp] theorem nextFree_serve (s : State) : (nextFree s).2.serve = s.serve := rfl
@[simp] theorem nextFree_query (s : State) : (nextFree s).2.query = s.query := rfl
@[simp] theorem nextFree_acct (s : State) : (nextFree s).2.acct = s.acct := rfl
@[simp] theorem nextFree_weights (s : State) : (nextFree s).2.weights = s.weights := rfl
@[simp] theorem nextFree_members (s : State) : (nextFree s).2.members = s.members := rfl
@[simp] theorem nextFree_redctx (s : State) : (nextFree s).2.redctx = s.redctx := rfl
@[simp] theorem nextFree_reqs (s : State) : (nextFree s).2.reqs = s.reqs := rfl
@[simp] theorem nextFree_health (s : State) : (nextFree s).2.health = s.health := rfl
@[simp] theorem nextFree_dies (s : State) : (nextFree s).2.dies = s.dies := rfl
@[simp] theorem nextFree_ports (s : State) : (nextFree s).2.ports = s.ports := rfl
@[simp] theorem nextFree_seams (s : State) : (nextFree s).2.seams = s.seams := rfl
@[simp] theorem nextFree_survive (s : State) : (nextFree s).2.survive = s.survive := rfl
@[simp] theorem nextFree_hm (s : State) : (nextFree s).2.hm = s.hm := rfl
@[simp] theorem nextFree_startUp (s : State) : (nextFree s).2.startUp = s.startUp := rfl
@[simp] theorem nextFree_board (s : State) : (nextFree s).2.board = s.board := rfl
@[simp] theorem nextFree_power (s : State) : (nextFree s).2.power = s.power := rfl

end Sys2Proof.Machine
end

