-- ==== Sys2Proof/Laws/Tables.lean ====
section
/-! SUPPORT. Sparse tables: what a key reads as after a write, and that writes keep keys rising. -/

namespace Sys2Proof.Machine
open Sys2Proof

variable {α : Type}

theorem tget_tput_same (t : Tbl α) (d : α) (k : Nat) (v : α) : tget (tput t k v) d k = v := by
  induction t with
  | nil => simp [tput, tget]
  | cons e r ih =>
    obtain ⟨k', v'⟩ := e
    simp only [tput]
    split
    · simp [tget]
    · split
      · simp [tget]
      · simp_all [tget]

theorem tget_tput_other (t : Tbl α) (d : α) (k j : Nat) (v : α) (h : j ≠ k) :
    tget (tput t k v) d j = tget t d j := by
  induction t with
  | nil => simp [tput, tget, Ne.symm h]
  | cons e r ih =>
    obtain ⟨k', v'⟩ := e
    simp only [tput]
    split
    · simp [tget, Ne.symm h]
    · split
      · rename_i h1 h2
        subst h2
        simp [tget, Ne.symm h]
      · simp [tget, ih]

theorem tget_tdel_same (t : Tbl α) (d : α) (k : Nat) : tget (tdel t k) d k = d := by
  induction t with
  | nil => rfl
  | cons e r ih =>
    obtain ⟨k', v'⟩ := e
    by_cases h : k' = k
    · simpa [tdel, h] using ih
    · simpa [tdel, h, tget] using ih

theorem tget_tdel_other (t : Tbl α) (d : α) (k j : Nat) (h : j ≠ k) : tget (tdel t k) d j = tget t d j := by
  induction t with
  | nil => rfl
  | cons e r ih =>
    obtain ⟨k', v'⟩ := e
    by_cases hk : k' = k
    · subst hk
      simpa [tdel, tget, Ne.symm h] using ih
    · have : tdel ((k', v') :: r) k = (k', v') :: tdel r k := by simp [tdel, hk]
      rw [this]
      simp [tget, ih]

variable [DecidableEq α]

@[simp] theorem tget_tset_same (t : Tbl α) (d : α) (k : Nat) (v : α) : tget (tset t d k v) d k = v := by
  unfold tset
  split
  · rw [tget_tdel_same]; exact Eq.symm ‹_›
  · exact tget_tput_same ..

theorem tget_tset_other (t : Tbl α) (d : α) (k j : Nat) (v : α) (h : j ≠ k) :
    tget (tset t d k v) d j = tget t d j := by
  unfold tset
  split
  · exact tget_tdel_other _ _ _ _ h
  · exact tget_tput_other _ _ _ _ _ h

/-- Keys strictly rising. -/
abbrev Rising (t : Tbl α) : Prop := t.Pairwise (fun a b => a.1 < b.1)

omit [DecidableEq α] in
theorem mem_tput {t : Tbl α} {k : Nat} {v : α} {e : Nat × α} (h : e ∈ tput t k v) : e = (k, v) ∨ e ∈ t := by
  induction t with
  | nil => simpa [tput] using h
  | cons a r ih =>
    obtain ⟨k', v'⟩ := a
    simp only [tput] at h
    split at h
    · simpa using h
    · split at h
      · rcases List.mem_cons.mp h with h | h
        · exact .inl h
        · exact .inr (List.mem_cons_of_mem _ h)
      · rcases List.mem_cons.mp h with h | h
        · exact .inr (h ▸ List.mem_cons_self)
        · exact (ih h).imp_right (List.mem_cons_of_mem _)

omit [DecidableEq α] in
theorem rising_tput {t : Tbl α} (h : Rising t) (k : Nat) (v : α) : Rising (tput t k v) := by
  induction t with
  | nil => simp [tput, Rising]
  | cons a r ih =>
    obtain ⟨k', v'⟩ := a
    have hr := List.pairwise_cons.mp h
    simp only [tput]
    split
    · rename_i hk
      refine List.pairwise_cons.mpr ⟨fun e he => ?_, h⟩
      rcases List.mem_cons.mp he with rfl | he
      · exact hk
      · exact Nat.lt_trans hk (hr.1 e he)
    · split
      · rename_i h1 h2
        subst h2
        exact List.pairwise_cons.mpr ⟨hr.1, hr.2⟩
      · rename_i h1 h2
        refine List.pairwise_cons.mpr ⟨fun e he => ?_, ih hr.2⟩
        rcases mem_tput he with rfl | he
        · simp only; omega
        · exact hr.1 e he

omit [DecidableEq α] in
theorem rising_tdel {t : Tbl α} (h : Rising t) (k : Nat) : Rising (tdel t k) := List.Pairwise.filter _ h

theorem rising_tset {t : Tbl α} (h : Rising t) (d : α) (k : Nat) (v : α) : Rising (tset t d k v) := by
  unfold tset
  split
  · exact rising_tdel h k
  · exact rising_tput h k v

/-! ### Berths and domains -/

@[simp] theorem berth_setBerth (b : BerthIdx) (x : Berth) (s : State) : berth b (setBerth b x s) = x :=
  tget_tset_same ..

theorem berth_setBerth_other {b c : BerthIdx} (h : c ≠ b) (x : Berth) (s : State) :
    berth c (setBerth b x s) = berth c s :=
  tget_tset_other _ _ _ _ _ (fun e => h (BitVec.eq_of_toNat_eq e))

@[simp] theorem berth_modBerth (b : BerthIdx) (f : Berth → Berth) (s : State) :
    berth b (modBerth b f s) = f (berth b s) := berth_setBerth ..

theorem berth_modBerth_other {b c : BerthIdx} (h : c ≠ b) (f : Berth → Berth) (s : State) :
    berth c (modBerth b f s) = berth c s := berth_setBerth_other h ..

@[simp] theorem dom_setDom (d : Nat) (x : Domain) (s : State) : dom d (setDom d x s) = x := tget_tset_same ..

theorem dom_setDom_other {d e : Nat} (h : e ≠ d) (x : Domain) (s : State) : dom e (setDom d x s) = dom e s :=
  tget_tset_other _ _ _ _ _ h

@[simp] theorem dom_modDom (d : Nat) (f : Domain → Domain) (s : State) : dom d (modDom d f s) = f (dom d s) :=
  dom_setDom ..

theorem dom_modDom_other {d e : Nat} (h : e ≠ d) (f : Domain → Domain) (s : State) :
    dom e (modDom d f s) = dom e s := dom_setDom_other h ..

@[simp] theorem hdr_setHdr (p : Nat) (h : PageHdr) (s : State) : hdr p (setHdr p h s) = h := tget_tset_same ..

theorem hdr_setHdr_other {p q : Nat} (h : q ≠ p) (x : PageHdr) (s : State) : hdr q (setHdr p x s) = hdr q s :=
  tget_tset_other _ _ _ _ _ h

end Sys2Proof.Machine
end

