-- ==== Sys2Proof/Laws/Berths.lean ====
section
/-! SUPPORT. What issuing a word of the pilot does: the shared operations under every word, each with one lemma. -/

namespace Sys2Proof.Machine
open Sys2Proof

/-- The pilot issues a word: the word passes its checks and none of its scalars waits, so it is executed and settled. -/
theorem issue_eq {b p rs s} (h : Issues b p rs s) (w : PWord) (x : ReadEvent) (hc : wordCheck w = none)
    (hr : ∀ r ∈ wordReads w ++ wordWrites w, r ∈ rs) : issue b p w x s = settle b p w (pilotExec b w x s) := by
  unfold issue
  have h1 : ¬ ((berth b s).pl ≠ .run) := by simp [h.runs]
  have h2 : ¬ (32768 ≤ (berth b s).pc.toNat) := by have := h.inMem; omega
  simp only [h1, h2, hc, h.pred, if_false, Bool.not_true, Bool.false_eq_true]
  rw [if_neg]
  simp only [Bool.not_eq_true, List.any_eq_false, Bool.and_eq_true, bne_iff_ne, not_and, List.contains_iff_mem]
  intro r hm hz
  exact h.free r (hr r hm) hz

/-- A berth that is set is the one change. -/
theorem onlyBerth_set (b : BerthIdx) (be : Berth) (s : State) : OnlyBerth b be s (setBerth b be s) :=
  ⟨berth_setBerth b be s, fun _ h => berth_setBerth_other h be s, rfl⟩

/-- Two changes of one berth are one change. -/
theorem onlyBerth_mod2 (b : BerthIdx) (f g : Berth → Berth) (s : State) :
    OnlyBerth b (f (g (berth b s))) s (modBerth b f (modBerth b g s)) :=
  ⟨by simp, fun c h => by rw [berth_modBerth_other h, berth_modBerth_other h], rfl⟩

/-- A berth that is modified is the one change. -/
theorem onlyBerth_mod (b : BerthIdx) (f : Berth → Berth) (s : State) :
    OnlyBerth b (f (berth b s)) s (modBerth b f s) :=
  ⟨by simp, fun c h => by rw [berth_modBerth_other h], rfl⟩

/-- A scalar reads as written last; s0 discards writes (R139). -/
theorem sreg_setS (r q : BitVec 5) (v : W64) (be : Berth) :
    sreg (setS r v be) q = if q = r ∧ r ≠ 0 then v else sreg be q := by
  unfold setS
  by_cases hr : r = 0
  · rw [if_pos hr, if_neg (by simp [hr])]
  · rw [if_neg hr]
    unfold sreg
    by_cases hq : q = 0
    · rw [if_pos hq, if_pos hq, if_neg (by rintro ⟨h, _⟩; exact hr (h ▸ hq))]
    · rw [if_neg hq, if_neg hq]
      by_cases e : q = r
      · subst e; rw [if_pos ⟨rfl, hr⟩]; exact tget_tset_same ..
      · rw [if_neg (fun h => e h.1)]
        exact tget_tset_other _ _ _ _ _ (fun h => e (BitVec.eq_of_toNat_eq h))

/-- A write of a scalar changes the scalars alone. -/
theorem setS_eq (r : BitVec 5) (v : W64) (be : Berth) : setS r v be = { be with scal := (setS r v be).scal } := by
  unfold setS; split <;> rfl

/-- A write of a predicate changes the predicates alone. -/
theorem setP_eq (r : BitVec 3) (v : Bool) (be : Berth) : setP r v be = { be with pred := (setP r v be).pred } := by
  unfold setP; split <;> rfl

/-- A predicate reads as written last; p0 discards writes (R139). -/
theorem preg_setP (r q : BitVec 3) (v : Bool) (be : Berth) :
    preg (setP r v be) q = if q = r ∧ r ≠ 0 then v else preg be q := by
  unfold setP
  by_cases hr : r = 0
  · rw [if_pos hr, if_neg (by simp [hr])]
  · rw [if_neg hr]
    unfold preg
    by_cases hq : q = 0
    · rw [if_neg (by rintro ⟨h, _⟩; exact hr (h ▸ hq))]; simp [hq]
    · have e0 : (q == 0) = false := by simpa using hq
      have h8 : q.toNat < 8 := q.isLt
      have e1 : BitVec.ofNat 8 (2 ^ r.toNat) = BitVec.twoPow 8 r.toNat := by
        revert r; decide
      by_cases e : q = r
      · subst e; rw [if_pos ⟨rfl, hr⟩]
        have hq' : ¬ q = 0#3 := hq
        cases v <;> simp [e1, h8, hq']
      · rw [if_neg (fun h => e h.1)]
        have : ¬ r.toNat = q.toNat := fun h => e (BitVec.eq_of_toNat_eq h).symm
        have h9 : ¬ q.toNat = r.toNat := fun h => this h.symm
        cases v <;> simp [e1, h8, h9]

/-- A word that goes on after one change of its berth advances the PC. -/
theorem settle_go_berth (b : BerthIdx) (p w) (f : Berth → Berth) (s : State) :
    OnlyBerth b { f (berth b s) with pc := (f (berth b s)).pc + 1 } s (settle b p w (.go (modBerth b f s))) :=
  onlyBerth_mod2 b (fun be => { be with pc := be.pc + 1 }) f s

/-- A word that writes a scalar and goes on. -/
theorem wrote_go (b : BerthIdx) (p : BitVec 3) (w : PWord) (rd : BitVec 5) (v : W64) (s : State) :
    WroteScalar b rd v s (settle b p w (.go (modBerth b (setS rd v) s))) := by
  have h := settle_go_berth b p w (setS rd v) s
  refine ⟨fun r => ?_, ?_, h.others, h.rest⟩
  · rw [h.here]; exact sreg_setS rd r v (berth b s)
  · rw [h.here, setS_eq]

/-- A word that writes a predicate and goes on. -/
theorem wroteP_go (b : BerthIdx) (p : BitVec 3) (w : PWord) (rd : BitVec 3) (v : Bool) (s : State) :
    WrotePred b rd v s (settle b p w (.go (modBerth b (setP rd v) s))) := by
  have h := settle_go_berth b p w (setP rd v) s
  refine ⟨fun r => ?_, ?_, h.others, h.rest⟩
  · rw [h.here]; exact preg_setP rd r v (berth b s)
  · rw [h.here, setP_eq]

/-- A scalar word of two registers writes its result (R142). -/
theorem sr_go {b p rd r1 r2 s} (h : Issues b p [rd, r1, r2] s) (op : SrOp) :
    WroteScalar b rd (srVal op (sreg (berth b s) r1) (sreg (berth b s) r2)) s (issue b p (.sr op rd r1 r2) .clean s) := by
  rw [issue_eq h _ _ rfl (by simp [wordReads, wordWrites])]; exact wrote_go ..

/-- A predicate word writes its result. -/
theorem pl_go {b p pd pa pb s} (h : Issues b p [] s) (op : PlOp) :
    WrotePred b pd (plVal op (preg (berth b s) pa) (preg (berth b s) pb)) s (issue b p (.plog op pd pa pb) .clean s) := by
  rw [issue_eq h _ _ rfl (by simp [wordReads, wordWrites, vxDest])]; exact wroteP_go ..

/-- A comparison writes its result. -/
theorem cmp_go {b p pd r1 r2 s} (h : Issues b p [r1, r2] s) (op : CmpOp) :
    WrotePred b pd (cmpVal op (sreg (berth b s) r1) (sreg (berth b s) r2)) s (issue b p (.cmp op pd r1 r2) .clean s) := by
  rw [issue_eq h _ _ rfl (by simp [wordReads, wordWrites, vxDest])]; exact wroteP_go ..

end Sys2Proof.Machine
end

