-- ==== Sys2Proof/Laws/Memory.lean ====
section
/-! SUPPORT. Every operation over physical bytes keeps the canonical form of memory, and what a byte reads as after a
write. -/

namespace Sys2Proof.Machine
open Sys2Proof

/-! ### Open ranges -/

/-- Open ranges that do not overlap, in rising order, none empty. -/
abbrev UnkOk (us : List Unk) : Prop :=
  us.Pairwise (fun u v => u.lo + u.len ≤ v.lo) ∧ ∀ u ∈ us, u.len ≠ 0

/-- `v` lies within `u`. -/
abbrev UnkIn (v u : Unk) : Prop := u.lo ≤ v.lo ∧ v.lo + v.len ≤ u.lo + u.len ∧ v.len ≠ 0

theorem unkOk_flatMap {us : List Unk} {f : Unk → List Unk} (h : UnkOk us) (hin : ∀ u ∈ us, ∀ v ∈ f u, UnkIn v u)
    (hp : ∀ u ∈ us, (f u).Pairwise (fun u v => u.lo + u.len ≤ v.lo)) : UnkOk (us.flatMap f) := by
  refine ⟨List.pairwise_flatMap.mpr ⟨hp, ?_⟩, fun v hv => ?_⟩
  · exact h.1.imp_of_mem fun {u w} hu hw huw x hx y hy => by
      have := hin u hu x hx; have := hin w hw y hy; omega
  · obtain ⟨u, hu, hv⟩ := List.mem_flatMap.mp hv
    exact (hin u hu v hv).2.2

/-- What is left of one open range. -/
theorem mem_cut {u v : Unk} {lo n : Nat}
    (h : v ∈ (if u.lo < lo + n ∧ lo < u.lo + u.len then
      [({ u with len := lo - u.lo } : Unk),
       { u with lo := lo + n, len := u.lo + u.len - (lo + n), org := u.org + (lo + n - u.lo) }].filter
        (fun v => v.len ≠ 0)
      else [u])) (hu : u.len ≠ 0) :
    UnkIn v u ∧ (v.lo + v.len ≤ lo ∨ lo + n ≤ v.lo ∨ n = 0) := by
  split at h
  · simp only [List.mem_filter, List.mem_cons, List.not_mem_nil, or_false] at h
    obtain ⟨rfl | rfl, h⟩ := h <;> simp only [ne_eq, decide_not, Bool.not_eq_true', decide_eq_false_iff_not] at h <;>
      simp only [UnkIn] <;> omega
  · simp only [List.mem_singleton] at h
    subst h
    simp only [UnkIn]
    omega

theorem cutRange_ok {us : List Unk} (h : UnkOk us) (lo n : Nat) : UnkOk (cutRange us lo n) := by
  refine unkOk_flatMap h (fun u hu v hv => (mem_cut hv (h.2 u hu)).1) (fun u hu => ?_)
  split
  · refine List.Pairwise.filter _ ?_
    simp only [List.pairwise_cons, List.mem_singleton, List.not_mem_nil, forall_eq, false_imp_iff, implies_true,
      List.Pairwise.nil, and_true]
    omega
  · exact List.pairwise_singleton _ _

theorem cutRange_out {us : List Unk} (h : UnkOk us) {lo n : Nat} (hn : n ≠ 0) {v : Unk} (hv : v ∈ cutRange us lo n) :
    v.lo + v.len ≤ lo ∨ lo + n ≤ v.lo := by
  obtain ⟨u, hu, hv⟩ := List.mem_flatMap.mp hv
  have := (mem_cut hv (h.2 u hu)).2
  omega

theorem cutRange_in {us : List Unk} (h : UnkOk us) {lo n : Nat} {v : Unk} (hv : v ∈ cutRange us lo n) :
    ∃ u ∈ us, UnkIn v u := by
  obtain ⟨u, hu, hv⟩ := List.mem_flatMap.mp hv
  exact ⟨u, hu, (mem_cut hv (h.2 u hu)).1⟩

theorem cutUnk_eq (us : List Unk) (a : Nat) : cutUnk us a = cutRange us a 1 := by
  unfold cutUnk cutRange
  simp only [Nat.lt_succ_iff]

theorem keepRange_ok {us : List Unk} (h : UnkOk us) (lo n : Nat) :
    UnkOk (keepRange us lo n) ∧ ∀ v ∈ keepRange us lo n, lo ≤ v.lo ∧ v.lo + v.len ≤ lo + n ∧ ∃ u ∈ us, UnkIn v u := by
  have key : ∀ u v, (let a := max u.lo lo
      let b := min (u.lo + u.len) (lo + n)
      if a < b then some ({ u with lo := a, len := b - a, org := u.org + (a - u.lo) } : Unk) else none) = some v →
      UnkIn v u ∧ lo ≤ v.lo ∧ v.lo + v.len ≤ lo + n := by
    intro u v e
    simp only at e
    split at e
    · cases e; simp only [UnkIn]; omega
    · cases e
  refine ⟨⟨?_, fun v hv => ?_⟩, fun v hv => ?_⟩
  · refine List.pairwise_filterMap.mpr (h.1.imp fun {u w} huw x hx y hy => ?_)
    have := key u x hx; have := key w y hy; omega
  · obtain ⟨u, _, e⟩ := List.mem_filterMap.mp hv
    exact (key u v e).1.2.2
  · obtain ⟨u, hu, e⟩ := List.mem_filterMap.mp hv
    have := key u v e
    exact ⟨this.2.1, this.2.2, u, hu, this.1⟩

/-- A splice of ranges that lie in the window keeps the order. -/
theorem spliceUnk_ok {us new : List Unk} {lo n : Nat} (h : UnkOk us) (hn : n ≠ 0) (hw : UnkOk new)
    (hin : ∀ v ∈ new, lo ≤ v.lo ∧ v.lo + v.len ≤ lo + n) : UnkOk (spliceUnk us lo n new) := by
  have hc := cutRange_ok h lo n
  have hl : ∀ v ∈ (cutRange us lo n).filter (fun u => u.lo < lo), v.lo + v.len ≤ lo := fun v hv => by
    have hv := List.mem_filter.mp hv
    have := cutRange_out h hn hv.1; have := of_decide_eq_true hv.2; omega
  have hr : ∀ v ∈ (cutRange us lo n).filter (fun u => lo ≤ u.lo), lo + n ≤ v.lo := fun v hv => by
    have hv := List.mem_filter.mp hv
    have := cutRange_out h hn hv.1; have := of_decide_eq_true hv.2; have := hc.2 v hv.1; omega
  refine ⟨List.pairwise_append.mpr ⟨List.pairwise_append.mpr ⟨hc.1.filter _, hw.1, fun u hu v hv => ?_⟩,
    hc.1.filter _, fun u hu v hv => ?_⟩, fun v hv => ?_⟩
  · have := hl u hu; have := hin v hv; omega
  · have := hr v hv
    rcases List.mem_append.mp hu with hu | hu
    · have := hl u hu; omega
    · have := hin u hu; omega
  · rcases List.mem_append.mp hv with hv | hv
    · rcases List.mem_append.mp hv with hv | hv
      · exact hc.2 v (List.mem_filter.mp hv).1
      · exact hw.2 v hv
    · exact hc.2 v (List.mem_filter.mp hv).1

theorem mem_spliceUnk {us new : List Unk} {lo n : Nat} {v : Unk} (hv : v ∈ spliceUnk us lo n new) :
    v ∈ new ∨ v ∈ cutRange us lo n := by
  rcases List.mem_append.mp hv with hv | hv
  · rcases List.mem_append.mp hv with hv | hv
    · exact .inr (List.mem_filter.mp hv).1
    · exact .inl hv
  · exact .inr (List.mem_filter.mp hv).1

/-! ### The canonical form is kept -/

theorem Mem.setByte_wf {m : Mem} (h : Memory.wf m) (a : Nat) (b : Byte) : Memory.wf (m.setByte a b) := by
  obtain ⟨h1, h2, h3, h4, h5⟩ := h
  have hu : UnkOk m.unk := ⟨h3, h4⟩
  have hc := cutRange_ok hu a 1
  have hm : ∀ e ∈ tset m.bytes 0 a b, (e = (a, b) ∧ b ≠ 0) ∨ e ∈ m.bytes := fun e he => by
    unfold tset at he
    split at he
    · exact .inr (List.mem_filter.mp he).1
    · exact (mem_tput he).imp (fun x => ⟨x, ‹_›⟩) id
  refine ⟨rising_tset h1 .., fun e he => ?_, ?_, ?_, fun e he u hv => ?_⟩
  · rcases hm e he with ⟨rfl, hb⟩ | he
    · exact hb
    · exact h2 e he
  · simpa only [Mem.setByte, cutUnk_eq] using hc.1
  · simpa only [Mem.setByte, cutUnk_eq] using hc.2
  · simp only [Mem.setByte, cutUnk_eq] at hv
    rcases hm e he with ⟨rfl, _⟩ | he
    · have := cutRange_out hu (by decide) hv; have := hc.2 u hv; simp only; omega
    · obtain ⟨w, hw, hin⟩ := cutRange_in hu hv
      have := h5 e he w hw; omega

theorem Mem.setBytes_wf {m : Mem} (h : Memory.wf m) (a : Nat) (bs : List Byte) : Memory.wf (m.setBytes a bs) := by
  induction bs generalizing m a with
  | nil => exact h
  | cons b r ih => exact ih (Mem.setByte_wf h a b) (a + 1)

theorem Mem.copy_wf {m : Mem} (h : Memory.wf m) (src dst n : Nat) : Memory.wf (m.copy src dst n) :=
  Mem.setBytes_wf h ..

theorem mem_tsplice {α : Type} {t es : Tbl α} {lo n : Nat} {e : Nat × α} (h : e ∈ tsplice t lo n es) :
    e ∈ es ∨ (e ∈ t ∧ (e.1 < lo ∨ lo + n ≤ e.1)) := by
  unfold tsplice at h
  simp only [List.mem_append, List.mem_filter, decide_eq_true_eq] at h
  rcases h with (h | h) | h
  · exact .inr ⟨h.1, .inl h.2⟩
  · exact .inl h
  · exact .inr ⟨h.1, .inr h.2⟩

theorem rising_tsplice {α : Type} {t es : Tbl α} {lo n : Nat} (h : Rising t) (he : Rising es)
    (hin : ∀ e ∈ es, lo ≤ e.1 ∧ e.1 < lo + n) : Rising (tsplice t lo n es) := by
  refine List.pairwise_append.mpr ⟨List.pairwise_append.mpr ⟨h.filter _, he, fun a ha b hb => ?_⟩, h.filter _,
    fun a ha b hb => ?_⟩
  · have := of_decide_eq_true (List.mem_filter.mp ha).2; have := hin b hb; omega
  · have := of_decide_eq_true (List.mem_filter.mp hb).2
    rcases List.mem_append.mp ha with ha | ha
    · have := of_decide_eq_true (List.mem_filter.mp ha).2; omega
    · have := hin a ha; omega

/-- The bytes and open ranges of a window replaced by others in canonical form. -/
theorem splice_wf {m : Mem} {es : Tbl Byte} {new : List Unk} {lo n : Nat} (h : Memory.wf m) (hn : n ≠ 0)
    (he : Rising es) (hz : ∀ e ∈ es, e.2 ≠ 0) (hi : ∀ e ∈ es, lo ≤ e.1 ∧ e.1 < lo + n) (hw : UnkOk new)
    (hj : ∀ v ∈ new, lo ≤ v.lo ∧ v.lo + v.len ≤ lo + n)
    (hd : ∀ e ∈ es, ∀ u ∈ new, e.1 < u.lo ∨ u.lo + u.len ≤ e.1) :
    Memory.wf { m with bytes := tsplice m.bytes lo n es, unk := spliceUnk m.unk lo n new } := by
  obtain ⟨h1, h2, h3, h4, h5⟩ := h
  have hu : UnkOk m.unk := ⟨h3, h4⟩
  have ho := spliceUnk_ok hu hn hw hj
  refine ⟨rising_tsplice h1 he hi, fun e hx => ?_, ho.1, ho.2, fun e hx u hv => ?_⟩
  · rcases mem_tsplice hx with hx | hx
    · exact hz e hx
    · exact h2 e hx.1
  · rcases mem_tsplice hx with hx | hx <;> rcases mem_spliceUnk hv with hv | hv
    · exact hd e hx u hv
    · have := hi e hx; have := cutRange_out hu hn hv; omega
    · have := hj u hv; omega
    · obtain ⟨w, hw, hin⟩ := cutRange_in hu hv
      have := h5 e hx.1 w hw; omega

theorem cutRange_zero {us : List Unk} (h : UnkOk us) (lo : Nat) : UnkOk (spliceUnk us lo 0 []) ∧
    ∀ v ∈ spliceUnk us lo 0 [], ∃ u ∈ us, UnkIn v u := by
  have hc := cutRange_ok h lo 0
  refine ⟨⟨?_, fun v hv => ?_⟩, fun v hv => ?_⟩
  · simp only [spliceUnk, List.append_nil]
    refine List.pairwise_append.mpr ⟨hc.1.filter _, hc.1.filter _, fun a ha b hb => ?_⟩
    have ha := List.mem_filter.mp ha
    have hb := List.mem_filter.mp hb
    have h1 := of_decide_eq_true ha.2; have h2 := of_decide_eq_true hb.2
    obtain ⟨u, hu, hx⟩ := List.mem_flatMap.mp ha.1
    split at hx
    · simp only [List.mem_filter, List.mem_cons, List.not_mem_nil, or_false] at hx
      obtain ⟨rfl | rfl, _⟩ := hx
      · simp only at *; omega
      · simp only at h1; omega
    · simp only [List.mem_singleton] at hx; subst hx; omega
  · rcases mem_spliceUnk hv with hv | hv
    · cases hv
    · exact hc.2 v hv
  · rcases mem_spliceUnk hv with hv | hv
    · cases hv
    · exact cutRange_in h hv

theorem Mem.openRange_wf {m : Mem} (h : Memory.wf m) (lo n fill : Nat) : Memory.wf (m.openRange lo n fill) := by
  unfold Mem.openRange
  by_cases hn : n = 0
  · subst hn
    obtain ⟨h1, h2, h3, h4, h5⟩ := h
    have hc := cutRange_zero ⟨h3, h4⟩ lo
    refine ⟨rising_tsplice h1 List.Pairwise.nil (by simp), fun e hx => ?_, hc.1.1, hc.1.2, fun e hx u hv => ?_⟩
    · rcases mem_tsplice hx with hx | hx
      · cases hx
      · exact h2 e hx.1
    · rcases mem_tsplice hx with hx | hx
      · cases hx
      · obtain ⟨w, hw, hin⟩ := hc.2 u hv
        have := h5 e hx.1 w hw; omega
  · rw [if_neg hn]
    exact splice_wf h hn List.Pairwise.nil (by simp) (by simp) ⟨List.pairwise_singleton _ _, by simpa using hn⟩
      (by simp) (by simp)

theorem Mem.copyExtent_wf {m : Mem} (h : Memory.wf m) (src dst : Nat) : Memory.wf (m.copyExtent src dst) := by
  obtain ⟨h1, h2, h3, h4, h5⟩ := h
  have hu : UnkOk m.unk := ⟨h3, h4⟩
  have hk := keepRange_ok hu (src * extBytes) extBytes
  have hb : ∀ e ∈ m.bytes.filter (fun e => src * extBytes ≤ e.1 && e.1 < src * extBytes + extBytes),
      e ∈ m.bytes ∧ src * extBytes ≤ e.1 ∧ e.1 < src * extBytes + extBytes := fun e he => by
    simpa using List.mem_filter.mp he
  refine splice_wf ⟨h1, h2, h3, h4, h5⟩ (by decide) ?_ (fun e he => ?_) (fun e he => ?_) ⟨?_, fun v hv => ?_⟩
    (fun v hv => ?_) (fun e he v hv => ?_)
  · exact List.pairwise_map.mpr ((h1.filter _).imp_of_mem fun {a b} ha hb' hab => by
      have := hb a ha; have := hb b hb'; simp only; omega)
  · obtain ⟨a, ha, rfl⟩ := List.mem_map.mp he
    exact h2 a (hb a ha).1
  · obtain ⟨a, ha, rfl⟩ := List.mem_map.mp he
    have := hb a ha; simp only; omega
  · exact List.pairwise_map.mpr (hk.1.1.imp_of_mem fun {a b} ha hb' hab => by
      have := hk.2 a ha; have := hk.2 b hb'; simp only; omega)
  · obtain ⟨a, ha, rfl⟩ := List.mem_map.mp hv
    exact hk.1.2 a ha
  · obtain ⟨a, ha, rfl⟩ := List.mem_map.mp hv
    have := hk.2 a ha; simp only; omega
  · obtain ⟨a, ha, rfl⟩ := List.mem_map.mp he
    obtain ⟨b, hb', rfl⟩ := List.mem_map.mp hv
    have := hb a ha
    obtain ⟨k1, k2, u, hu', k3⟩ := hk.2 b hb'
    have := h5 a this.1 u hu'
    simp only
    omega

theorem reset_memory_wf : Memory.wf State.reset.mem := by decide

/-! ### Reads after writes -/

theorem unkAt_none {us : List Unk} {a : Nat} : unkAt us a = none ↔ ∀ u ∈ us, ¬ (u.lo ≤ a ∧ a < u.lo + u.len) := by
  simp [unkAt, List.find?_eq_none]

theorem unkAt_cut_same (us : List Unk) (a : Nat) : unkAt (cutUnk us a) a = none := by
  refine unkAt_none.mpr fun v hv => ?_
  obtain ⟨u, _, hv⟩ := List.mem_flatMap.mp hv
  split at hv
  · simp only [List.mem_filter, List.mem_cons, List.not_mem_nil, or_false] at hv
    obtain ⟨rfl | rfl, _⟩ := hv <;> simp only <;> omega
  · simp only [List.mem_singleton] at hv; subst hv; assumption

/-- A byte reads as what was written last. -/
theorem Mem.byteAt_setByte_same (m : Mem) (a : Nat) (b : Byte) : (m.setByte a b).byteAt a = b := by
  simp [Mem.byteAt, Mem.setByte, unkAt_cut_same]

/-- What an open range says of a byte: the free value that it stands for. -/
abbrev openByte (u : Unk) (a : Nat) : Nat × Nat := (u.fill, u.org + (a - u.lo))

theorem unkAt_cut_other (us : List Unk) {a c : Nat} (h : c ≠ a) :
    (unkAt (cutUnk us a) c).map (openByte · c) = (unkAt us c).map (openByte · c) := by
  induction us with
  | nil => rfl
  | cons u r ih =>
    have hs : cutUnk (u :: r) a = (if u.lo ≤ a ∧ a < u.lo + u.len then
      [({ u with len := a - u.lo } : Unk),
       { u with lo := a + 1, len := u.lo + u.len - (a + 1), org := u.org + (a + 1 - u.lo) }].filter
        (fun v => v.len ≠ 0)
      else [u]) ++ cutUnk r a := by simp [cutUnk]
    rw [hs, unkAt, List.find?_append]
    unfold unkAt at ih ⊢
    split
    · by_cases h3 : u.lo ≤ c ∧ c < u.lo + u.len
      · rcases Nat.lt_or_gt_of_ne h with h4 | h4
        · have e1 : a - u.lo ≠ 0 := by omega
          have e2 : u.lo ≤ c ∧ c < u.lo + (a - u.lo) := by omega
          simp [e1, e2, h3]
        · have e1 : u.lo + u.len - (a + 1) ≠ 0 := by omega
          have e2 : a + 1 ≤ c ∧ c < a + 1 + (u.lo + u.len - (a + 1)) := by omega
          have e3 : ¬ (c < u.lo + (a - u.lo)) := by omega
          have e4 : u.org + (a + 1 - u.lo) + (c - (a + 1)) = u.org + (c - u.lo) := by omega
          by_cases e5 : a - u.lo = 0
          · simp [e1, e2, e5, h3, e4]
          · simp [e1, e2, e3, e5, h3, e4]
      · rw [List.find?_eq_none.mpr]
        · simpa [h3] using ih
        · intro v hv
          simp only [List.mem_filter, List.mem_cons, List.not_mem_nil, or_false] at hv
          obtain ⟨rfl | rfl, _⟩ := hv <;> simp only [Bool.and_eq_true, decide_eq_true_eq] <;> omega
    · by_cases h3 : u.lo ≤ c ∧ c < u.lo + u.len
      · simp [h3]
      · simpa [h3] using ih

/-- A write leaves every other byte as it was. -/
theorem Mem.byteAt_setByte_other (m : Mem) {a c : Nat} (b : Byte) (h : c ≠ a) :
    (m.setByte a b).byteAt c = m.byteAt c := by
  have hu := unkAt_cut_other m.unk h
  simp only [Mem.byteAt, Mem.setByte, tget_tset_other _ _ _ _ _ h]
  cases h1 : unkAt (cutUnk m.unk a) c <;> cases h2 : unkAt m.unk c <;> simp_all

/-- A write of bytes, read back: the byte stored there, or the byte as it was. -/
theorem Mem.byteAt_setBytes (m : Mem) (a c : Nat) (bs : List Byte) :
    (m.setBytes a bs).byteAt c = if a ≤ c ∧ c < a + bs.length then bs.getD (c - a) 0 else m.byteAt c := by
  induction bs generalizing m a with
  | nil => rw [if_neg (by simp)]; rfl
  | cons b r ih =>
    simp only [Mem.setBytes, ih, List.length_cons]
    by_cases h : c = a
    · subst h
      rw [if_neg (by omega), if_pos (by omega)]
      simp [Mem.byteAt_setByte_same]
    · by_cases h2 : a + 1 ≤ c ∧ c < a + 1 + r.length
      · rw [if_pos h2, if_pos (by omega)]
        obtain ⟨k, rfl⟩ : ∃ k, c = a + 1 + k := ⟨c - (a + 1), by omega⟩
        rw [Nat.add_sub_cancel_left, Nat.add_assoc, Nat.add_sub_cancel_left, Nat.add_comm 1 k, List.getD_cons_succ]
      · rw [if_neg h2, if_neg (by omega), Mem.byteAt_setByte_other _ _ h]

end Sys2Proof.Machine
end

