-- ==== Sys2Proof/Laws/Shared.lean ====
section
/-! SUPPORT. What reporting, refusing, answering, sending and a register write can do: one lemma for each shared
operation, and the fields that none of them touches. -/

namespace Sys2Proof.Machine
open Sys2Proof

/-! ### Reports and refusals (R410) -/

theorem takeLastErr_eq (k : Blk) (c : W16) (s : State) :
    takeLastErr k c s = { s with lastErr := (takeLastErr k c s).lastErr } := by
  unfold takeLastErr setLastErr
  repeat' split
  all_goals rfl

/-- A report changes the header of its page and LAST_ERR fields, nothing else. -/
theorem report_eq (k : Blk) (c : W16) (s : State) :
    report k c s = { s with pages := (report k c s).pages, lastErr := (report k c s).lastErr } := by
  unfold report
  rw [takeLastErr_eq]
  rfl

/-- A refusal changes the header of its page and LAST_ERR fields, nothing else. -/
theorem refuse_eq (k : Blk) (c : W16) (s : State) :
    refuse k c s = { s with pages := (refuse k c s).pages, lastErr := (refuse k c s).lastErr } := by
  unfold refuse
  rw [takeLastErr_eq]
  rfl

/-- An event bit is set in the header of its page, nothing else. -/
theorem raise_eq (p bit : Nat) (s : State) : raise p bit s = { s with pages := (raise p bit s).pages } := rfl

theorem takeLastErr_pages (k : Blk) (c : W16) (s : State) : (takeLastErr k c s).pages = s.pages := by
  rw [takeLastErr_eq]

/-- The header of a page after a report. -/
theorem hdr_report (k : Blk) (c : W16) (s : State) (q : Nat) :
    hdr q (report k c s) = if q = k.page then (hdr q s).record c false (q == Pg.health) else hdr q s := by
  unfold report hdr
  rw [takeLastErr_pages]
  by_cases h : q = k.page
  · subst h; rw [if_pos rfl]; exact hdr_setHdr ..
  · rw [if_neg h]; exact hdr_setHdr_other h ..

/-! ### Answers and messages (log 7) -/

/-- An answer is one more message of the device, or nothing where the harbourmaster asked. -/
theorem answerReq_eq (r : Req) (status : W16) (data : W32) (s : State) :
    answerReq r status data s = { s with outbox := (answerReq r status data s).outbox } := by
  unfold answerReq
  split <;> rfl

theorem send_eq (m : OutMsg) (s : State) : send m s = { s with outbox := s.outbox ++ [.msg m] } := rfl

/-! ### Register writes (R405, R406, R411, R412) -/

/-- What a register write does where the device is awake: refused for ownership, for the lock, by the block, or done. -/
theorem regWrite_cases (r : Req) (k : Blk) (rwl : Bool) (put : WRes) (s : State) (h : s.startUp.phase ≠ .reset) :
    (ownerClient k.page s ≠ 0xFF ∧ ownerClient k.page s ≠ r.client ∧
      regWrite r k rwl put s = answerReq r Code.claimDenied 0 (refuse k Code.claimDenied s)) ∨
    (rwl = true ∧ lockRefuses r k.page s = true ∧
      regWrite r k rwl put s = answerReq r Code.regLocked 0 (refuse k Code.regLocked s)) ∨
    (∃ c, put = .error c ∧ regWrite r k rwl put s = answerReq r c 0 (refuse k c s)) ∨
    (∃ t, put = .ok t ∧ regWrite r k rwl put s = answerReq r 0 0 t) := by
  unfold regWrite
  rw [if_neg h]
  by_cases h1 : ownerClient k.page s ≠ 0xFF ∧ ownerClient k.page s ≠ r.client
  · exact .inl ⟨h1.1, h1.2, if_pos h1⟩
  · simp only [if_neg h1]
    by_cases h2 : (rwl && lockRefuses r k.page s) = true
    · refine .inr (.inl ⟨?_, ?_, if_pos h2⟩) <;> simp_all
    · simp only [if_neg h2]
      cases put with
      | error c => exact .inr (.inr (.inl ⟨c, rfl, rfl⟩))
      | ok t => exact .inr (.inr (.inr ⟨t, rfl, rfl⟩))

/-- A register write that reaches a page whose block takes it is answered with 0. -/
theorem regWrite_ok {r : Req} {k : Blk} {rwl : Bool} {s t : State} (h : Reaches r k.page s)
    (hl : rwl = false ∨ Unlocked r k.page s) : regWrite r k rwl (.ok t) s = answerReq r 0 0 t := by
  unfold regWrite
  rw [if_neg h.awake, if_neg (fun ⟨a, b⟩ => h.owned.elim a b), if_neg]
  rcases hl with rfl | hl
  · simp
  · intro e
    simp only [Bool.and_eq_true] at e
    have e := e.2
    unfold lockRefuses at e
    rcases hl with h0 | h1 | ⟨h2, h3⟩
    · simp [h0] at e
    · revert e; split <;> simp [h1]
    · simp [h2, h3] at e

/-- A register write that the block refuses, on a page it reaches. -/
theorem regWrite_error {r : Req} {k : Blk} {rwl : Bool} {c : W16} {s : State} (h : Reaches r k.page s)
    (hl : rwl = false ∨ lockRefuses r k.page s = false) :
    regWrite r k rwl (.error c) s = answerReq r c 0 (refuse k c s) := by
  unfold regWrite
  rw [if_neg h.awake, if_neg (fun ⟨a, b⟩ => h.owned.elim a b), if_neg]
  rcases hl with rfl | hl
  · simp
  · simp [hl]

/-- No register is reached in reset (R493). -/
theorem regWrite_reset {r : Req} {k : Blk} {rwl : Bool} {put : WRes} {s : State} (h : s.startUp.phase = .reset) :
    regWrite r k rwl put s = s := if_pos h

end Sys2Proof.Machine
end

