-- ==== Sys2Proof/WellFormed.lean ====
section
/-! DEFINITION. Which commands a sender may form: list operands have the lengths that the spec's layouts give, register
commands name a register of their kind. Machine words and fields carry their widths in their types. The meanings are
total and do not rest on these checks (log 8). -/

namespace Sys2Proof

/-! ### Register kinds (R407, R498) -/

/-- Whether a page and offset hold a _LO register of a pair. -/
def isLoReg (p off : Nat) : Bool :=
  if p < 0x100 then false
  else if p < 0x200 then 0x100 ≤ off && off < 0x200 && off % 0x40 == 0x08
  else if 0x230 ≤ p && p < 0x248 then off == 0x050
  else match p with
    | 0x250 => off == 0x060
    | 0x251 => 0x100 ≤ off && off < 0x300 && (off % 0x20 == 0x08 || off % 0x20 == 0x10)
    | 0x252 => off == 0x048
    | 0x253 => (0x100 ≤ off && off < 0x300 && (off % 0x20 == 0x04 || off % 0x20 == 0x0C)) ||
        (0x300 ≤ off && off < 0x380 && off % 0x10 == 0x04)
    | 0x255 => off == 0x070
    | 0x257 => off == 0x050 || (0x100 ≤ off && off < 0x500 && (off % 0x40 == 0x14 || off % 0x40 == 0x20 || off % 0x40 == 0x28))
    | 0x258 => off == 0x05C
    | 0x25B => 0x100 ≤ off && off < 0x180 && off % 8 == 0
    | 0x25C => 0x100 ≤ off && off < 0x500 && off % 0x40 == 0x18
    | 0x25D => off == 0x050 || off == 0x058 || off == 0x064
    | 0x25E => off == 0x048
    | _ => false

/-- Whether a page and offset hold the _HI register of a pair: it follows its _LO. -/
def isHiReg (p off : Nat) : Bool := 4 ≤ off && isLoReg p (off - 4)

/-- Whether a page and offset hold a counter that a write of 0 clears. -/
def isCounterReg (p off : Nat) : Bool :=
  off == 0x01C ||
    (if p < 0x100 then off == 0x0F0
     else if 0x200 ≤ p && p < 0x204 then off == 0x090 || off == 0x094 || off == 0x098
     else if 0x210 ≤ p && p < 0x228 then off == 0x048 || off == 0x04C || off == 0x050
     else if 0x230 ≤ p && p < 0x248 then 0x058 ≤ off && off ≤ 0x06C && off % 4 == 0
     else match p with
       | 0x250 => off == 0x04C
       | 0x258 => off == 0x068
       | 0x25A => off == 0x070 || off == 0x074 || off == 0x078
       | 0x25E => off == 0x060 || off == 0x064
       | 0x260 => off == 0x044 || off == 0x048 || off == 0x04C
       | _ => false)

/-! ### Lists -/

/-- The bytes of a tile by format code (the tile layout table); 0 for a code that names no format. -/
def tileSize (f : Nat) : Nat :=
  match f with
  | 0 => 65536
  | 1 => 32768
  | 2 => 32768
  | 3 => 16384
  | 4 => 16384
  | 5 => 16896
  | 6 => 16896
  | 7 => 12800
  | 8 => 12800
  | 9 => 8704
  | _ => 0

/-- The body of a request or response: 1 to 65,536 bytes. -/
def bodyOk (data : List Byte) : Bool := 1 ≤ data.length && data.length ≤ 65536

/-- A captured slice (R343): rows of A, of B, their scales, and cells by row. -/
def audOk (q : AudReq) : Bool :=
  q.height.toNat ≤ 128 && q.row0.toNat + q.height.toNat ≤ 128 && q.cells.length == 32 * q.height.toNat &&
    1 ≤ q.kblk.toNat && q.kblk.toNat ≤ 4

/-- A flit is 128 bytes; its TYPE is the upper half of byte 7 (R294). -/
def flitOk (bs : List Byte) (types : Nat → Bool) : Bool := bs.length == 128 && types ((bs.getD 7 0).toNat / 16)

/-- A path block (R321): as many ports as hops, at most 16. -/
def pathOk (p : Option PathBlock) : Bool :=
  match p with
  | none => true
  | some b => b.nhops ≤ 16 && b.hop ≤ b.nhops && b.ports.length == b.nhops && b.rets.length == b.hop

/-- A memory event names a word within the access. -/
def eventOk (x : ReadEvent) (n : Nat) : Bool :=
  match x with
  | .clean => true
  | .sramCorrected => true
  | .sramUncorrectable off => off < n
  | .linkCorrected off => off < n
  | .linkRepeated off => off < n
  | .lpxCorrected off => off < n
  | .lpxRetryOk off _ => off < n
  | .lpxRetryFail off _ => off < n

/-- The requester of a register command other than the harbourmaster acts as some client; the harbourmaster as the house
(R404). -/
def reqOk (r : Req) : Bool := !r.hm || r.client == 0xFF

/-- Whether a command is well-formed. -/
def Instr.wf (i : Instr) : Bool :=
  match i with
  | .tick _ m => m.periodUs.toNat ≤ 1000
  | .tmrCfgWrite r _ _ _ => reqOk r
  | .ld _ _ _ _ size _ x => eventOk x (2 ^ size.toNat)
  | .lds _ _ _ _ size _ x => eventOk x (2 ^ size.toNat)
  | .chan _ _ data => 64 ≤ data.length && data.length ≤ 65536
  | .memPut _ data => bodyOk data
  | .memGet _ n x => 1 ≤ n && n ≤ 65536 && eventOk x n
  | .memResp _ _ status data _ _ => if status = 0 then bodyOk data else data == []
  | .cvTile _ _ _ fmt data _ => data.length == tileSize fmt.toNat && data != []
  | .redItem m => m.data.length == 65536 && m.level.toNat ≤ 20
  | .redResult m => m.data.length == 65536
  | .shardData _ _ _ _ _ off _ _ data _ _ => bodyOk data && off.toNat + data.length ≤ 0x100000
  | .manifestFwd _ _ _ entries => 1 ≤ entries.length && entries.length ≤ 256 && entries.all (fun e => e.length == 64)
  | .codewordReceive _ correctable symbols _ => symbols.length ≤ (if correctable then 15 else 0) && symbols.all (· < 9)
  | .flitData _ bs => flitOk bs (fun t => t == 1 || 5 ≤ t)
  | .flitIdle _ bs => flitOk bs (· == 0)
  | .flitCtrl _ bs => flitOk bs (· == 2)
  | .flitKeepalive _ bs _ => flitOk bs (· == 3)
  | .flitParam _ bs => flitOk bs (· == 4)
  | .alignDone _ m f => m &&& f == 0
  | .laserMeasureDone _ dbm => dbm.length == 9
  | .seamBeatFail _ seam _ _ _ _ _ => seam != 3
  | .messageForward _ m => pathOk m.path
  | .hostMessage m => pathOk m.path
  | .event m => pathOk m.path
  | .discIdent _ m => pathOk m.path
  | .regLoRead r page off => reqOk r && isLoReg page.toNat off.toNat
  | .regLoWrite r page off _ => reqOk r && isLoReg page.toNat off.toNat
  | .regHiWrite r page off _ => reqOk r && isHiReg page.toNat off.toNat
  | .counterClearWrite r page off _ => reqOk r && isCounterReg page.toNat off.toNat
  | .audReq q => audOk q
  | .pqData _ _ _ _ _ _ _ data _ => data.length ≤ 65536
  | .ckptData _ _ _ off _ _ _ data _ => bodyOk data && off.toNat + data.length ≤ 0x100000
  | .membership _ _ m => m.lost.length ≤ 8
  | .irqClaim r t => reqOk r && t != 3
  | .irqComplete r t _ => reqOk r && t != 3
  | .irqSrcWrite r n _ => reqOk r && n.toNat < 768
  | .cdTempPeakWrite r page _ => reqOk r && 0x200 ≤ page.toNat && page.toNat < 0x206
  | .thermalSensorRead temps => temps.length == 6
  | .railCheck rails => rails.length == 5
  | .resetRelease _ _ _ x | .bootRomDone x => match x.seed with
    | none => true
    | some b => b.length == 32
  | .tickCfgWrite r _ => reqOk r
  | .tkRoleWrite r _ => reqOk r
  | .fdCfgWrite r _ _ => reqOk r
  | .hold r _ => reqOk r
  | .resume r _ => reqOk r
  | .ltGo r _ _ _ => reqOk r
  | .ctrlBlockReset r _ _ => reqOk r
  | .ctrlQuiesce r _ _ => reqOk r
  | .ctrlEnable r _ _ => reqOk r
  | .objWinRead r => reqOk r
  | .objWinWrite r => reqOk r
  | .promote r _ => reqOk r
  | .evict r _ => reqOk r
  | .pin r _ => reqOk r
  | .unpin r _ => reqOk r
  | .remap r _ => reqOk r
  | .moveResRead r => reqOk r
  | .lpxRateWrite r _ => reqOk r
  | .wsRead r => reqOk r
  | .wsLoad r => reqOk r
  | .wsReady r => reqOk r
  | .wsClear r => reqOk r
  | .loadGo r _ => reqOk r
  | .swGo r _ => reqOk r
  | .mbDrain r _ => reqOk r
  | .mbActivate r _ => reqOk r
  | .smGo r _ => reqOk r
  | .smResRead r => reqOk r
  | .rqGo r _ => reqOk r
  | .accClear r _ => reqOk r
  | .ptCfgWrite r _ _ => reqOk r
  | .rtAddrWrite r _ => reqOk r
  | .rtWinRead r => reqOk r
  | .rtWinWrite r => reqOk r
  | .hlStateWrite r _ => reqOk r
  | .applyCap r _ => reqOk r
  | .hlRecNext r _ => reqOk r
  | .encode r _ _ => reqOk r
  | .restart r _ => reqOk r
  | .ckptNow r _ => reqOk r
  | .lgClaim r _ _ => reqOk r
  | .lgRelease r _ _ => reqOk r
  | .lgForceRelease r _ _ => reqOk r
  | .lockWrite r _ _ => reqOk r
  | .attest r => reqOk r
  | .challenge r => reqOk r
  | .unlockVendor r => reqOk r
  | .unlockOwner r => reqOk r
  | .unlockPassword r => reqOk r
  | .updateImage r => reqOk r
  | .installCfg r => reqOk r
  | .installOwner r => reqOk r
  | .baseTick .. | .holdoverStart | .tickLost | .backupTakeover | .guardPoint .. | .recall .. | .abortComplete ..
  | .frameTimerFire .. | .gpioPulseEnd .. | .queueEntryFree .. | .pilotStallEnd .. | .engineWordCheck ..
  | .mxeStart .. | .accCloseFold .. | .vxeStart .. | .ltDescStart .. | .ltDescComplete .. | .sliceReadRetry ..
  | .chanPost .. | .chanAck .. | .add .. | .sub .. | .and .. | .or .. | .xor .. | .shl .. | .shr .. | .sar ..
  | .mul .. | .mulhu .. | .minu .. | .maxu .. | .addi .. | .andi .. | .ori .. | .xori .. | .shli .. | .shri ..
  | .sari .. | .lih .. | .cmpEq .. | .cmpNe .. | .cmpLt .. | .cmpLe .. | .cmpGt .. | .cmpGe .. | .cmpLtu ..
  | .cmpLeu .. | .cmpGtu .. | .cmpGeu .. | .btst .. | .pand .. | .por .. | .pandn .. | .st .. | .br .. | .brl ..
  | .jr .. | .jrl .. | .nop .. | .frameEnd .. | .sync .. | .rdctx .. | .vsetvl .. | .ltIssue .. | .ltWait ..
  | .chSend .. | .chRecv .. | .accOpen .. | .accClose .. | .mma .. | .mmaG .. | .mmaF .. | .mxFclr .. | .vadd ..
  | .vsub .. | .vmul .. | .vfma .. | .vmax .. | .vmin .. | .vdiv .. | .vabs .. | .vneg .. | .vcvt .. | .vrcp ..
  | .vsqrt .. | .vrsqrt .. | .vexp .. | .vexp2 .. | .vlog .. | .vlog2 .. | .vtanh .. | .vsigmoid .. | .verf ..
  | .vred .. | .vget .. | .vput .. | .flagsRd .. | .vxFclr .. | .optMom .. | .optStep .. | .optApply ..
  | .cowCopyComplete .. | .moveCopyComplete .. | .lpxTrainingComplete .. | .lpxRefresh .. | .lpxMr4Read ..
  | .lpxWckOscRead .. | .patrolScrubPass .. | .rebuildComplete .. | .putAck .. | .caravanPrefetch .. | .cvLegreq ..
  | .reductionSend .. | .drainComplete .. | .shardAck .. | .shardMoveComplete ..
  | .nakRetryTimeout .. | .ackTimeout .. | .keepaliveSend ..
  | .kaWindowEnd .. | .fastRetrainEnd .. | .fastRetrainTimeout .. | .portRetrainTimer .. | .lambdaLockTimeout ..
  | .trainTimeout .. | .symbolWindowEnd .. | .lambdaSwapComplete .. | .xportTimeout .. | .regRd ..
  | .regWr .. | .regResp .. | .auditRecompute .. | .audResp .. | .auditS2 .. | .auditTimeout .. | .healthDecay
  | .pqGet .. | .pqAck .. | .pqStale .. | .ckptAck .. | .ckptDone .. | .ckptSafe .. | .lossNote .. | .probe ..
  | .probeAck .. | .probeTimeout .. | .membershipStage .. | .leaderTimeout .. | .irqRemind | .vauxValid
  | .smbAddrSample .. | .resetAssert .. | .refclkLost | .thermtrip | .prochotSample ..
  | .pwrbrkSample .. | .powerControl .. | .smbState | .smbHottestTemp | .smbDieTemp .. | .smbPower | .smbEnergy
  | .smbIdentity | .smbVersion | .smbResetCause | .smbLastErr | .smbIrqClaim | .smbIrqComplete .. | .smbIrqTop
  | .smbAlertResponse | .hmCmdDone | .challengeExpiry | .unlockWaitEnd | .extest .. | .samplePreload .. | .idcode | .bypass
  | .jtagVendorInstruction .. | .firmwareBringupDone | .selftestDone .. | .clockLockTimeout | .linkTrainDeadline
  | .wavelengthsLocked .. | .clockRecoveryLost .. | .rxPowerLow .. | .patrolScrubRead .. | .regulatorFault
  | .vauxLost | .readyToggle | .tapReset => true

end Sys2Proof
end

