-- ==== Sys2Proof/Tests/Slice0.lean ====
section
/-! SUPPORT. Own tests: the checks of WellFormed, decoded words, small steps, and for every statement a state and operands
that meet its hypotheses. -/

namespace Sys2Proof.Tests
open Sys2Proof Sys2Proof.Machine

/-! ### Helpers -/

/-- A device in operation: out of reset, address 0x1000, locked at tick 100. -/
def up : State := { State.reset with
  startUp := { phase := .running, bankSwitched := true, committed := true, seen := 9 }
  route := { addr := 0x1000 }
  tick := { num := 100, locked := true, everLocked := true } }

/-- Requests of the house and of client 7. -/
def req : Req := { client := 0xFF, hm := false, src := 0x20, tag := 5 }
def req7 : Req := { req with client := 7 }

def withBerth (be : Berth) : State := { up with berths := [(0, be)] }
def withDom (x : Domain) : State := { up with domains := [(0, x)] }
def runs : Berth := { pl := .run, pc := 5, scal := [(1, 9), (2, 4), (3, 0x100)] }
def sRun : State := withBerth runs
/-- An enabled domain 0 whose frame 7 is open, holding berth 0. -/
def openDom : Domain := { en := true, st := .opened, num := 7, len := 10, ending := 110, opening := 100 }
def sOpen : State := { withDom openDom with berths := [(0, runs)], serve := [(0, { mask := 1 })] }

/-- What the next state of a command satisfies. -/
def after (o : Outcome) (p : State → Bool) : Bool :=
  match o with
  | .next t => p t
  | _ => false

theorem reaches (p : Nat) (h : ownerClient p up = 0xFF) : Reaches req p up := ⟨by decide, .inl h⟩

/-! ### The checks of WellFormed refuse -/

theorem test_wf_tick_period : Instr.wf (.tick 0 ⟨0, 1001, 0, false, 0, 0⟩) = false := by decide
theorem test_wf_house : Instr.wf (.hold { req7 with hm := true } 0) = false := by decide
theorem test_wf_event : Instr.wf (.ld 0 0 1 2 2 0 (.sramUncorrectable 4)) = false := by decide
theorem test_wf_chan : Instr.wf (.chan ⟨0, ⟨0, 0, false, 0⟩, 0, 0, 0, 0⟩ 0 [1]) = false := by decide
theorem test_wf_put : Instr.wf (.memPut ⟨0, 0, true, ⟨0, 0, true, 0⟩, 0, none⟩ []) = false := by decide
theorem test_wf_get : Instr.wf (.memGet ⟨0, 0, true, ⟨0, 0, true, 0⟩, 0, none⟩ 65537 .clean) = false := by decide
theorem test_wf_resp : Instr.wf (.memResp 0 0 1 [0]) = false := by decide
theorem test_wf_tile : Instr.wf (.cvTile (.load 0 0 false) 0 0 10 []) = false := by decide
theorem test_wf_manifest : Instr.wf (.manifestFwd 0 0 0 [[0]]) = false := by decide
theorem test_wf_codeword : Instr.wf (.codewordReceive 0 true [9] none) = false := by decide
theorem test_wf_laser : Instr.wf (.laserMeasureDone 0 []) = false := by decide
theorem test_wf_seam : Instr.wf (.seamBeatFail 0 3 0 0 0 false true) = false := by decide
theorem test_wf_path : Instr.wf (.hostMessage ⟨0, 0, 0, 0, false, false, false, 0, 0, 0, true, some ⟨[1], [], 2, 0, 0⟩, []⟩) = false := by
  decide
theorem test_wf_flit : Instr.wf (.flitCtrl 0 (List.replicate 128 0)) = false ∧ Instr.wf (.alignDone 0 3 1) = false := by
  decide +kernel
theorem test_wf_lo : Instr.wf (.regLoRead req 0x257 0x054) = false := by decide
theorem test_wf_hi : Instr.wf (.regHiWrite req 0x257 0x050 0) = false := by decide
theorem test_wf_counter : Instr.wf (.counterClearWrite req 0x257 0x050 0) = false := by decide
theorem test_wf_irq : Instr.wf (.irqClaim req 3) = false ∧ Instr.wf (.irqComplete req 3 0) = false := by decide
theorem test_wf_source : Instr.wf (.irqSrcWrite req 768 0) = false := by decide
theorem test_wf_peak : Instr.wf (.cdTempPeakWrite req 0x206 0) = false := by decide
theorem test_wf_sensors : Instr.wf (.thermalSensorRead [0]) = false := by decide
theorem test_wf_rails : Instr.wf (.railCheck []) = false := by decide
theorem test_wf_seed : Instr.wf (.resetRelease 0 false [] ⟨true, some [0]⟩) = false := by decide
theorem test_wf_lost : Instr.wf (.membership 0 0 ⟨0, 0, 0, false, false, 0, 0, List.replicate 9 0⟩) = false := by decide

/-! ### Words of the pilot, from the encoding tables of chapter 06: GROUP, MINOR, PRED, then the operand format -/

theorem test_word_add : decodeWord (0x1#4 ++ 0x0#4 ++ 0#3 ++ 3#5 ++ 1#5 ++ 2#5 ++ 0#38) = .ok (.sr .add 3 1 2) := rfl
theorem test_word_lih : decodeWord (0x2#4 ++ 0x7#4 ++ 0#3 ++ 4#5 ++ 5#5 ++ 0#11 ++ 0x12345678#32) =
    .ok (.si .lih 4 5 0x12345678) := rfl
theorem test_word_cmp_geu : decodeWord (0x3#4 ++ 0x9#4 ++ 1#3 ++ 0#2 ++ 6#3 ++ 1#5 ++ 2#5 ++ 0#38) = .ok (.cmp .geu 6 1 2) := rfl
theorem test_word_pandn : decodeWord (0x3#4 ++ 0xD#4 ++ 0#3 ++ 0#2 ++ 1#3 ++ 0#2 ++ 2#3 ++ 0#2 ++ 3#3 ++ 0#38) =
    .ok (.plog .pandn 1 2 3) := rfl
theorem test_word_ld : decodeWord (0x4#4 ++ 0x0#4 ++ 0#3 ++ 7#5 ++ 8#5 ++ 3#2 ++ 0#9 ++ 0xFFFFFFF8#32) =
    .ok (.ld false 7 8 3 0xFFFFFFF8) := rfl
theorem test_word_brl : decodeWord (0x5#4 ++ 0x1#4 ++ 2#3 ++ 9#5 ++ 0#32 ++ 0xFFFF#16) = .ok (.brl 9 0xFFFF) := rfl
theorem test_word_sync : decodeWord (0x6#4 ++ 0x2#4 ++ 0#3 ++ 0x21#6 ++ 0#47) = .ok (.sync 0x21) := rfl
theorem test_word_zero : decodeWord 0 = .error 0x4101 := rfl
theorem test_word_reserved_bit : decodeWord (0x6#4 ++ 0x0#4 ++ 0#3 ++ 1#53) = .error 0x4102 := rfl
theorem test_word_shift_64 : decodeWord (0x2#4 ++ 0x4#4 ++ 0#3 ++ 1#5 ++ 2#5 ++ 0#11 ++ 64#32) = .error 0x4102 := rfl
theorem test_word_sync_0 : decodeWord (0x6#4 ++ 0x2#4 ++ 0#3 ++ 0#53) = .error 0x4103 := rfl
theorem test_word_lt : decodeWord (0x7#4 ++ 0x0#4 ++ 0#3 ++ 2#2 ++ 0#3 ++ 1#5 ++ 3#5 ++ 4#5 ++ 5#5 ++ 0#28) =
    .ok (.ltIssue 2 1 3 4 5) := rfl
theorem test_word_acc_open : decodeWord (0x8#4 ++ 0x0#4 ++ 0#3 ++ 5#3 ++ 1#1 ++ 0#1 ++ 6#5 ++ 7#5 ++ 0#38) =
    .ok (.accOpen 5 true false 6 7) := rfl
theorem test_word_mma : decodeWord (0x8#4 ++ 0x2#4 ++ 0#3 ++ 2#3 ++ 3#4 ++ 4#4 ++ 5#4 ++ 6#4 ++ 2#3 ++ 0#19 ++ 128#8 ++ 0#4) =
    .ok (.mma 2 ⟨3, 4, 5, 6, 2⟩ 128) := rfl
theorem test_word_vadd : decodeWord (0x9#4 ++ 0x0#4 ++ 0#3 ++ 1#5 ++ 2#5 ++ 3#5 ++ 0#2 ++ 0#2 ++ 0#7 ++ 5#4 ++ 4#4 ++ 6#4 ++
    2#2 ++ 1#1 ++ 0#1 ++ 1#1 ++ 8#5 ++ 9#5) =
    .ok (.vec .vadd ⟨1, 2, 3, 0, 0, 0, 5, 4, 6, 2, true, false, true, 8, 9⟩) := rfl

/-! ### Witnesses: the whole device -/

theorem wit_IdleStepRunsPilotWord : runningPilot State.reset = none ∧
    (let s := withBerth { runs with imem := [(5, 0)] }
     s.pending = [] ∧ runningPilot s = some 0 ∧ (berth 0 s).pc.toNat < 32768) := by decide

theorem wit_StepKeepsInvariant : Inv State.reset := reset_memory_wf

theorem wit_ErrorRecord : (Blk.fd 3).page ≠ Pg.health ∧ (Blk.mx 0).page ≠ Pg.health := by decide

/-! ### Witnesses: the pilot -/

/-- The pilot of the running berth issues a word that uses any scalars. -/
theorem wit_issues (rs : List (BitVec 5)) : Issues 0 0 rs sRun :=
  ⟨by decide, by decide, by decide, by decide, fun r _ _ =>
    (show pendingScal (berth 0 sRun) = [] by decide) ▸ List.not_mem_nil⟩

theorem wit_ScalarArithmeticWords : Issues 0 0 [3, 1, 2] sRun ∧ Issues 0 0 [0, 1, 2] sRun := ⟨wit_issues _, wit_issues _⟩

theorem wit_ImmediateWords : Issues 0 0 [3, 1] sRun ∧ (63 : W32).toNat < 64 ∧ 64 ≤ (64 : W32).toNat :=
  ⟨wit_issues _, by decide⟩

theorem wit_PredicateWords : Issues 0 0 [1, 2] sRun ∧ Issues 0 0 [] sRun := ⟨wit_issues _, wit_issues _⟩

theorem wit_BranchWords : Issues 0 0 [4, 3] sRun ∧
    (0 ≤ ((berth 0 sRun).pc.toNat + (0xFFFB : W16).toInt : Int) ∧ ((berth 0 sRun).pc.toNat + (0xFFFB : W16).toInt : Int) < 32768) ∧
    ¬ (0 ≤ ((berth 0 sRun).pc.toNat + (0xFFFA : W16).toInt : Int)) :=
  ⟨wit_issues _, by decide⟩

theorem wit_SystemWords : Issues 0 0 [1] sRun ∧ Issues 0 0 [] sRun ∧ (0x3F : BitVec 6) ≠ 0 ∧ (7 : BitVec 4).toNat < 8 ∧
    (1 ≤ (128 : BitVec 8).toNat ∧ (128 : BitVec 8).toNat ≤ 128) ∧
    (sreg (berth 0 sRun) 0).toNat % 2 ^ 32 ≤ (berth 0 sRun).lt[0].done.toNat ∧
    (berth 0 sRun).lt[0].done.toNat < (sreg (berth 0 sRun) 2).toNat % 2 ^ 32 :=
  ⟨wit_issues _, wit_issues _, by decide⟩

theorem wit_QueuedWordsCaptureOperands : Issues 0 0 [] sRun ∧ wordCheck .mxFclr = none ∧ wordCheck .vxFclr = none ∧
    wordCheck (.ltIssue 0 1 2 3 0) = none ∧ roomIn (berth 0 sRun) .mx ∧
    ¬ roomIn { runs with mxq := List.replicate 16 { seq := 0, w := .mxFclr } } .mx :=
  ⟨wit_issues _, rfl, rfl, rfl, by unfold roomIn; decide, by unfold roomIn; decide⟩

theorem wit_WordsThatDoNotIssue : (berth 0 up).pl ≠ .run ∧
    (let be : Berth := { runs with pc := 32768 }
     be.pl = .run ∧ 32768 ≤ be.pc.toNat) ∧
    (runs.pl = .run ∧ runs.pc.toNat < 32768 ∧ wordCheck (.rdctx 1 15) ≠ none ∧ wordCheck .nop = none ∧ Awake sRun ∧
      preg runs 1 = false ∧ preg runs 0 = true) ∧
    (let be : Berth := { runs with vxq := [{ seq := 0, w := .flagsRd 1 }] }
     (1 : BitVec 5) ≠ 0 ∧ (1 : BitVec 5) ∈ pendingScal be ∧ (1 : BitVec 5) ∈ wordReads (.sr .add 2 1 1)) := by decide

theorem wit_PilotLoads : Issues 0 0 [3, 1] sRun ∧
    (let a := (sreg (berth 0 sRun) 3).toNat
     a / 2 ^ 28 = 0 ∧ a % 8 = 0 ∧ readHeld (berth 0 sRun) (berth 0 sRun).seq (a % 2 ^ 28) 8 = false ∧
     (ext (a / 2 ^ 20) sRun).kind = .scratch ∧ (ext (a / 2 ^ 20) sRun).st = .idle) ∧
    ¬ ((sreg (berth 0 sRun) 1).toNat % 2 = 0) := ⟨wit_issues _, by decide⟩

theorem wit_PilotStores : Issues 0 0 [1, 3] sRun ∧
    (let o := (sreg (berth 0 sRun) 3).toNat
     o / 2 ^ 28 = 0 ∧ o % 8 = 0 ∧ ¬ (0x0FFFF7F0 ≤ o) ∧ o + 8 ≤ 0x0FFFF7E0 ∧
     writeHeld (berth 0 sRun) (berth 0 sRun).seq o 8 = false ∧ (ext (o / 2 ^ 20) sRun).kind = .scratch) ∧
    (let o := (sreg { runs with scal := [(3, 0x0FFFF7F0)] } 3).toNat
     o / 2 ^ 28 = 0 ∧ o % 8 = 0 ∧ 0x0FFFF7F0 ≤ o) ∧
    (let o := (sreg { runs with scal := [(3, 0x0FFFF7E8)] } 3).toNat
     o / 2 ^ 28 = 0 ∧ o % 4 = 0 ∧ o < 0x0FFFF7F0 ∧ 0x0FFFF7E8 < o + 4) := ⟨wit_issues _, by decide⟩

/-! ### Witnesses: ticks and frames -/

theorem wit_RegisterAnswers : req.hm = false ∧ ({ req with hm := true } : Req).hm = true := by decide

theorem wit_TickUnitCommands : Awake up ∧
    (up.tick.locked = true ∧ up.tick.master = false ∧ up.tick.holdover = false ∧ up.tick.taken ≠ some up.tick.num ∧
      up.tick.taken ≠ some (up.tick.num + 1)) ∧
    ({ up.tick with backupEn := true } : TickUnit).backupEn = true ∧ Reaches req Pg.tick up ∧ Unlocked req Pg.tick up ∧
    (2 ≤ (1000 : W32).toNat % 1024 ∧ ∀ d, d < 16 → (dom d up).en = false) ∧
    ((0x80001717 : W32).toNat % 32 ≤ 23 ∧ (0x80001717 : W32).toNat / 256 % 32 ≤ 23 ∧ (0x80001717 : W32).getLsbD 31 = true) :=
  ⟨by decide, by decide, by decide, reaches _ (by decide), .inl (by decide), by decide, by decide⟩

theorem wit_TickAccepted : Awake up ∧ up.tick.masterEn = false ∧ up.tick.master = false ∧ tickPort up = 0 ∧ 1 ≠ tickPort up ∧
    up.tick.inStep 100 = true ∧ up.tick.inStep 101 = true ∧ up.tick.inStep 102 = false ∧
    ({ up.tick with masterEn := true } : TickUnit).masterEn = true := by decide

theorem wit_DomainControl : Reaches req Pg.frame up ∧ Unlocked req Pg.frame up ∧
    (let x : Domain := { openDom with st := .armed }
     x.st ≠ .idle ∧ x.st ≠ .held ∧ x.en = true ∧ (0x0032000A : W32).getLsbD 31 = false ∧
     (0x0032000A : W32).toNat / 65536 % 4096 = x.guard.toNat ∧ (0x0032000A : W32).toNat % 65536 = x.len.toNat) ∧
    (let x : Domain := { openDom with st := .held, start := 102 }
     x.st = .held ∧ up.tick.num.toNat + 2 ≤ x.start.toNat ∧ up.tick.locked = true) ∧ Awake up ∧
    (let x : Domain := { openDom with st := .recalling }
     x.st = .recalling ∧ x.abortDone = false ∧ x.offReq = false ∧ x.holdAfterAbort = none) ∧
    ({ openDom with offReq := true } : Domain).offReq = true ∧
    ({ openDom with holdAfterAbort := some 0x1005 } : Domain).holdAfterAbort = some 0x1005 :=
  ⟨reaches _ (by decide), .inl (by decide), by decide⟩

theorem wit_DomainEnabled : Reaches req Pg.frame up ∧ Unlocked req Pg.frame up ∧ (dom 0 up).en = false ∧
    (suState State.reset ≠ 8 ∧ suState State.reset ≠ 9) ∧
    (let s := withDom { start := 102 }
     (dom 0 s).en = false ∧ enableCode 0 s = none) ∧
    (∃ m, m < 24 ∧ (lpxDev m { up with mem := { up.mem with lpx := [(3, { chFail := 1 })] } }).chFail ≠ 0) ∧
    (20 ≤ 20 ∧ 0 < 1 ∧ 20 + 10 ≤ 1 * up.tick.periodUs.toNat * 10) ∧ (19 < 20) :=
  ⟨reaches _ (by decide), .inl (by decide), by decide⟩

theorem wit_RecallsOfRuns : (dom 0 up).en = false ∧ Awake sOpen ∧
    (let x := dom 0 sOpen
     x.en = true ∧ x.st = .opened ∧ x.num = 7 ∧ x.replays = 0 ∧ ((7 : W64), (0 : BitVec 8)) ∉ x.taken) ∧
    holdsBerth 0 0 sOpen = true ∧ holdsBerth 0 1 sOpen = false := by decide

theorem wit_GuardPointOverrun : ((dom 0 up).st ≠ .opened ∧ (dom 0 up).st ≠ .done) ∧
    (let s := { sOpen with domains := [(0, { openDom with ending := 101 })] }
     let x := dom 0 s
     Awake s ∧ x.st = .opened ∧ x.guardSeen = false ∧ x.replayOfOver = false ∧ finished 0 s = false ∧
     x.ending * (s.tick.periodUs.toNat * 10) - x.guard.toNat < (s.tick.num.toNat + 1) * (s.tick.periodUs.toNat * 10)) ∧
    (let s := withDom { openDom with st := .done, ending := 101 }
     (dom 0 s).st = .done) := by decide

theorem wit_TickLossHoldsDomains : up.tick.holdover = false ∧
    (let s := { sOpen with tick := { up.tick with holdover := true } }
     Awake s ∧ s.tick.locked = true ∧ s.tick.holdover = true ∧ (dom 0 s).en = true ∧ (dom 0 s).st = .opened ∧ (dom 1 s).en = false) ∧
    ({ openDom with st := .armed } : Domain).st = .armed := by decide

theorem wit_FrameTimers : Awake up ∧ Reaches req Pg.frame up ∧ (ledgerEntry 0x10 up).owner = none ∧
    (let s := { up with ledger := { up.ledger with entries := [(0x10, { owner := some 0xFF })] } }
     (ledgerEntry 0x10 s).owner = some req.client ∧ (ledgerEntry 0x10 s).owner ≠ some req7.client ∧
     (0x81000000 : W32).toNat / 2 ^ 24 % 4 = 1 ∧ (0x81000000 : W32).toNat / 2 ^ 22 % 4 ≠ 3 ∧
     (timer 0 s).cmp.toNat % 65536 < (dom 0 s).len.toNat) ∧
    timerDue 0 up = false ∧ timerDue 0 { up with timers := [(0, { arm := true, cmp := 100 })] } = true :=
  ⟨by decide, reaches _ (by decide), by decide⟩

theorem wit_BaseTickCounts : up.startUp.phase ≠ .reset ∧ up.tick.everLocked = true ∧
    ({ up.startUp with phase := .reset } : StartUp).phase = .reset ∧
    ({ up.tick with masterFirst := true } : TickUnit).masterFirst = true := by decide

/-! ### Witnesses: units -/

def stalled : Berth := { runs with pl := .stalled, stall := some (0, .mxFclr) }

theorem wit_StalledPilotTriesAgain : Awake (withBerth stalled) ∧ stalled.pl = .stalled ∧ stalled.stall = some (0, .mxFclr) ∧
    stalled.dead = false ∧ (queueOf .mxFclr = some .mx ∧ wordCheck .mxFclr = none ∧ preg stalled 0 = true ∧
      stalled.pc.toNat < 32768 ∧ pendingScal stalled = [] ∧ roomIn stalled .mx) ∧ (berth 0 up).stall = none := by
  unfold roomIn
  decide

/-- An MMA of BF16 tiles on group 0, closed and open. -/
def qMma : QEnt := { seq := 3, w := .mma 0 ⟨0, 1, 1, 1, 4⟩ 128 }
def vget : QEnt := { seq := 3, w := .vget 1 0 2 0 false }
def vgetBad : QEnt := { seq := 3, w := .vget 1 0 2 15 false }
def linear : QEnt := { seq := 3, w := .ltIssue 0 1 2 3 4, a := 0x100022, b := 0x1000 }

theorem wit_RefusedUnitWordsStop :
    (let s := withBerth { mxq := [qMma] }
     Awake s ∧ (berth 0 s).mxStopped = false ∧ mxCode 0 qMma s = some Code.accNotOpen) ∧
    (let s := withBerth { mxq := [qMma], groups := [(0, { opened := true })] }
     mxCode 0 qMma s = none) ∧
    vxCode 0 vget (withBerth { vxq := [vget] }) = none ∧ (vxCode 0 vgetBad (withBerth { vxq := [vgetBad] })).isSome = true ∧
    ltCode 0 linear up = none ∧ (ltCode 0 { linear with a := 0 } up).isSome = true := by decide

theorem wit_GroupsOpenAndClose :
    (let q : QEnt := { seq := 3, w := .accOpen 7 true false 1 2, a := 5, b := 6 }
     let be : Berth := { mxq := [q] }
     mxCode 0 q (withBerth be) = none ∧ mxReady be q = true) ∧
    (let q : QEnt := { seq := 3, w := .accClose 7 }
     let be : Berth := { mxq := [q], groups := [(7, { opened := true })] }
     Awake (withBerth be) ∧ mxCode 0 q (withBerth be) = none ∧ mxReady be q = true ∧ (tget be.groups {} 7).opened = true) ∧
    (let q : QEnt := { seq := 3, w := .mxFclr }
     let be : Berth := { mxq := [q] }
     mxCode 0 q (withBerth be) = none ∧ mxReady be q = true) ∧
    (let q : QEnt := { seq := 3, w := .accOpen 7 false true 1 2 }
     let be : Berth := { mxq := [q] }
     mxCode 0 q (withBerth be) = none ∧ mxReady be q = true) ∧
    Awake (withBerth { closing := [(2, 7)] }) ∧ ({ closing := [(2, 7)] } : Berth).closing = [(2, 7)] := by decide

theorem wit_ProductsTouchOnlyTheirGroup :
    (let be : Berth := { mxq := [qMma], groups := [(0, { opened := true })] }
     Awake (withBerth be) ∧ mxCode 0 qMma (withBerth be) = none ∧ mxReady be qMma = true ∧ be.mxStopped = false) := by decide

theorem wit_VectorWordsRun :
    (let be : Berth := { vxq := [vget] }
     Awake (withBerth be) ∧ vxCode 0 vget (withBerth be) = none ∧ vxReady be vget = true) ∧
    (let q : QEnt := { seq := 3, w := .flagsRd 31 }
     vxCode 0 q (withBerth { vxq := [q] }) = none ∧ vxReady { vxq := [q] } q = true) ∧
    (let q : QEnt := { seq := 3, w := .vxFclr }
     vxCode 0 q (withBerth { vxq := [q] }) = none ∧ vxReady { vxq := [q] } q = true) := by decide

theorem wit_RoundingIsExactOnFormatValues : ∀ f ∈ [fp64, fp32, bf16, fp16, e5m2, e4m3, e3m2, e2m3, e2m1],
    0 < 2 ^ (1 + f.eb + f.mb) ∧ (decodeNum f 0).isNan = false ∧ (decodeNum f 0).isInf = false := by decide

theorem wit_DescriptorsStart :
    (let be : Berth := { lt := #v[{ queue := [linear] }, {}, {}, {}] }
     let s := withBerth be
     Awake s ∧ ltCode 0 linear s = none ∧ ltHeld be linear = false ∧ linear.op = 2 ∧ linear.dstKind = 0 ∧ linear.srcKind = 2 ∧
     ∀ p ∈ piecesOf linear.b.toNat linear.size, (ext p.1 s).kind = .scratch ∧ (ext p.1 s).st = .idle) ∧
    ltCode 0 { linear with a := 0x1001, b := 3 } up = none ∧ ({ linear with a := 0x11 } : QEnt).srcKind = 1 := by decide

theorem wit_DescriptorsComplete : (berth 0 up).lt[(0 : BitVec 2).toNat].run = none ∧ Awake up ∧
    (∀ q ∈ [linear, { linear with a := 0x100012, b := 3 }, { linear with a := 0x100052 }],
      descDone { ent := q } up = true ∧ q.op = 2 ∧ q.dstKind = 0 ∧ ∀ p ∈ piecesOf q.b.toNat q.size,
        (ext p.1 up).st ≠ .poisoned ∧ (ext p.1 up).st ≠ .rebuilding) ∧
    (let q : QEnt := { linear with a := 0x81201, b := 3, c := 0x1000, d := 1 }
     descDone { ent := q } up = true ∧ q.op = 1 ∧ q.srcKind = 0 ∧ q.dstKind = 2 ∧ q.check = true ∧ q.size = 32768) ∧
    (let q : QEnt := { linear with a := 0x100625, b := 0x1000, c := 64, driver := true }
     descDone { ent := q } up = true ∧ q.op = 5 ∧ q.dstKind = 6 ∧ q.driver = true) ∧
    (let q : QEnt := { linear with a := 0x100502, c := 64 }
     descDone { ent := q, sentData := some [7] } up = true ∧ q.op = 2 ∧ q.dstKind = 5) := by decide

/-- A LINEAR move to the own slice and one to LPDDR5X over two extents: their places differ, and 64 bytes come. -/
theorem wit_DescriptorsComplete_memory :
    (let q : QEnt := { linear with a := 0x100202, b := 3, c := 0x1000 }
     descDone { ent := q } up = true ∧ q.op = 2 ∧ q.dstKind = 2 ∧ q.size = 64 ∧
     (tileData 0 3 0 q.size up).length = q.size ∧ ∀ p ∈ piecesOf q.c.toNat q.size, (ext p.1 up).kind ≠ .pool ∧
       (ext p.1 up).st ≠ .poisoned ∧ (ext p.1 up).st ≠ .rebuilding) ∧
    (let q : QEnt := { linear with a := 0x100422, c := 0x0200000FFFE0 }
     let s : State := { up with mem := { exts := [(65536, { kind := .object, phys := 9 }), (65537, { kind := .object, phys := 8 })] } }
     let here (i : Nat) : Nat :=
       writePhys ((extOf q.c.toNat).1 + ((extOf q.c.toNat).2 + i) / 2 ^ 20) s * 2 ^ 20 + ((extOf q.c.toNat).2 + i) % 2 ^ 20
     descDone { ent := q } s = true ∧ q.dstKind = 4 ∧ (piecesOf q.c.toNat q.size).length = 2 ∧
     (∀ p ∈ piecesOf q.c.toNat q.size, (ext p.1 s).kind ≠ .pool) ∧
     ∀ i, i < 64 → ∀ j, j < 64 → here i = here j → i = j) := by decide +kernel

theorem wit_LighterRegisterAndRetry : Reaches req (Pg.lighter 0) up ∧
    (let l : Lighter := { desc := #v[0x100625, 0, 0x1000, 0, 0, 0, 0, 0] }
     (driverDesc l).op = 5 ∧ descCode 0 (driverDesc l) up = none ∧ l.stopped = false ∧ l.queue.length < 8 ∧ (1 : W32).getLsbD 0 = true) ∧
    (driverDesc (lighter 0 0 up)).op ≠ 5 ∧ ((0 : BerthIdx), (8 : BitVec 28)) ∉ up.health.sramRetry ∧
    (let h : Health := { sramRetry := [(0, 8)] }
     ((0 : BerthIdx), (8 : BitVec 28)) ∈ h.sramRetry ∧ h.ring.length < 255) ∧ up.mem.waitGets = [] ∧ Awake up ∧ (ext 0 up).st ≠ .fresh :=
  ⟨reaches _ (by decide), by decide⟩

/-- Channel 3 of berth 0 receives from berth 9 of device 0x2000, one message at most. -/
def chan3 : Mem := { bytes := [(0x0FFFF81A, 1), (0x0FFFF81C, 0x81), (0x0FFFF81D, 9), (0x0FFFF81F, 0x20)] }
/-- Channel 3 of berth 0 sends to berth 9 of device 0x2000. -/
def chan3s : Mem := { bytes := [(0x0FFFF81A, 1), (0x0FFFF81C, 0x01), (0x0FFFF81D, 9), (0x0FFFF81F, 0x20)] }
def frameTag : FrameTag := ⟨7, 0, false, 0⟩

theorem wit_ChannelMessages : Awake sOpen ∧ tagLive ⟨8, 0, false, 0⟩ sOpen = false ∧ tagLive frameTag sOpen = true ∧
    (0 : W32) = (member 0 sOpen).epoch ∧ entryNames 0 3 true 0x2000 9 { sOpen with mem := chan3 } = true ∧
    entryNames 0 3 false 0x2000 9 { sOpen with mem := chan3s } = true ∧ sends 0 3 sOpen = [] ∧
    (let r : Running := { ent := { seq := 0, w := .chRecv 1 2 3, a := 0x30000000074, c := 2 }, posted := true }
     let s := withBerth { lt := #v[{}, { run := some r }, {}, {}] }
     recvs 0 3 true s = [(1, r)] ∧ recvs 0 3 false s = []) ∧
    (let r : Running := { ent := { seq := 0, w := .chSend 1 2 3 0, a := 0x30000000703, b := 2 }, sent := true }
     r.ent.op = 3 ∧ r.sent = true ∧ r.ent.srcKind = 0 ∧ r.ent.dstKind = 7 ∧ r.wait = 0 ∧ r.dead = false ∧ r.ent.transpose = false ∧ r.ent.check = false) := by
  decide

/-! ### Witnesses: memory -/

theorem wit_ObjectWindowAccess : Reaches req Pg.object up := reaches _ (by decide)

theorem wit_MoveRequestsQueue : Reaches req Pg.object up ∧ up.mem.moveReqs.length < 64 ∧
    64 ≤ (List.replicate 64 (⟨.pin, 0, 0, 0⟩ : MoveReq)).length ∧ up.mem.moveRes = [] ∧
    ({ up.mem with moveRes := [(1, 0)] } : Mem).moveRes = (1, 0) :: [] := ⟨reaches _ (by decide), by decide⟩

theorem wit_CopiesComplete : Inv State.reset ∧ Awake State.reset ∧ State.reset.mem.putWaits = [] ∧ cowOn 3 up = false ∧
    (let s := { up with mem := { up.mem with cow := [⟨3, []⟩] } }
     s.mem.cow.find? (fun c => c.ext == 3) = some ⟨3, []⟩) ∧
    (let m : Move := ⟨.promote, 3, 4, 5, 0, false, false, false⟩
     let s := { up with mem := { up.mem with moves := [m], exts := [(3, { kind := .object, st := .promoting })] } }
     s.mem.moves.find? (fun m => m.src == 3 && !m.waiting && !m.copied) = some m ∧ (ext 3 s).st = .promoting) :=
  ⟨reset_memory_wf, by decide⟩

theorem wit_OutsideMemoryRequests : Awake up ∧ requestCode 0x100 8 up = none ∧ retained (ext 0 up).phys.toNat up = false ∧ (extOf 0x100).2 + 8 ≤ 2 ^ 20 ∧
    requestCode 0x1000000000 8 up = some Code.memRange ∧ requestCode 0xFFFFFFFFF 2 up = some Code.memRange ∧
    requestCode 0xFFFFFFFFF 1 up = none := by decide

theorem wit_ResponsesToLighters : Awake up ∧ findReq 1 0x20 up = none ∧ up.hostbr.tags.find? (fun t => t.1 == 1) = none ∧
    (let o : OutReq := ⟨1, 0x20, .ltGet 0 1 64⟩
     let s := { withBerth { lt := #v[{}, { run := some { ent := linear, wait := 1 } }, {}, {}] } with reqs := [o] }
     findReq 1 0x20 s = some o ∧ (lighter 0 1 s).run = some { ent := linear, wait := 1 }) ∧
    (let o : OutReq := ⟨1, 0x20, .ltPut 0 1⟩
     findReq 1 0x20 { up with reqs := [o] } = some o) := by decide

theorem wit_LpxControllers : Reaches req (Pg.lpx 0) up ∧ Unlocked req (Pg.lpx 0) up ∧ Inv State.reset ∧ Awake up ∧
    (∀ d, d < 16 → (dom d up).en = false) ∧ (7 : W32).toNat % 16 < 8 ∧ ¬ ((8 : W32).toNat % 16 < 8) ∧
    (insNat up.startUp.lpxEnded 23).length ≠ 24 ∧ (insNat (List.range 23) 23).length = 24 :=
  ⟨reaches _ (by decide), .inl (by decide), reset_memory_wf, by decide, by decide⟩

theorem wit_BerthControl : Reaches req (Pg.berth 0) up ∧ Reaches req (Pg.lighter 0) up ∧
    ((hdr (Pg.berth 0) up).enable = true ∧ (hdr (Pg.berth 0) up).quiesce = false ∧ berthRuns 0 up = false ∧
      berthDom 0 up = none) ∧
    berthRuns 0 sOpen = true ∧ berthDom 0 sOpen ≠ none ∧ Reaches req (Pg.berth 0) { sOpen with serve := [(0, { mask := 1, client := 0xFF })] } ∧
    (let s := { up with pages := [(0, { quiesce := true, enable := false })] }
     (hdr (Pg.berth 0) s).quiesce = true ∧ (hdr (Pg.berth 0) s).enable = false ∧ pageBusy (Pg.berth 0) s = false ∧
     berthDom 0 s = none ∧ berthRuns 0 s = false) ∧
    (let s := { sOpen with pages := [(0, { quiesce := true })] }
     (hdr (Pg.berth 0) s).quiesce = true ∧ berthDom 0 s ≠ none) ∧
    (hdr (Pg.berth 0) { up with pages := [(0, { enable := false })] }).quiesce = false :=
  ⟨reaches _ (by decide), reaches _ (by decide), by decide, by decide, by decide, ⟨by decide, .inl (by decide)⟩, by decide,
    by decide, by decide⟩

/-! ### Witnesses: tables in objects -/

/-- Object `o`, VALID and not writable by a domain, in extent `o`, with bytes from its start. -/
def withObj (o : Nat) (bs : List Byte) (s : State) : State :=
  let m := s.mem.setBytes (o * extBytes) bs
  { s with mem := { m with exts := tput m.exts o { kind := .object, obj := BitVec.ofNat 16 o, phys := BitVec.ofNat 21 o }
                           objs := tput m.objs o { valid := true, writer := 0x10, extCount := 1 } } }

/-- A caravan of one leg of two FP32 tiles from `src`, which lands at offset 0x1000 of berth 0. -/
def sCv (src : Byte) : State :=
  withObj 2 ([0, 0, 0, 0, 1, 0, 0, 0] ++ [0, 0x10, 0, 0, 0, 0, 0, 0x40])
    (withObj 1 ([2, 0, 0, 1, 0, 0, 0, src] ++ List.replicate 24 0)
      { sOpen with weights := { cv := [(0, { list := 1, land := 2, en := true, prefetch := true, nlegs := 1, allSent := true })] } })

theorem wit_WeightAndServingRequests : Reaches req Pg.caravan up ∧ Reaches req Pg.client up ∧ Reaches req Pg.account up ∧
    ((wsSlot 0 up).st ≠ .loading ∧ partsOk (heldParts 0 up) = false ∧ up.query.busy = false) ∧
    (let s := { up with ledger := { entries := [(0x18, { owner := some 0 }), (0x20, { owner := some 0 })] }
                        weights := { slots := [(0, { st := .loading })], swTick := 101 } }
     (wsSlot 0 s).st = .loading ∧ partsOk (heldParts (wsSlot 0 s).owner s) = true ∧
     s.tick.num.toNat < s.weights.swTick.toNat) ∧
    up.weights.swTick.toNat ≤ up.tick.num.toNat ∧
    (let s := { sOpen with serve := [(0, { serve := true })] }
     Awake s ∧ (dom 0 s).en = true ∧ (serveOf 0 s).serve = true ∧ s.tick.num.toNat < (101 : W64).toNat ∧
     (0 : W64).toNat = (serveOf 0 s).nextRead) :=
  ⟨reaches _ (by decide), reaches _ (by decide), reaches _ (by decide), by decide, by decide, by decide, by decide⟩

theorem wit_CaravanTiles : (caravan 0 up).en = false ∧
    (let s := sCv 0x20
     Awake s ∧ tileLive frameTag s = true ∧ (caravan 0 s).en = true ∧ (legIn 0 7 0 s).done = false ∧ (legIn 0 7 0 s).bad = false ∧
     (landHead 2 0 s).1 ≠ 0 ∧ legOk 0 1 2 1 0 s = true ∧ (legAt 1 0 s).ntiles = 2 ∧ (legAt 1 0 s).fmt = 0 ∧
     tileBytes 0 = 65536 ∧ (legAt 1 0 s).src ≠ s.route.addr.toNat) := by decide

theorem wit_CaravanTiles_source :
    (let s := sCv 0x10
     let g := legAt 1 0 s
     g.src = s.route.addr.toNat ∧ legOk 0 1 2 1 0 s = true ∧ srcExists g.ext s = true ∧ (prepRead (some 0) g.ext s).1 = .ok) ∧
    (let s := sCv 0x10
     let b := caravan 0 s
     Awake s ∧ b.en = true ∧ b.prefetch = true ∧ (dom 0 s).offReq = false ∧ (dom 0 s).marks = [] ∧ (dom 0 s).st = .opened ∧ b.allSent = true ∧ b.ahead ≠ some ((dom 0 s).num + 1) ∧
     ownLegs 1 1 s = [0]) := by decide

/-- A reduction of two tiles with one contribution, by berth 0, one child and the parent 0x2000. -/
def sRed (x : RedRun) : State :=
  withObj 3 ([1, 0, 0, 0, 0, 0, 0, 0] ++ [0, 0, 0, 0, 1, 0, 0, 2])
    { sOpen with
      route := { addr := 0x1000, bank0 := { ctx0 := [(0, 0x20000100)] } }
      redctx := [(0, { en := true, g := 1, tableObj := 3, counts := [(0, 1)], runs := [x] })] }

theorem wit_ReductionMessages :
    (let s := sRed { red := 0, checked := true }
     let k := redCtx 0 s
     let x := redRun 0 0 s
     Awake s ∧ x.bad = false ∧ inTree k.g.toNat 0 0 = true ∧ inTree k.g.toNat 0 1 = false ∧
     k.en = true ∧ isOpen k.dom.toNat s = true ∧ 0 < nred 3 s ∧ x.own = false ∧ x.checked = true ∧
     (∀ e ∈ redEntries 3 (redHead 3 0 s) s, 0 < tget k.counts 0 e.berth) ∧ x.lasts < ctxChildren 0 s ∧
     (redHead 3 0 s).ncon ≠ 0 ∧ (redHead 3 0 s).ntiles = 2) ∧
    (let s := { up with members := { groups := [(0, { epoch := 2 })] } }
     (1 : W32).toNat < (member 0 s).epoch.toNat ∧ (2 : W32) = (member 0 s).epoch ∧ (redCtx 0 s).en = false) ∧
    (let s := sRed { red := 0, own := true, lasts := 0 }
     (redRun 0 0 s).sent = false ∧ ctxChildren 0 s ≤ (redRun 0 0 s).lasts + b2n true ∧ ctxParent 0 s ≠ 0xFFFF ∧
     tagLive frameTag s = true) ∧
    (redRun 0 0 (sRed { red := 0, sent := true })).sent = true ∧
    (redRun 0 0 (sRed { red := 0, tilesIn := [0] })).tilesIn = [0] := by decide

theorem wit_MembershipAndShards : Awake up ∧ redInFlight 0 up = false ∧ redInPorts 0 up = false ∧
    retained 2 up = false ∧ Reaches req Pg.member up ∧
    (let s := { up with members := { groups := [(0, { st := .run, act := 102 })] } }
     (member 0 s).st = .run ∧ (dom 0 s).num.toNat ≤ (member 0 s).drain.toNat) ∧
    ((member 0 up).st = .none ∧ up.tick.num.toNat + 2 ≤ (102 : W64).toNat) ∧
    (0 : W32).toNat % 4096 = 0 ∧ (1 : W32).toNat % 4096 ≠ 0 ∧ up.members.results = [] ∧
    (let s := withObj 2 [] { up with members := { groups := [(0, { st := .activated })] } }
     shardTarget 0 2 { s with mem := { s.mem with objs := [(2, { valid := true, extCount := 1 })] } } = true) ∧
    (let m : ShardMove := { tag := 9, dom := 0, src := 5, dst := 2, dev := 0x20, count := 1, started := true }
     let s := { up with reqs := [⟨1, 0x20, .shard 9 2⟩], members := { moves := [m] } }
     shardOf 1 0x20 s = some (⟨1, 0x20, .shard 9 2⟩, m) ∧ m.count ≤ m.done + 1 ∧
     [{ m with done := 1 }].find? (fun y => y.tag == 9 && y.started && !y.ended && (y.count ≤ y.done || y.failed.isSome)) =
       some { m with done := 1 }) :=
  ⟨by decide, by decide, by decide, by decide, reaches _ (by decide), by decide⟩

/-! ### Witnesses: links and routing -/

/-- A flit of a TYPE with every other field 0, and the CRC-32C of its first 60 bytes; that of 60 zeros is 0x5A0B0531. -/
def flit (typ : Byte) (crc : Nat) : List Byte :=
  List.replicate 7 0 ++ [16 * typ] ++ List.replicate 112 0 ++ leBytes 4 crc ++ leBytes 4 0x5A0B0531

/-- R294: the check value of CRC-32C, that of "123456789". -/
theorem test_crc32c : crc32c [0x31, 0x32, 0x33, 0x34, 0x35, 0x36, 0x37, 0x38, 0x39] = 0xE3069283 := by decide +kernel

theorem test_flit_idle : readFlit (flit 0 0x5A0B0531) = some (flitFields (flit 0 0x5A0B0531)) := by decide +kernel
theorem test_flit_data : readFlit (flit 1 0xF2065FDD) = some (flitFields (flit 1 0xF2065FDD)) := by decide +kernel
theorem test_flit_reserved : readFlit (flit 5 0x59EBD98F) = some (flitFields (flit 5 0x59EBD98F)) := by decide +kernel
theorem test_flit_param : readFlit (flit 4 0xF1E68363) = some (flitFields (flit 4 0xF1E68363)) := by decide +kernel
theorem test_flit_bad : readFlit (flit 0 0x5A0B0530) = none := by decide +kernel

theorem wit_LinkFlits : (port 0 up).st ≠ .active ∧ (port 0 up).st ≠ .param ∧ Awake up ∧
    (let s := { up with ports := [(0, { st := .active, waiting := [], farCredits := Vector.replicate 8 1 })] }
     let x := port 0 s
     x.st = .active ∧ x.waiting = [] ∧ x.unacked = [] ∧
     (let f := flitFields (flit 1 0xF2065FDD)
      f.typ = 1 ∧ f.ack.resv = 0 ∧ f.ack.pool.toNat < 9 ∧ f.ack.nak = false ∧ f.seq = x.rxNext ∧ f.shared = false ∧
      0 < x.farCredits[f.cls.toNat]) ∧ (flitFields (flit 0 0x5A0B0531)).typ = 0 ∧
     5 ≤ (flitFields (flit 5 0x59EBD98F)).typ.toNat) ∧
    (let x : Port := { st := .active, unacked := [{ cls := 2, sends := 2 }], kaSeen := false, missRow := 2, nakSent := true }
     (∀ g ∈ x.unacked, g.sends < 3 ∧ g.frame = none) ∧ x.missRow < 3 ∧ x.nakSent = true ∧ x.nakTwice = false) ∧
    3 ≤ ({ missRow := 3 } : Port).missRow ∧ ({ st := .retrain } : Port).st = .retrain := by decide +kernel

theorem wit_LinkTraining : Awake up ∧ Reaches req (Pg.port 0) up ∧ Unlocked req (Pg.port 0) up ∧
    (2 ≤ (3 : W32).toNat % 4 ∧ (1 : W32).toNat % 4 = 1 ∧ (port 0 up).st = .off) ∧
    8 ≤ ones 0x0FF ∧ ones (~~~(0x1F8 : BitVec 9)) = 3 ∧ ones (~~~(0x1F0 : BitVec 9)) = 4 ∧ ones (~~~(0x003 : BitVec 9)) = 7 ∧
    roleOk 0 5 up = true ∧ roleOk 0 0xFF up = false ∧
    (let x : Port := { st := .active, rxAct := 0x0FF, rxFailed := 1, swaps := [⟨true, 0⟩] }
     x.rxFailed.getLsbD 1 = false ∧ x.rxAct.getLsbD 1 = true ∧ x.swaps.find? (fun w => w.rx == true) = some ⟨true, 0⟩ ∧
     x.rxAct &&& x.rxFailed ≠ 0 ∧ spareMap x.rxAct x.rxFailed x.rxDeg = some (0x1FE, false)) ∧
    (let f := flitFields (flit 4 0xF1E68363)
     f.typ = 4 ∧ f.ack.resv = 0 ∧ f.ack.pool.toNat < 9) ∧
    (∀ k, k < 9 → (port 0 up).rxAct.getLsbD k = true → tget (port 0 up).sym 0 k ≤ 2 ^ ((port 0 up).spareThr.toNat + 8)) ∧
    tget (seamGroup 0 2 7 31 up).fails 0 31 < 16 :=
  ⟨by decide, reaches _ (by decide), .inl (by decide), by decide +kernel⟩

def rawMsg : RawMsg := ⟨0x2000, 0x3000, 0x10, 4, false, true, false, 6, 0, 0, true, none, []⟩
/-- P1 is ACTIVE and leads to the quay of 0x2000. -/
def sRoute : State := { up with
  route := { addr := 0x1000, bank0 := { quay := [(0x400, 0x81000000)] } }, ports := [(1, { st := .active }), (0, { st := .active })] }
def sHost : State := { up with board := { hostport := true }, ports := [(23, { st := .active })] }

set_option maxRecDepth 8000 in
theorem wit_RoutingAndHost : Reaches req Pg.route up ∧
    ((0xFFFF : W32).toNat % 65536 = 0xFFFF ∧ (0x1001 : W32).toNat % 8 ≠ up.board.qslot.toNat ∧
      (0x1008 : W32).toNat % 8 = up.board.qslot.toNat ∧ (∀ d, d < 16 → (dom d up).en = false) ∧ (dom 0 sOpen).en = true) ∧
    (0 < tableSize 0 ∧ tableSize 5 ≤ 0 ∧ entryBad 0 1 0 up = true ∧ entryBad 0 0 0 up = false) ∧
    (msgBad rawMsg = false ∧ msgBad { rawMsg with resv := 1 } = true ∧ rawMsg.dst ≠ up.route.addr ∧
      routePorts rawMsg.dst true up = [] ∧ isHostPort 0 sRoute = false ∧ (port 0 sRoute).st = .active ∧
      (port 0 sRoute).rxBuf = [] ∧ rawMsg.ttl ≠ 0 ∧
      (routePorts rawMsg.dst false sRoute).find? (fun k => usable k sRoute) = some 1) ∧
    (hostUp up = false ∧ hostUp sHost = true ∧ isRequest rawMsg = true ∧ bridgeTag sHost = some 0) ∧
    leAt [2] 0 1 = 2 ∧ up.hostbr.tags.find? (fun t => t.1 == 3) = none ∧ up.reqs = [] ∧ findCapture 3 up = none ∧ Awake sRoute ∧ Awake sHost ∧
    [((3 : BitVec 14), (4 : BitVec 14))].find? (fun t => t.1 == 3) = some (3, 4) :=
  ⟨reaches _ (by decide), by decide⟩

theorem wit_RegisterAccess : up.startUp.phase ≠ .reset ∧ noPage 0x7F0000270000 = true ∧ noPage 0x7F0000250040 = false ∧
    noPage 0x7F0000250041 = false ∧ (0x7F0000250041 : BitVec 48).toNat % 4 ≠ 0 ∧ (0x7F000025001C : BitVec 48).toNat % 4096 = 0x1C ∧
    (let s := { sOpen with serve := [(0, { mask := 1, client := 3 })] }
     ownerClient 0 s ≠ 0xFF ∧ ownerClient 0 s ≠ req.client) ∧ pageExists 0x257 = true := by decide

/-! ### Witnesses: health and recovery -/

def aud0 : AudReq := ⟨0x20, 5, ⟨7, 0, false, 0⟩, 0, 0, false, 1, 1, 1, 0, 0, 0, 0, 0, 0, 0, 0, [], [], [], [], []⟩

set_option maxRecDepth 8000 in
theorem wit_AuditAndHealth : Awake up ∧ up.health.st = .healthy ∧ up.health.auditQ = [] ∧
    256 ≤ (List.replicate 256 aud0).length ∧ berthIdle 0 up = true ∧ berthIdle 0 sRun = false ∧ findCapture 5 up = none ∧
    (let k : Capture := { tag := 5, q := aud0, auditor := 0x20 }
     findCapture 5 { up with health := { captures := [k] } } = some k ∧ k.a1 = none ∧ k.q.digest ≠ 1) ∧
    Reaches req Pg.health up ∧ (1 : W32).getLsbD 15 = false ∧
    (∀ d, d < 16 → (dom d up).st ≠ .opened ∧ (dom d up).st ≠ .done ∧ (dom d up).st ≠ .recalling) ∧
    ({ capPending := true } : Health).capPending = true :=
  ⟨by decide, by decide, by decide, by decide, by decide, by decide, by decide, by decide, reaches _ (by decide), by decide,
    by decide, by decide⟩

theorem wit_AuditAndHealth_match : ∃ q : AudReq, (recompute q 0 up).1 = q.digest :=
  ⟨{ aud0 with digest := (recompute aud0 0 up).1 }, rfl⟩

theorem wit_RecoveryMessages : Awake up ∧ isRuler 0 0x2000 up = false ∧
    (let s := { up with survive := { doms := [(0, { en := true, rl := 0x1000 })] } }
     isRuler 0 0x2000 s = true ∧ (0x2000 : W16) ∉ (newestLost 0 s).1 ∧ (newestLost 0 s).1.length < 8 ∧
     (surv 0 s).suspects = [] ∧ (surv 0 s).received = none ∧ (surv 0 s).staged = none) ∧
    (dom 0 sOpen).en = true ∧ (1 : W32).toNat ≤ ({ epoch := 1 } : Member).epoch.toNat ∧
    (member 0 sOpen).epoch.toNat < (1 : W32).toNat ∧ sOpen.tick.num.toNat < (101 : W64).toNat ∧
    (let x : Domain := { openDom with st := .recalling }
     x.st = .recalling ∧ x.en = true ∧ x.resumeAt = none ∧ x.waitExt = [] ∧ x.waitPos = [] ∧ x.st ≠ .opened ∧ x.st ≠ .done ∧
     ({ x with abortDone := true } : Domain).abortDone = true) ∧
    Reaches req Pg.survive up ∧ (surv 0 up).rstate ≠ .fallback ∧ (surv 0 up).en = false :=
  ⟨by decide, by decide, by decide, by decide, by decide, by decide, by decide, by decide, reaches _ (by decide), by decide⟩

/-- Parity group 0 of domain 0: P and Q here, one extent each, Q's in extent 6. -/
def sPg : State :=
  withObj 4 ([1, 0, 0, 0, 0, 0, 0, 0] ++ List.replicate 16 0xFF ++ [0, 0x10, 0, 0x10, 0xFF, 0xFF, 1, 0] ++ List.replicate 36 0 ++
      [6, 0, 0, 0])
    (withObj 6 [] { up with survive := { doms := [(0, { en := true, pgObj := 4, rl := 0x1000, planObj := 5, unacked := [(7, 6)],
                                                        newer := some ⟨1, []⟩ })]
                                         wards := [⟨6, 8, 0, 0, false⟩] } })

set_option maxRecDepth 8000 in
theorem wit_ParityAndCheckpoints : Awake sPg ∧ Reaches req Pg.survive sPg ∧
    (let g := pgEntry 0 0 sPg
     (surv 0 sPg).en = true ∧ 0 < pgCount 0 sPg ∧ g.dev.getD 8 0 = sPg.route.addr.toNat ∧ g.dev.getD 9 0 = sPg.route.addr.toNat ∧
     g.ext.getD 9 0 ≤ 6 ∧ 6 < g.ext.getD 9 0 + g.next ∧ ownPositions 0 0 sPg ≠ [] ∧ sPg.survive.jobs = [] ∧ sPg.reqs = []) ∧
    ((ext 6 sPg).kind = .object ∧ (ext 6 sPg).st = .idle ∧ (ext 7 sPg).kind ≠ .object) ∧
    (let j : PqJob := { what := .encode, dom := 0, group := 0, pos := 9, j := 0, dst := 6, srcs := [], ready := true }
     j.ready = true ∧ ({ st := .encoding } : PGroup).st = .encoding ∧ retained (ext 6 sPg).phys.toNat sPg = false ∧ (pgEntry 0 0 sPg).ext.getD 9 0 + j.j = 6 ∧ (pgEntry 0 0 sPg).next ≤ j.j + 1) ∧
    (isWard 6 sPg = true ∧ sPg.survive.wards.find? (fun w => w.ext == 6) = some ⟨6, 8, 0, 0, false⟩) ∧
    ((surv 0 sPg).unacked = [(7, 6)] ∧ buddyOf 0 7 sPg = 0 ∧ (∀ i, i < 16 → i ≠ 0 → (surv i sPg).unacked = []) ∧
      (surv 0 sPg).newer = some ⟨1, []⟩ ∧ (∀ i, i < 16 → (surv i up).unacked = [])) :=
  ⟨by decide, ⟨by decide, .inl (by decide)⟩, by decide⟩

set_option maxRecDepth 8000 in
theorem wit_ParityAndCheckpoints_done :
    (let s := withObj 5 ([1, 0, 0, 0, 0, 0, 0, 0] ++ [0, 0x20] ++ List.replicate 30 0) sPg
     ∃ e ∈ lossEntries 0 s, w16 e.dev ∉ (surv 0 s).lost ∧ (w16 e.dev, (1 : W64)) ∉ (surv 0 s).done ∧ w16 e.dev ≠ 0x3000) := by
  exact ⟨_, List.mem_cons_self, by decide⟩

/-! ### Witnesses: the house -/

theorem wit_InterruptSources : Reaches req Pg.irq0 up ∧ Reaches req Pg.irq1 up ∧ srcReal 0x2BF = true ∧ srcReal 0x2C0 = false ∧
    (let e := irqSrc 0 up
     (0x303 : W32).toNat / 256 % 4 = 3 ∧ (0x203 : W32).toNat / 256 % 4 ≠ 3 ∧ e.st = .inactive) ∧
    irqTop 0 up = none ∧
    (let s := { up with irq := { src := [(7, { st := .pending, priority := 1 })], since := 100, evtDev := 0x3000 } }
     irqTop 0 s = some 7 ∧ s.irq.judged = false ∧ remindDue s = true ∧ s.irq.evtDev ≠ 0xFFFF) ∧ remindDue up = false ∧
    (let s := { up with irq := { src := [(7, { st := .active })] } }
     srcReal 7 = true ∧ (irqSrc 7 s).st = .active ∧ (irqSrc 7 s).target.toNat = 0) :=
  ⟨reaches _ (by decide), reaches _ (by decide), by decide⟩

theorem wit_LedgerAndLocks :
    (resReal 0x27 = true ∧ resReal 0x28 = false ∧ resReal 0x7F = true ∧ (ledgerEntry 0x10 up).owner = none ∧
      (ledgerEntry 0 up).owner = some 0xFF ∧ inUse 0 up = false ∧ inUse 0x10 up = false) ∧
    inUse 0x10 { up with timers := [(0, { arm := true })] } = true ∧
    pageExists 0x270 = false ∧ pageExists 0x200 = true ∧ Reaches req 0x200 up ∧ (hdr 0x200 up).lock ≠ 2 ∧
    (1 : W32).toNat % 4 < 2 ∧ (2 : W32).toNat % 4 = 2 :=
  ⟨by decide, by decide, by decide, by decide, reaches _ (by decide), by decide⟩

theorem wit_BoardAndSmbus : up.startUp.phase ≠ .reset ∧ inVaux (.probe 0 0) = false ∧ up.board.needReset = false ∧ up.board.thermtripLow = false ∧
    up.hm.busy = none ∧ up.board.vaux = true ∧ ({ phase := .reset } : StartUp).phase = .reset ∧ up.power.throttle = false ∧
    1 ≤ ({ prochotLows := 1 } : Power).prochotLows ∧ 1 ≤ ({ pwrbrkLows := 1 } : Power).pwrbrkLows ∧ up.power.pwrbrk = false ∧
    800 ≤ up.dies.clockMhz ∧ railOk 0 ⟨6000, 1⟩ = true ∧ railOk 0 ⟨6301, 1⟩ = false ∧ smbOn up = true ∧
    up.power.half = none ∧ hottest (setTemps [0, 0, 0, 0, 0, 1839] up) < 1840 ∧ 1840 ≤ hottest (setTemps [0, 0, 0, 0, 0, 1840] up) ∧
    pecOk 0x31 5 none up = true ∧ pecOk 0x31 5 (some (smbPec [0, 0x31, 5, 0] ^^^ 1)) up = false ∧ hmRuns up = false ∧ hmRuns { up with hm := { stage := 4 } } = true ∧
    smbOn { up with board := { vaux := false } } = false := by decide +kernel

theorem wit_HarbourmasterAndStartUp : Reaches req Pg.hmaster up ∧ req7.client ≠ 0xFF ∧ up.hm.busy = none ∧
    maskBad .unlockOwner up = true ∧ maskBad .unlockOwner { up with hm := { arg2 := 1 } } = false ∧ maskBad .attest up = false ∧
    (let h : Hm := { stage := 4, wait := 1, scopes := 8, busy := some ⟨.unlockOwner, 0, 1, []⟩ }
     h.busy ≠ none ∧ h.stage = 4 ∧ h.wait ≠ 0 ∧ h.scopes.getLsbD 3 = true) ∧
    State.reset.startUp.phase = .boot ∧ State.reset.hm.stage.toNat < 4 ∧ up.board.vaux = true ∧ up.startUp.phase ≠ .firmware ∧ linksDone up = false ∧ linksDone sHost = true ∧
    ({ phase := .training } : StartUp).phase = .training ∧ ({ phase := .firmware } : StartUp).phase = .firmware ∧
    ({ phase := .selftest } : StartUp).phase = .selftest ∧ (1 : BitVec 4) ≠ 0 :=
  ⟨reaches _ (by decide), by decide⟩

/-! ### One step each, the expected values from the rules named -/

def regs (a b : W64) : State := withBerth { runs with scal := [(1, a), (2, b)] }
def scalar3 (o : Outcome) : Option W64 :=
  match o with
  | .next t => some (sreg (berth 0 t) 3)
  | _ => none

/-- R142: 64-bit arithmetic wraps. -/
theorem test_add_wraps : scalar3 (exec (.add 0 0 3 1 2) (regs 0xFFFFFFFFFFFFFFFF 2)) = some 1 := by decide
theorem test_sub_borrows : scalar3 (exec (.sub 0 0 3 1 2) (regs 1 2)) = some 0xFFFFFFFFFFFFFFFF := by decide
theorem test_shl_uses_six_bits : scalar3 (exec (.shl 0 0 3 1 2) (regs 1 65)) = some 2 := by decide
theorem test_sar_keeps_the_sign : scalar3 (exec (.sar 0 0 3 1 2) (regs 0x8000000000000000 63)) = some 0xFFFFFFFFFFFFFFFF := by
  decide
theorem test_mulhu : scalar3 (exec (.mulhu 0 0 3 1 2) (regs 0x8000000000000000 6)) = some 3 := by decide
theorem test_maxu_is_unsigned : scalar3 (exec (.maxu 0 0 3 1 2) (regs 0xFFFFFFFFFFFFFFFF 2)) = some 0xFFFFFFFFFFFFFFFF := by
  decide
theorem test_addi_extends_the_sign : scalar3 (exec (.addi 0 0 3 1 0xFFFFFFFF) (regs 5 0)) = some 4 := by decide
theorem test_lih : scalar3 (exec (.lih 0 0 3 1 7) (regs 0x1122334455667788 0)) = some 0x0000000755667788 := by decide
/-- R129: s0 reads 0 and discards writes. -/
theorem test_s0 : after (exec (.addi 0 0 0 1 1) (regs 5 0)) (fun t => sreg (berth 0 t) 0 == 0 && (berth 0 t).pc == 6) = true := by
  decide
/-- The pilot instruction table: JRL with rd = rs1 jumps to the old value. -/
theorem test_jrl_old_target : after (exec (.jrl 0 0 1 1) (regs 40 0)) (fun t =>
    (berth 0 t).pc == 40 && sreg (berth 0 t) 1 == 6) = true := by decide
theorem test_cmp_lt_is_signed : after (exec (.cmpLt 0 0 2 1 2) (regs 0xFFFFFFFFFFFFFFFF 1)) (fun t => preg (berth 0 t) 2) = true := by
  decide
theorem test_pandn : after (exec (.pandn 0 0 2 0 1) (regs 0 0)) (fun t => preg (berth 0 t) 2) = true := by decide
/-- R4, R132: bytes lie least significant first. -/
theorem test_st : after (exec (.st 0 0 1 2 1 0) (regs 0x1234 0x40)) (fun t =>
    t.mem.byteAt 0x40 == 0x34 && t.mem.byteAt 0x41 == 0x12 && t.mem.byteAt 0x42 == 0) = true := by decide
theorem test_lds : after (exec (.lds 0 0 3 2 0 0 .clean) { regs 0 0x40 with mem := ({} : Mem).setByte 0x40 0x80 }) (fun t =>
    sreg (berth 0 t) 3 == 0xFFFFFFFFFFFFFF80) = true := by decide
/-- R395: the higher PRIORITY, the lower number among equals. -/
theorem test_irq_top : irqTop 0 { up with irq := { src := [(3, { st := .pending, priority := 2 }), (5, { st := .pending, priority := 9 }),
    (6, { st := .pending, priority := 9 })] } } = some 5 := by decide
theorem test_irq_claim : after (exec (.irqClaim req 0) { up with irq := { src := [(5, { st := .pending, priority := 9 })] } }) (fun t =>
    (irqSrc 5 t).st == .active && t.outbox.length == 1) = true := by decide
/-- R416: a second client's claim is denied and changes no resource. -/
theorem test_lg_claim_denied : after (exec (.lgClaim req7 0 4) up) (fun t =>
    t.ledger.last == 0xE1040700 && (ledgerEntry 0 t).owner == some 0xFF) = true := by decide
theorem test_lg_claim : after (exec (.lgClaim req7 0x18 0) up) (fun t =>
    (ledgerEntry 0x18 t).owner == some 7 && t.ledger.last == 0x00000718) = true := by decide
/-- R297: a data flit whose CRC fails is answered with a NAK of the last flit that passed. -/
theorem test_flit_crc_fail : after (exec (.flitData 0 (List.replicate 128 0))
    { up with ports := [(0, { st := .active, rxNext := 4 })] }) (fun t =>
    (port 0 t).flitErr == 1 && t.outbox == [.link 0 (.nak 3)]) = true := by decide +kernel
/-- R420, R421: the peak takes the current temperature. -/
theorem test_peak : after (exec (.cdTempPeakWrite req 0x204 0) { up with dies := {
    temp := #v[0, 0, 0, 0, 80, 0], peak := #v[0, 0, 0, 0, 99, 0] } }) (fun t => t.dies.peak[4] == 80) = true := by decide
/-- R463: SMB_RESET_CAUSE reads and clears. -/
theorem test_smb_reset_cause : after (exec .smbResetCause { up with board := { resetCause := 0xD002 } }) (fun t =>
    t.board.resetCause == 0 && t.outbox == [.smb [0x02, 0xD0] 0xD3]) = true := by decide +kernel
/-- R500: a write from outside any frame, and its acknowledgement. -/
theorem test_mem_put : after (exec (.memPut ⟨0x20, 5, true, ⟨0, 0, true, 0⟩, 0x100, none⟩ [1, 2]) up) (fun t =>
    t.mem.byteAt 0x101 == 2 && t.outbox.length == 1) = true := by decide
set_option maxRecDepth 8000 in
/-- R30: a base tick advances the tick number of a locked device. -/
theorem test_base_tick : after (exec (.baseTick ⟨0x8000, false, true, []⟩) up) (fun t =>
    t.tick.num == 101 && (gpio 15 t).input && t.board.pwrbrkLow) = true := by decide
theorem test_step_takes_the_front : after (step { up with pending := [.vauxValid, .idcode] }) (fun t => t.pending == [.idcode]) = true := by decide +kernel


/-- The first round constant of SHA-256, the root of 2 that chapter 18 names. -/
theorem test_sha_round_constant : rootFraction 3 2 = 0x428A2F98 := by decide +kernel
/-- R463: the check value of the CRC-8 of SMBus, that of "123456789". -/
theorem test_smb_pec : smbPec [0x31, 0x32, 0x33, 0x34, 0x35, 0x36, 0x37, 0x38, 0x39] = 0xF4 := by decide +kernel
/-- R478, R466: 115 °C trips the device. -/
theorem test_thermtrip : after (exec (.thermalSensorRead [0, 0, 0, 1840, 0, 0]) up) (fun t =>
    t.startUp.phase == .reset && t.board.thermtripLow && t.board.resetCause == 0xD003) = true := by decide +kernel
/-- R416: the rows of FORCE_RELEASE, in order. -/
theorem test_force_release : after (exec (.lgForceRelease req7 0x18 0) up) (fun t => t.ledger.last == 0xE1010718) = true := by
  decide +kernel

/-! ### Witnesses of single clauses, at boundary values -/

theorem wit_SystemWords_counts : Issues 0 0 [] sRun ∧ Issues 0 0 [1] sRun ∧ (0 : BitVec 8).toNat = 0 ∧ 128 < (129 : BitVec 8).toNat ∧
    128 < (sreg (berth 0 (regs 0x8100 0)) 1).toNat / 256 % 256 := ⟨wit_issues _, wit_issues _, by decide⟩

/-- Extent 2 of berth 0's slice belongs to object 2, which domain 0 writes; physical extent 9 is free. -/
def sOwn : State :=
  let s := withObj 2 [] { sOpen with berths := [(0, { runs with scal := [(1, 0x77), (3, 0x200100)] })] }
  { s with mem := { s.mem with objs := [(2, { valid := true, extCount := 1 })], sramFree := [9] } }
/-- The same with a fresh version in extent 9. -/
def sFresh : State := setExt 2 { ext 2 sOwn with st := .fresh, freshPhys := 9 } sOwn

theorem wit_PilotStores_object : Issues 0 0 [1, 3] sOwn ∧ Issues 0 0 [1, 3] sFresh ∧
    (let o := 0x200100
     (ext 2 sOwn).kind = .object ∧ writeHeld (berth 0 sOwn) (berth 0 sOwn).seq o 8 = false ∧ berthDom 0 sOwn = some 0 ∧
     mayWrite 0 2 sOwn = true ∧ ctlCode 0 2 0x100 8 sOwn = none ∧ (ext 2 sOwn).st = .idle ∧
     (dom 0 sOwn).freshUsed.toNat < (dom 0 sOwn).freshLimit.toNat ∧ sliceFree 0 sOwn ≠ [] ∧
     (ext 2 sFresh).st = .fresh ∧ (ext 2 sFresh).freshFd.toNat = 0 ∧ cowOn 2 sFresh = false) ∧
    (let s := { sOwn with mem := { sOwn.mem with objs := [(2, { valid := true, extCount := 1, writer := 1 })] } }
     mayWrite 0 2 s = false ∧ (dom 0 s).st = .opened) :=
  ⟨⟨by decide, by decide, by decide, by decide, fun r _ _ => (show pendingScal (berth 0 sOwn) = [] by decide) ▸ List.not_mem_nil⟩,
   ⟨by decide, by decide, by decide, by decide, fun r _ _ => (show pendingScal (berth 0 sFresh) = [] by decide) ▸ List.not_mem_nil⟩,
   by decide⟩

/-- The reduction of `sRed` with its berth 0 about to post the value in s1. -/
def sPost (v : W64) : State :=
  { sRed { red := 0 } with berths := [(0, { runs with scal := [(1, v), (3, 0x0FFFF7E8)] })] }

theorem wit_PilotStores_post :
    (let o := (sreg (berth 0 (sPost 2)) 3).toNat
     o = 0x0FFFF7E8 ∧ writeHeld (berth 0 (sPost 2)) (berth 0 (sPost 2)).seq o 8 = false ∧ (ext (o / 2 ^ 20) (sPost 2)).kind = .scratch ∧
     (redCtx 0 (sPost 2)).en = true ∧ berthDom 0 (sPost 2) = some 0 ∧ tget (redCtx 0 (sPost 2)).counts 0 0 = 1 ∧
     nred (redCtx 0 (sPost 2)).tableObj.toNat (sPost 2) = 1 ∧ nred 3 (sPost 2) < 2) ∧
    (let s := { sPost 1 with redctx := [(0, { redCtx 0 (sPost 1) with counts := [] })] }
     tget (redCtx 0 s).counts 0 0 < 1 ∧ (1 : Nat) ≤ nred (redCtx 0 s).tableObj.toNat s) ∧
    2 ^ 62 ≤ (0x4000000000000000 : W64).toNat := by decide

theorem wit_GroupsOpenAndClose_round :
    (let q : QEnt := { seq := 3, w := .accOpen 7 true true 1 2, a := 5, b := 0x1FFFFFFFF }
     let be : Berth := { mxq := [q], groups := [(7, { bank := { cells := [(0, 1), (2, 0x80), (3, 0x3F)] } })] }
     mxCode 0 q (withBerth be) = none ∧ mxReady be q = true) := by decide

def qMmaG : QEnt := { seq := 3, w := .mmaG 0 ⟨0, 1, 1, 1, 4⟩ 2 1 }
def qMmaF : QEnt := { seq := 3, w := .mmaF 0 ⟨0, 1, 1, 1, 4⟩ ⟨2, 3, 1, 1, 1⟩ 1 }
def two (w : Bool) : Tbl Group := [(0, { opened := true }), (1, { opened := true, w16 := w })]

theorem wit_ProductsTouchOnlyTheirGroup_forms :
    mxCode 0 qMmaG (withBerth { mxq := [qMmaG], groups := two false }) = none ∧
    mxReady { mxq := [qMmaG], groups := two false } qMmaG = true ∧
    mxCode 0 qMmaF (withBerth { mxq := [qMmaF], groups := two false }) = none ∧
    mxReady { mxq := [qMmaF], groups := two false } qMmaF = true ∧
    (mmShapeBad qMmaG.w = false ∧ (∀ p ∈ mmPairs qMmaG.w, pairRateOf p ≠ .bad) ∧
      openBefore { mxq := [qMmaG], groups := two true } 3 0 = true ∧ openBefore { mxq := [qMmaG], groups := two true } 3 1 = true) ∧
    (∃ p : MmPair, pairRateOf p = .f8) ∧ ∃ p : MmPair, pairRateOf p = .f4 :=
  ⟨by decide, by decide, by decide, by decide, by decide, ⟨⟨0, 1, 4, 4, 4⟩, by decide⟩, ⟨⟨0, 1, 9, 9, 4⟩, by decide⟩⟩

/-- A block of 32 products of 1 with 1: its leading exponent is 0. -/
theorem wit_ProductsTouchOnlyTheirGroup_block :
    let es : List ((Bool × Nat × Int) × (Bool × Nat × Int)) := List.replicate 32 ((false, 1, 0), (false, 1, 0))
    es.length = 32 ∧ (∃ e ∈ es, e.1.2.1 * e.2.2.1 ≠ 0 ∧ e.1.2.2 + e.2.2.2 + ((e.1.2.1 * e.2.2.1).log2 : Int) = 0) ∧
    (∀ e ∈ es, e.1.2.1 * e.2.2.1 ≠ 0 → e.1.2.2 + e.2.2.2 + ((e.1.2.1 * e.2.2.1).log2 : Int) ≤ 0) ∧ (254 : Nat) < 255 := by decide

theorem wit_PilotLoads_positions : lostPosAt 0 (ownDev sRun) [0] sRun = none ∧ frameDom 0 sOpen = some 0 ∧
    lostPosAt 0 (ownDev sOpen) [0] sOpen = none ∧ ({ ent := linear } : Running).sentData = none := by decide

theorem wit_ChannelMessages_dropped :
    entryNames 0 3 true 0x2000 9 sOpen = false ∧ (3 : BitVec 8) ∉ (berth 0 sOpen).checked ∧
    (1 : W32) ≠ (member 0 sOpen).epoch ∧ Awake sOpen := by decide

/-- A MEM_PUT of frame 7 of domain 0 to extent 2. -/
def framePut : MemReq := ⟨0x20, 5, true, frameTag, 0x200100, none⟩

theorem wit_CopiesComplete_waits :
    (let w : PutWait := ⟨framePut, [2]⟩
     let s := { sFresh with mem := { sFresh.mem with cow := [⟨2, [⟨0x100, [1, 2]⟩]⟩], putWaits := [w] } }
     Awake s ∧ s.mem.cow.find? (fun c => c.ext == 2) = some ⟨2, [⟨0x100, [1, 2]⟩]⟩ ∧ isOpen (ext 2 s).freshFd.toNat s = true) := by
  decide

theorem wit_OutsideMemoryRequests_forms :
    (requestCode 0xFFFFE 4 up = none ∧ (∀ p ∈ piecesOf 0xFFFFE 4, retained (ext p.1 up).phys.toNat up = false) ∧
      ((piecesOf 0xFFFFE 4).map (fun p => (ext p.1 up).phys)).Nodup ∧ (piecesOf 0xFFFFE 4).length = 2) ∧
    (framePut.frame.noFrame = false ∧ tagLive framePut.frame sFresh = true ∧ requestCode 0x200100 2 sFresh = none ∧
      (∀ p ∈ piecesOf 0x200100 2, (ext p.1 sFresh).st ≠ .moved) ∧ (extOf 0x200100).2 + 2 ≤ 2 ^ 20 ∧ peerLast 0x200100 2 = false ∧
      (ext (extOf 0x200100).1 sFresh).kind = .object ∧ (ext (extOf 0x200100).1 sFresh).st = .fresh ∧
      (ext (extOf 0x200100).1 sFresh).freshFd.toNat = 0 ∧ cowOn (extOf 0x200100).1 sFresh = false ∧ mayWrite 0 2 sFresh = true ∧
      ctlCode 0 2 0x100 2 sFresh = none ∧ (ext (extOf 0x100).1 sFresh).kind = .scratch ∧ peerLast 0x100 2 = false) ∧
    tagLive frameTag up = false ∧ (0xFFFFFFFFF : Nat) < 2 ^ 36 ∧
    (let s := { up with mem := { up.mem with lpx := (List.range 24).map (fun m => (m, { trained := true })) } }
     requestCode 0x020000000000 2 (setExt 65536 { kind := .object, phys := 65536 } s) = none) := by decide

theorem wit_LinkFlits_naks :
    (let f := flitFields (flit 1 0xF2065FDD)
     let x : Port := { st := .active }
     f.seq = x.rxNext ∧ f.shared = false ∧ x.farCredits[f.cls.toNat] = 0) ∧
    (let x : Port := { st := .active, unacked := [{ cls := 2, sends := 3 }] }
     (∃ g ∈ x.unacked, g.sends = 3) ∧ ∀ g ∈ x.unacked, g.sends < 7) ∧
    (let x : Port := { st := .active, unacked := [{ cls := 2, sends := 7 }] }
     ∃ g ∈ x.unacked, 7 ≤ g.sends) := by decide +kernel

/-- A CTRL flit that carries a NAK: NAK is bit 22 of the acknowledgement's word. -/
theorem wit_LinkFlits_nak_flit : ∃ a : AckFields, a.nak = true ∧ a.resv = 0 ∧ a.pool.toNat < 9 := by
  exact ⟨{ (flitFields (flit 2 0)).ack with nak := true }, by decide +kernel⟩

/-! BASE_TICK, rank by rank -/

theorem wit_BaseTickCounts_charge :
    (let s := { sOpen with serve := [(0, { mask := 3, client := 7 })] }
     (serveOf 0 s).client ≠ 0xFF ∧ ∀ e, e < 16 → ((dom e s).en = true ↔ e = 0)) ∧
    ({ up.board with vaux := false } : Board).vaux = false := by decide

theorem wit_BaseTickCounts_rank3 :
    (let s := { up with members := { groups := [(0, { actPending := true, act := 100, nextMap := 3 })] } }
     (member 0 s).actPending = true ∧ (member 0 s).act = s.tick.num ∧ (surv 0 s).staged = none ∧ (surv 0 s).received = none ∧
     mapOk 0 (member 0 s).nextMap.toNat s = false) ∧
    (let s := { up with route := { up.route with switchAt := 100, switchWaits := true } }
     s.route.switchWaits = true ∧ s.route.switchAt = s.tick.num) := by decide

/-- Domain 0 ends its run at this tick with object 2 FRESH. -/
def sEnd : State := { sFresh with domains := [(0, { openDom with ending := 100 })] }

theorem wit_BaseTickCounts_rank4 : 0 ∈ endsNow sEnd ∧ 1 ∉ endsNow sEnd ∧ (∀ e, e < 16 → (surv e sEnd).safeAt = none ∧ (surv e sEnd).en = false) ∧
    (∀ e, e < 16 → finalOutcome e sEnd = (false, false)) ∧ (sEnd.mem.exts.map (·.1)).Nodup ∧ (ext 2 sEnd).st = .fresh ∧
    (ext 2 sEnd).freshFd.toNat = 0 ∧ sEnd.mem.old = [] := by decide

theorem wit_BaseTickCounts_rank5 :
    (let r : Staged := ⟨false, 2, 0⟩
     let s := { sOwn with mem := { sOwn.mem with staged := [r] } }
     s.mem.staged.filter isRelease = [r] ∧ (obj r.index s).valid = true ∧ objReserved r.data = false ∧ busyMember r.index s = false ∧
     (∀ k, (ext k s).kind = .object → (ext k s).obj.toNat = r.index → (ext k s).st ≠ .fresh ∧ (ext k s).pin = false) ∧
     (s.mem.exts.map (·.1)).Nodup) := by
  refine ⟨by decide, by decide, by decide, by decide, fun k h _ => ?_, by decide⟩
  by_cases e : 2 = k
  · subst e; decide
  · exfalso
    revert h
    simp only [ext, sOwn, withObj, sOpen, withDom, up, State.reset, Mem.setBytes, tput, tget, if_neg e, extDefault]
    split <;> simp

theorem wit_BaseTickCounts_rank6 :
    (let x : Switch := ⟨0, false, 5, 100, 1⟩
     let s := { up with weights := { switches := [x], slots := [(slotKey 0 false, { st := .ready, gen := 5 }), (slotKey 0 true, { st := .current })] } }
     s.weights.switches = [x] ∧ x.tick = s.tick.num.toNat ∧ (wsSlot (slotKey 0 false) s).st = .ready ∧
     (wsSlot (slotKey 0 false) s).gen = x.gen ∧ (wsSlot (slotKey 0 true) s).st = .current) ∧
    (wsSlot (slotKey 0 false) up).st ≠ .ready ∧ (wsSlot (slotKey 0 false) up).st ≠ .current := by decide

theorem wit_BaseTickCounts_rank7 :
    (let e := obj 2 sOwn
     let r : Staged := ⟨false, 2, objWord { e with writer := 0x10 }⟩
     let s := { sOwn with mem := { sOwn.mem with staged := [r] } }
     (obj 2 s).valid = true ∧ (0x10 : BitVec 5).toNat ≤ 0x10 ∧ e.sclass ≠ 1 ∧ (∀ k ∈ extsOf 2 s, (ext k s).st ≠ .fresh) ∧
     busyMember 2 s = false) := by decide

/-- Object 2 has no writer; extent 65536 is a POOL extent of the LPDDR5X. -/
def sMove (rs : List MoveReq) (ms : List Move) : State :=
  { sOwn with mem := { sOwn.mem with objs := [(2, { valid := true, extCount := 1, writer := 0x10 })], moveReqs := rs, moves := ms } }

theorem wit_BaseTickCounts_ranks8and9 :
    (let s := setExt 2 { ext 2 sOwn with st := .evicting } (sMove [] [⟨.evict, 2, 65536, 70000, 1, false, true, false⟩])
     s.mem.moveReqs = [] ∧ (ext 2 s).st = .evicting ∧ (2 : Nat) ≠ 65536) ∧
    (let s := sMove [⟨.evict, 2, 65536, 1⟩] []
     moveBadCode false 2 65536 s = none ∧ (ext 2 s).st = .idle ∧ (ext 2 s).pin = false ∧ (takePhys 65536 s).isSome = true ∧ 2 ≤ lastExt) ∧
    (let s := sMove [⟨.promote, 65536, 3, 1⟩] []
     let s := setExt 3 { kind := .pool } (setExt 65536 { ext 2 s with phys := 70000 } s)
     moveBadCode true 65536 3 s = none ∧ (ext 65536 s).st = .idle ∧ (ext 65536 s).pin = false ∧ (takePhys 3 s).isSome = true) := by
  decide

theorem wit_BaseTickCounts_rank11 :
    (let s := { up with irq := { src := [(0x2A0, { priority := 3 })], evtDev := 0x3000 }, pages := [(Pg.frame, { errStatus := 3, eventStatus := 1, eventEnable := 1 })] }
     (s.irq.src.map (·.1)).Nodup ∧ (irqSrc 0x2A0 s).settle.st ≠ .pending ∧ s.irq.evtDev ≠ 0xFFFF) ∧
    (7 : BitVec 8) ∈ ({ clear := [7] } : Acct).clear := by decide

/-- Domain 0 holds berth 0, and its first run opens at tick 101. -/
def sDue : State := { withDom { en := true, st := .armed, start := 101, len := 10 } with berths := [(0, runs)], serve := [(0, { mask := 1 })] }

theorem wit_BerthAtOpening :
    (let p := ranks3to6 (edgeStart ⟨0, false, false, []⟩ sDue)
     let u := beforeOpenings p.1 p.2
     runDue (dom 0 u) (now u) = true ∧ (dom 0 u).offReq = false ∧ (dom 0 u).holdReq = false ∧ (dom 0 u).marks = [] ∧
     holdsBerth 0 0 u = true ∧ (∀ e, e < 16 → e ≠ 0 → holdsBerth e 0 u = false) ∧
     after (exec (.baseTick ⟨0, false, false, []⟩) sDue) (fun t => isOpen 0 t && (berth 0 t).pl == .run) = true) := by decide +kernel

theorem wit_RegisterAccess_writes :
    (let a : BitVec 48 := 0x7F0000250058
     noPage a = false ∧ a.toNat % 4 = 0 ∧ a.toNat / 4096 % 4096 = 0x250 ∧ a.toNat % 4096 = 0x058 ∧ ownerClient 0x250 up = 0xFF) ∧
    (let a : BitVec 48 := 0x7F0000253118
     noPage a = false ∧ a.toNat / 4096 % 4096 = 0x253 ∧ a.toNat % 4096 = 0x118 + 0x20 * 0) ∧
    rwlAt 0x250 0x058 7 up = false := by decide

theorem wit_RoutingAndHost_full : hostUp sHost = true ∧ msgBad { rawMsg with resv := 1 } = true ∧
    1024 ≤ (List.replicate 1024 ((0 : BitVec 14), (0 : BitVec 14))).length ∧ sHost.hostbr.owed = [] := by decide +kernel

theorem wit_RecoveryMessages_restart :
    (let s := { up with survive := { doms := [(0, { rstate := .fallback, lastSafe := some 4, lost := [0x20] })] } }
     Reaches req Pg.survive s ∧ (surv 0 s).rstate = .fallback) := ⟨⟨by decide, by decide⟩, by decide⟩

/-- With every scope open each vendor instruction acts, whatever scope it belongs to. -/
theorem wit_HarbourmasterAndStartUp_debug (c : Nat) : vendorOpen c { up with hm := { scopes := 0xF } } = true := by
  have h : ∀ n, n < 4 → (0xF : BitVec 4).getLsbD n = true := by decide
  exact h _ (Nat.mod_lt _ (by decide))
end Sys2Proof.Tests
end

section
/-! What a write of FD_CFG does to a frame domain that is not enabled (R34, R490). -/

namespace Sys2Proof.Machine
open Sys2Proof

/-! ### Register writes that reach the FRAME page -/

theorem lockRefuses_eq_false_of_unlocked {r : Req} {page : Nat} {s : State} (h : Unlocked r page s) :
    lockRefuses r page s = false := by
  unfold lockRefuses
  rcases h with hOpen | hHm | ⟨hLock, hHouse⟩
  · simp [hOpen]
  · split <;> simp [hHm]
  · simp [hLock, hHouse]

theorem exec_fdCfgWrite_of_awake {r : Req} {d : DomIdx} {v : W32} {s : State} (h : Awake s) :
    exec (.fdCfgWrite r d v) s =
      .next (regWrite r (frameBlk d) (rwlFrame (fdOff d 0) v s) (putFdCfg d.toNat v s) s) :=
  awake_run _ (by simpa [inReset] using h)

theorem exec_fdCfgWrite_of_ok {r : Req} {d : DomIdx} {v : W32} {s t : State} (hr : Reaches r Pg.frame s)
    (hu : Unlocked r Pg.frame s) (hp : putFdCfg d.toNat v s = .ok t) :
    exec (.fdCfgWrite r d v) s = .next (answerReq r 0 0 t) := by
  rw [exec_fdCfgWrite_of_awake hr.awake, hp, regWrite_ok hr (.inr hu)]

theorem exec_fdCfgWrite_of_error {r : Req} {d : DomIdx} {v : W32} {s : State} {c : W16} (hr : Reaches r Pg.frame s)
    (hu : Unlocked r Pg.frame s) (hp : putFdCfg d.toNat v s = .error c) :
    exec (.fdCfgWrite r d v) s = .next (answerReq r c 0 (refuse (Blk.fd d.toNat) c s)) := by
  rw [exec_fdCfgWrite_of_awake hr.awake, hp, regWrite_error hr (.inr (lockRefuses_eq_false_of_unlocked hu))]
  rfl

/-! ### The fields of FD_CFG -/

/-- GUARD of FD_CFG, bits 27 to 16. -/
theorem guardField_toNat (v : W32) : (v.extractLsb' 16 12).toNat = v.toNat / 65536 % 4096 := by
  simp [BitVec.extractLsb'_toNat, Nat.shiftRight_eq_div_pow]

/-- LEN of FD_CFG, bits 15 to 0. -/
theorem lenField_toNat (v : W32) : (v.extractLsb' 0 16).toNat = v.toNat % 65536 := by
  simp [BitVec.extractLsb'_toNat]

theorem guardField_eq (v : W32) : v.extractLsb' 16 12 = BitVec.ofNat 12 (v.toNat / 65536 % 4096) := by
  rw [← guardField_toNat, BitVec.ofNat_toNat, BitVec.setWidth_eq]

theorem lenField_eq (v : W32) : v.extractLsb' 0 16 = BitVec.ofNat 16 (v.toNat % 65536) := by
  rw [← lenField_toNat, BitVec.ofNat_toNat, BitVec.setWidth_eq]

theorem fdBad_eq_false_iff (g n : Nat) (s : State) :
    fdBad g n s = false ↔ 20 ≤ g ∧ 0 < n ∧ g + 10 ≤ n * s.tick.periodUs.toNat * 10 := by
  simp [fdBad, and_assoc, Nat.pos_iff_ne_zero]

/-! ### The block's answer to a write, for a domain that is not enabled -/

/-- The state with guard and length of domain `d` as FD_CFG value `v` gives them. -/
def storeFdCfg (d : Nat) (v : W32) (s : State) : State :=
  setDom d { dom d s with
    guard := BitVec.ofNat 12 (v.toNat / 65536 % 4096), len := BitVec.ofNat 16 (v.toNat % 65536) } s

section
variable {d : Nat} {v : W32} {s : State}

/-- What a write of FD_CFG gives for a domain that is not enabled: the fields are checked first, then the reasons not to
enable; the lemmas after it name its branches. -/
theorem putFdCfg_of_not_enabled (hx : (dom d s).en = false) : putFdCfg d v s =
    if fdBad (v.toNat / 65536 % 4096) (v.toNat % 65536) s = true then .error Code.configRefused
    else if v.getLsbD 31 = true then (enableCode d s).elim (.ok (enableDom d (storeFdCfg d v s))) .error
    else .ok (storeFdCfg d v s) := by
  rw [← guardField_toNat, ← lenField_toNat]
  unfold putFdCfg
  simp only [hx, storeFdCfg, modDom, ← guardField_eq, ← lenField_eq, Bool.and_false, Bool.false_and, Bool.not_false,
    Bool.and_true, Bool.false_eq_true, if_false]
  cases enableCode d s <;> rfl

theorem putFdCfg_of_bad (hx : (dom d s).en = false)
    (hBad : fdBad (v.toNat / 65536 % 4096) (v.toNat % 65536) s = true) :
    putFdCfg d v s = .error Code.configRefused := by
  rw [putFdCfg_of_not_enabled hx, if_pos hBad]

theorem putFdCfg_of_enable (hx : (dom d s).en = false)
    (hGood : fdBad (v.toNat / 65536 % 4096) (v.toNat % 65536) s = false) (hEn : v.getLsbD 31 = true) :
    putFdCfg d v s = (enableCode d s).elim (.ok (enableDom d (storeFdCfg d v s))) .error := by
  rw [putFdCfg_of_not_enabled hx, if_neg (ne_true_of_eq_false hGood), if_pos hEn]

theorem putFdCfg_of_store (hx : (dom d s).en = false)
    (hGood : fdBad (v.toNat / 65536 % 4096) (v.toNat % 65536) s = false) (hEn : v.getLsbD 31 = false) :
    putFdCfg d v s = .ok (storeFdCfg d v s) := by
  rw [putFdCfg_of_not_enabled hx, if_neg (ne_true_of_eq_false hGood), if_neg (ne_true_of_eq_false hEn)]

end

theorem lpxFail_iff (s : State) : lpxFail s = true ↔ ∃ m, m < 24 ∧ (lpxDev m s).chFail ≠ 0 := by
  simp [lpxFail]

/-- R490: outside OPERATIONAL and RUNNING, or with LPX_FAIL at 1, EN = 1 is refused before any other check. -/
theorem enableCode_of_start_up {s : State} (d : Nat)
    (h : (suState s ≠ 8 ∧ suState s ≠ 9) ∨ ∃ m, m < 24 ∧ (lpxDev m s).chFail ≠ 0) :
    enableCode d s = some Code.configRefused := by
  rw [← lpxFail_iff] at h
  exact if_pos (.inr (h.elim .inl fun hFail => .inr (.inl hFail)))

theorem putFdCfg_of_start_up {d : Nat} {v : W32} {s : State} (hx : (dom d s).en = false) (hEn : v.getLsbD 31 = true)
    (h : (suState s ≠ 8 ∧ suState s ≠ 9) ∨ ∃ m, m < 24 ∧ (lpxDev m s).chFail ≠ 0) :
    putFdCfg d v s = .error Code.configRefused := by
  cases hFields : fdBad (v.toNat / 65536 % 4096) (v.toNat % 65536) s with
  | true => exact putFdCfg_of_bad hx hFields
  | false => rw [putFdCfg_of_enable hx hFields hEn, enableCode_of_start_up d h]; rfl

/-! ### Enabling: the domains after it -/

/-- A fold keeps what every one of its operations keeps. -/
theorem foldS_keeps {α β : Type} {f : α → State → State} {g : State → β} (h : ∀ a s, g (f a s) = g s) (l : List α)
    (s : State) : g (foldS l f s) = g s := by
  induction l generalizing s with
  | nil => rfl
  | cons a l ih => exact (ih (f a s)).trans (h a s)

@[simp] theorem dropRef_domains (k : BitVec 6 × Bool) (s : State) : (dropRef k s).domains = s.domains :=
  modSlot_domains ..

@[simp] theorem unlatch_domains (l : Latch) (s : State) : (unlatch l s).domains = s.domains := by
  unfold unlatch
  cases l.base <;> cases l.adapt <;> simp

@[simp] theorem serveStart_domains (d : Nat) (s : State) : (serveStart d s).domains = s.domains := by
  simp [serveStart, foldS_keeps (g := State.domains) fun (e : Nat × Latch) t => unlatch_domains e.2 t]

@[simp] theorem dom_serveStart (d e : Nat) (s : State) : dom e (serveStart d s) = dom e s := by
  simp [dom]

/-- A domain as enabling leaves it: ARMED for a fresh run of the frame number it had (log 30). -/
def Domain.enabled (x : Domain) : Domain :=
  { x with
    en := true, st := .armed, replays := 0, nextRun := .fresh, resumeAt := none, holdReq := false, offReq := false
    heldRecalled := false, holdAfterAbort := none, replayOfOver := false, marks := [], taken := [], waitExt := []
    waitPos := [], ran := false }

@[simp] theorem dom_enableDom (d : Nat) (s : State) : dom d (enableDom d s) = (dom d s).enabled :=
  (dom_serveStart ..).trans (dom_modDom ..)

theorem dom_enableDom_other {d e : Nat} (h : e ≠ d) (s : State) : dom e (enableDom d s) = dom e s :=
  (dom_serveStart ..).trans (dom_modDom_other h ..)

theorem dom_storeFdCfg (d : Nat) (v : W32) (s : State) : dom d (storeFdCfg d v s) =
    { dom d s with
      guard := BitVec.ofNat 12 (v.toNat / 65536 % 4096), len := BitVec.ofNat 16 (v.toNat % 65536) } :=
  dom_setDom ..

theorem dom_storeFdCfg_other {d e : Nat} (h : e ≠ d) (v : W32) (s : State) : dom e (storeFdCfg d v s) = dom e s :=
  dom_setDom_other h ..

/-! ### The statement -/

/-- Settles O21: each clause is one answer of `putFdCfg` for a domain that is not enabled, carried to the command; the
domain that the enabling write leaves is read off `dom_enableDom` and `dom_storeFdCfg`. -/
theorem domainEnabled : Obligations.DomainEnabled := by
  unfold Obligations.DomainEnabled
  rintro s r d v x rfl hr hu hx
  refine ⟨fun hEn hStart => ?startUpRefuses, fun hFields => ?goodFields, fun hShort => ?badFields⟩
  case startUpRefuses =>
    exact exec_fdCfgWrite_of_error hr hu (putFdCfg_of_start_up hx hEn hStart)
  case goodFields =>
    have hGood := (fdBad_eq_false_iff _ _ s).2 hFields
    refine ⟨fun hEn => exec_fdCfgWrite_of_ok hr hu (putFdCfg_of_store hx hGood hEn), fun hEn hNone => ?enabled⟩
    have hPut : putFdCfg d.toNat v s = .ok (enableDom d.toNat (storeFdCfg d.toNat v s)) := by
      rw [putFdCfg_of_enable hx hGood hEn, hNone]; rfl
    refine ⟨_, exec_fdCfgWrite_of_ok hr hu hPut, ?_⟩
    rw [dom_enableDom, dom_storeFdCfg]
    refine ⟨rfl, rfl, rfl, rfl, ?guard, ?len, rfl, rfl, fun e he => ?others⟩
    case guard => exact Nat.mod_mod ..
    case len => exact Nat.mod_mod ..
    case others => rw [dom_enableDom_other he, dom_storeFdCfg_other he]
  case badFields =>
    have hBad : fdBad (v.toNat / 65536 % 4096) (v.toNat % 65536) s = true := by
      rw [← Bool.not_eq_false, fdBad_eq_false_iff]; omega
    exact exec_fdCfgWrite_of_error hr hu (putFdCfg_of_bad hx hBad)

end Sys2Proof.Machine
end

section
/-! SUPPORT. Accumulator and tile banks as bytes: what a byte of a bank reads as after a write, and little-endian values of
runs of bytes. -/

namespace Sys2Proof.Machine
open Sys2Proof

/-! ### Sparse tables cut by key -/

theorem tget_append {α : Type} (t u : Tbl α) (d : α) (k : Nat) : tget (t ++ u) d k = tget t (tget u d k) k := by
  induction t with
  | nil => rfl
  | cons e r ih => simp only [List.cons_append, tget, ih]

theorem tget_filter_key {α : Type} (t : Tbl α) (d : α) (k : Nat) (p : Nat → Bool) :
    tget (t.filter (fun e => p e.1)) d k = if p k then tget t d k else d := by
  induction t with
  | nil => simp [tget]
  | cons e r ih =>
    obtain ⟨key, v⟩ := e
    by_cases hp : p key <;> by_cases hk : key = k <;> simp_all [tget]

theorem tget_of_forall_ne {α : Type} {t : Tbl α} (d : α) {k : Nat} (h : ∀ e ∈ t, e.1 ≠ k) : tget t d k = d := by
  induction t with
  | nil => rfl
  | cons e r ih =>
    rw [tget, if_neg (h e List.mem_cons_self), ih fun e he => h e (List.mem_cons_of_mem _ he)]

/-- Entries that hold the default may go: unlisted keys read the same. -/
theorem tget_filter_ne_default {α : Type} [DecidableEq α] {t : Tbl α} (h : Rising t) (d : α) (k : Nat) :
    tget (t.filter (fun e => e.2 ≠ d)) d k = tget t d k := by
  induction t with
  | nil => rfl
  | cons e r ih =>
    obtain ⟨key, v⟩ := e
    obtain ⟨hKey, hRest⟩ := List.pairwise_cons.mp h
    have ih := ih hRest
    by_cases hv : v = d
    · have hHere : key = k → tget r d k = d := fun hk =>
        tget_of_forall_ne d fun e he => by have := hKey e he; omega
      by_cases hk : key = k <;> simp_all [tget]
    · simp_all [tget]

/-- A spliced table reads as the new entries within their window and as before outside it. -/
theorem tget_tsplice {α : Type} (t es : Tbl α) (d : α) {lo n : Nat} (k : Nat)
    (hin : ∀ e ∈ es, lo ≤ e.1 ∧ e.1 < lo + n) :
    tget (tsplice t lo n es) d k = if lo ≤ k ∧ k < lo + n then tget es d k else tget t d k := by
  unfold tsplice
  rw [tget_append, tget_append, tget_filter_key t _ k (fun a => decide (a < lo)),
    tget_filter_key t _ k (fun a => decide (lo + n ≤ a))]
  simp only [decide_eq_true_eq]
  by_cases hw : lo ≤ k ∧ k < lo + n
  · rw [if_neg (by omega), if_neg (by omega), if_pos hw]
  · have hOut : ∀ e ∈ es, e.1 ≠ k := fun e he => by have := hin e he; omega
    rw [if_neg hw, tget_of_forall_ne _ hOut]
    by_cases hlo : k < lo
    · rw [if_pos hlo, if_neg (by omega)]
    · rw [if_neg hlo, if_pos (by omega)]

/-! ### Bytes of a bank -/

theorem getD_of_lt_length {α : Type} {l : List α} {i : Nat} (d : α) (h : i < l.length) : l.getD i d = l[i] := by
  rw [List.getD_eq_getElem?_getD, List.getElem?_eq_getElem h, Option.getD_some]

/-- Bytes as entries of a table, from key `o` on. -/
def entriesFrom (o : Nat) (bs : List Byte) : Tbl Byte := bs.zipIdx.map (fun p => (o + p.2, p.1))

theorem entriesFrom_cons (o : Nat) (b : Byte) (bs : List Byte) :
    entriesFrom o (b :: bs) = (o, b) :: entriesFrom (o + 1) bs := by
  simp [entriesFrom, List.zipIdx_succ (l := bs) (i := 0), Nat.add_comm 1, Nat.add_assoc]

theorem entriesFrom_window (o : Nat) (bs : List Byte) : ∀ e ∈ entriesFrom o bs, o ≤ e.1 ∧ e.1 < o + bs.length := by
  induction bs generalizing o with
  | nil => simp [entriesFrom]
  | cons b bs ih =>
    intro e he
    rw [List.length_cons]
    rw [entriesFrom_cons] at he
    rcases List.mem_cons.mp he with rfl | he
    · simp
    · have := ih (o + 1) e he; omega

theorem entriesFrom_rising (o : Nat) (bs : List Byte) : Rising (entriesFrom o bs) := by
  induction bs generalizing o with
  | nil => exact List.Pairwise.nil
  | cons b bs ih =>
    rw [entriesFrom_cons]
    exact List.pairwise_cons.mpr ⟨fun e he => (entriesFrom_window (o + 1) bs e he).1, ih (o + 1)⟩

theorem tget_entriesFrom (o : Nat) (bs : List Byte) (d : Byte) (i : Nat) :
    tget (entriesFrom o bs) d (o + i) = bs.getD i d := by
  induction bs generalizing o i with
  | nil => simp [entriesFrom, tget]
  | cons b bs ih =>
    rw [entriesFrom_cons, tget]
    cases i with
    | zero => simp
    | succ i => rw [if_neg (by omega), show o + (i + 1) = o + 1 + i by omega, ih, List.getD_cons_succ]

/-- What is stored of bytes written to a bank: a zero byte of a bank without a fill is left out, as it reads the same. -/
def storedEntries (fill : Option Nat) (o : Nat) (bs : List Byte) : Tbl Byte :=
  if fill = none then (entriesFrom o bs).filter (fun e => e.2 ≠ 0) else entriesFrom o bs

theorem putBank_of_fits {k : Bank} {o : Nat} {bs : List Byte} (h : o + bs.length ≤ 65536) :
    putBank k o bs = { k with cells := tsplice k.cells o bs.length (storedEntries k.fill o bs) } := by
  unfold putBank storedEntries entriesFrom
  rw [List.take_of_length_le (by omega)]

theorem storedEntries_window (fill : Option Nat) (o : Nat) (bs : List Byte) :
    ∀ e ∈ storedEntries fill o bs, o ≤ e.1 ∧ e.1 < o + bs.length := by
  intro e he
  unfold storedEntries at he
  split at he
  · exact entriesFrom_window o bs e (List.mem_filter.mp he).1
  · exact entriesFrom_window o bs e he

/-- A stored byte reads back, whatever an unlisted byte of the bank reads as: 0 without a fill. -/
theorem tget_storedEntries {fill : Option Nat} {o i : Nat} {bs : List Byte} {d : Byte} (hd : fill = none → d = 0)
    (hi : i < bs.length) : tget (storedEntries fill o bs) d (o + i) = bs.getD i 0 := by
  have hRead : tget (entriesFrom o bs) d (o + i) = bs.getD i 0 := by
    rw [tget_entriesFrom, getD_of_lt_length _ hi, getD_of_lt_length _ hi]
  unfold storedEntries
  split
  · rw [← hd ‹_›, tget_filter_ne_default (entriesFrom_rising o bs), hRead, hd ‹_›]
  · exact hRead

/-- What a byte of a bank reads as that its table does not list. -/
def unlistedByte (k : Bank) (base o : Nat) : Byte := k.fill.elim 0 (fun n => Config.freeByte n (base + o))

theorem bankByte_of_lt {k : Bank} {base o : Nat} (h : o < 65536) :
    bankByte k base o = tget k.cells (unlistedByte k base o) o := by
  unfold bankByte unlistedByte
  rw [if_neg (by omega)]
  cases k.fill <;> rfl

/-- Bytes written to a bank read back. -/
theorem bankByte_putBank_stored {k : Bank} {o i : Nat} {bs : List Byte} (base : Nat) (h : o + bs.length ≤ 65536)
    (hi : i < bs.length) : bankByte (putBank k o bs) base (o + i) = bs.getD i 0 := by
  rw [putBank_of_fits h, bankByte_of_lt (by omega), tget_tsplice _ _ _ _ (storedEntries_window k.fill o bs),
    if_pos (by omega)]
  refine tget_storedEntries (fun hFill => ?_) hi
  simp [unlistedByte, hFill]

/-- A write to a bank leaves the bytes around it. -/
theorem bankByte_putBank_other {k : Bank} {o i : Nat} {bs : List Byte} (base : Nat) (h : o + bs.length ≤ 65536)
    (hi : i < 65536) (hOut : i < o ∨ o + bs.length ≤ i) : bankByte (putBank k o bs) base i = bankByte k base i := by
  rw [putBank_of_fits h, bankByte_of_lt hi, bankByte_of_lt hi, tget_tsplice _ _ _ _ (storedEntries_window k.fill o bs),
    if_neg (by omega)]
  rfl

@[simp] theorem bankBytes_length (k : Bank) (base o n : Nat) : (bankBytes k base o n).length = n := by
  simp [bankBytes]

/-- A run of bytes within what was written reads as that part of it. -/
theorem bankBytes_putBank_stored {k : Bank} {o p n : Nat} {bs : List Byte} (base : Nat) (h : o + bs.length ≤ 65536)
    (hp : p + n ≤ bs.length) : bankBytes (putBank k o bs) base (o + p) n = (bs.drop p).take n := by
  refine List.ext_getElem (by rw [bankBytes_length, List.length_take, List.length_drop]; omega) fun i hi _ => ?_
  rw [bankBytes_length] at hi
  simp only [bankBytes, List.getElem_map, List.getElem_range, List.getElem_take, List.getElem_drop, Nat.add_assoc]
  rw [bankByte_putBank_stored base h (by omega), getD_of_lt_length _ (by omega)]

/-- A part of a run of bytes is the run of that part. -/
theorem bankBytes_drop_take (k : Bank) (base : Nat) {o p m n : Nat} (h : p + m ≤ n) :
    ((bankBytes k base o n).drop p).take m = bankBytes k base (o + p) m := by
  refine List.ext_getElem (by rw [List.length_take, List.length_drop, bankBytes_length, bankBytes_length]; omega)
    fun i _ _ => ?_
  simp [bankBytes, Nat.add_assoc]

/-! ### Little-endian values (R4) -/

@[simp] theorem leBytes_length (n v : Nat) : (leBytes n v).length = n := by
  induction n generalizing v with
  | zero => rfl
  | succ n ih => rw [leBytes, List.length_cons, ih]

theorem leVal_leBytes (n v : Nat) : leVal (leBytes n v) = v % 256 ^ n := by
  induction n generalizing v with
  | zero => simp [leBytes, leVal, Nat.mod_one]
  | succ n ih =>
    have hByte : (BitVec.ofNat 8 v).toNat = v % 256 := BitVec.toNat_ofNat ..
    rw [leBytes, leVal, ih, hByte, Nat.pow_succ', Nat.mod_mul]

theorem leVal_lt (bs : List Byte) : leVal bs < 256 ^ bs.length := by
  induction bs with
  | nil => simp [leVal]
  | cons b bs ih =>
    have hByte : b.toNat < 256 := b.isLt
    rw [leVal, List.length_cons, Nat.pow_succ]
    omega

theorem leVal_append (as bs : List Byte) : leVal (as ++ bs) = leVal as + 256 ^ as.length * leVal bs := by
  induction as with
  | nil => simp [leVal]
  | cons a as ih =>
    rw [List.cons_append, leVal, ih, leVal, List.length_cons, Nat.pow_succ', Nat.mul_add, Nat.mul_assoc, Nat.add_assoc]

theorem leVal_map {α : Type} (f : α → Byte) (l : List α) :
    leVal (l.map f) = l.foldr (fun a n => (f a).toNat + 256 * n) 0 := by
  induction l with
  | nil => rfl
  | cons a l ih => rw [List.map_cons, leVal, ih, List.foldr_cons]

theorem leAt_bankBytes (k : Bank) (base : Nat) {o p m n : Nat} (h : p + m ≤ n) :
    leAt (bankBytes k base o n) p m = leVal (bankBytes k base (o + p) m) := by
  rw [leAt, bankBytes_drop_take k base h]

/-- A field that lies within the first bytes of a run is the same in the whole run. -/
theorem field_of_append (as bs : List Byte) {o w : Nat} (h : o + w ≤ 8 * as.length) :
    leVal (as ++ bs) / 2 ^ o % 2 ^ w = leVal as / 2 ^ o % 2 ^ w := by
  obtain ⟨c, hc⟩ := Nat.exists_eq_add_of_le h
  have hPow : 256 ^ as.length = 2 ^ o * (2 ^ w * 2 ^ c) := by
    rw [show (256 : Nat) = 2 ^ 8 from rfl, ← Nat.pow_mul, hc, Nat.pow_add, Nat.pow_add, Nat.mul_assoc]
  rw [leVal_append, hPow, Nat.mul_assoc, Nat.add_mul_div_left _ _ (Nat.two_pow_pos o), Nat.mul_assoc,
    Nat.add_mul_mod_self_left]

theorem flatMap_leBytes_length (n : Nat) (vs : List Nat) : (vs.flatMap (leBytes n)).length = n * vs.length := by
  induction vs with
  | nil => rfl
  | cons v vs ih =>
    rw [List.flatMap_cons, List.length_append, ih, leBytes_length, List.length_cons, Nat.mul_succ, Nat.add_comm]

/-- Cell `j` of a run of cells. -/
theorem flatMap_leBytes_cell (n : Nat) {vs : List Nat} {j : Nat} (h : j < vs.length) :
    ((vs.flatMap (leBytes n)).drop (n * j)).take n = leBytes n vs[j] := by
  induction vs generalizing j with
  | nil => simp at h
  | cons v vs ih =>
    rw [List.flatMap_cons]
    cases j with
    | zero => simp
    | succ j =>
      have hSkip : n * (j + 1) = (leBytes n v).length + n * j := by rw [leBytes_length, Nat.mul_succ, Nat.add_comm]
      rw [hSkip, List.drop_length_add_append, List.getElem_cons_succ]
      exact ih (by simpa using h)

end Sys2Proof.Machine
end

section
/-! SUPPORT. The block sum of finite elements (R175), and adding blocks to a cell one after another (R92, R93, R176). -/

namespace Sys2Proof.Machine
open Sys2Proof

/-! ### Rounded values fit their format -/

/-- A rounded value is a word of its format. -/
theorem roundVal_lt {f : NumFmt} (mode : Mode) (v : Val) (hNan : f.nan < 2 ^ (f.eb + f.mb))
    (hInf : ∀ neg, f.inf neg < 2 * 2 ^ (f.eb + f.mb)) (hMax : f.maxBits < 2 ^ (f.eb + f.mb)) :
    (roundVal f mode v).1 < 2 * 2 ^ (f.eb + f.mb) := by
  have hSign : ∀ neg, f.signBit neg ≤ 2 ^ (f.eb + f.mb) := fun neg => by cases neg <;> simp [NumFmt.signBit]
  cases v with
  | nan => simp only [roundVal]; omega
  | inf neg => exact hInf neg
  | fin neg m e st =>
    have hs := hSign neg
    have hi := hInf neg
    simp only [roundVal]
    split
    · simp only; omega
    · split
      · split <;> simp only <;> omega
      · simp only; omega

theorem roundVal_fp32_lt (mode : Mode) (v : Val) : (roundVal fp32 mode v).1 < 2 ^ 32 :=
  roundVal_lt mode v (by decide) (by decide) (by decide)

theorem roundVal_bf16_lt (mode : Mode) (v : Val) : (roundVal bf16 mode v).1 < 2 ^ 16 :=
  roundVal_lt mode v (by decide) (by decide) (by decide)

/-! ### The value of a block -/

/-- A finite element: sign, mantissa and exponent. -/
abbrev FinElem := Bool × Nat × Int

def FinElem.val (e : FinElem) : Val := .fin e.1 e.2.1 e.2.2 false

/-- The exponent of the leading bit of a product. -/
def leadOf (e : FinElem × FinElem) : Int := e.1.2.2 + e.2.2.2 + ((e.1.2.1 * e.2.2.1).log2 : Int)

/-- A product in units of 2 ^ q, the bits below cut off. -/
def cutAt (q : Int) (e : FinElem × FinElem) : Int :=
  (if e.1.1 = e.2.1 then 1 else -1) *
    ((if q ≤ e.1.2.2 + e.2.2.2 then e.1.2.1 * e.2.2.1 * 2 ^ (e.1.2.2 + e.2.2.2 - q).toNat
      else e.1.2.1 * e.2.2.1 / 2 ^ (q - (e.1.2.2 + e.2.2.2)).toNat : Nat) : Int)

/-- The product of a pair of finite elements. -/
def prodOf (e : FinElem × FinElem) : Val := vMul e.1.val e.2.val

theorem prodOf_eq (e : FinElem × FinElem) :
    prodOf e = .fin (e.1.1 != e.2.1) (e.1.2.1 * e.2.2.1) (e.1.2.2 + e.2.2.2) false := rfl

theorem alignTo_prodOf (q : Int) (e : FinElem × FinElem) : alignTo q (prodOf e) = cutAt q e := by
  rw [prodOf_eq, cutAt, alignTo]
  by_cases hs : e.1.1 = e.2.1 <;> by_cases hq : q ≤ e.1.2.2 + e.2.2.2 <;> simp [hs, hq]

/-- What the search for the leading exponent holds after one more product. -/
def topStep (t : Option Int) (p : Val) : Option Int :=
  match p with
  | .fin _ m e _ => if m = 0 then t else
      (match t with
      | none => some (leadExp m e)
      | some x => some (max x (leadExp m e)))
  | _ => t

theorem topExp_eq_foldl (ps : List Val) : topExp ps = ps.foldl topStep none := rfl

theorem topStep_of_zero {t : Option Int} {e : FinElem × FinElem} (h : e.1.2.1 * e.2.2.1 = 0) :
    topStep t (prodOf e) = t := by simp [prodOf_eq, topStep, h]

theorem topStep_of_nonzero {t : Option Int} {e : FinElem × FinElem} (h : e.1.2.1 * e.2.2.1 ≠ 0) :
    topStep t (prodOf e) = some (t.elim (leadOf e) (max · (leadOf e))) := by
  have hLead : leadOf e = leadExp (e.1.2.1 * e.2.2.1) (e.1.2.2 + e.2.2.2) := Int.add_comm ..
  rw [hLead]
  cases t <;> exact if_neg h

/-- The search keeps the top once found, and finds it where a product has it. -/
theorem foldl_topStep {es : List (FinElem × FinElem)} {top : Int} {t : Option Int}
    (hLe : ∀ e ∈ es, e.1.2.1 * e.2.2.1 ≠ 0 → leadOf e ≤ top) (ht : ∀ x ∈ t, x ≤ top)
    (hTop : t = some top ∨ ∃ e ∈ es, e.1.2.1 * e.2.2.1 ≠ 0 ∧ leadOf e = top) :
    (es.map prodOf).foldl topStep t = some top := by
  induction es generalizing t with
  | nil => simpa using hTop
  | cons e es ih =>
    obtain ⟨hHead, hTail⟩ := List.forall_mem_cons.mp hLe
    rw [List.map_cons, List.foldl_cons]
    simp only [List.mem_cons, exists_eq_or_imp] at hTop
    by_cases hz : e.1.2.1 * e.2.2.1 = 0
    · rw [topStep_of_zero hz]
      exact ih hTail ht (hTop.imp_right (Or.resolve_left · fun h => h.1 hz))
    · have hHead := hHead hz
      rw [topStep_of_nonzero hz]
      cases t with
      | none =>
        refine ih hTail (fun y hy => Option.some.inj hy ▸ hHead) ?_
        rcases hTop with h | ⟨_, h⟩ | h
        · cases h
        · exact .inl (congrArg some h)
        · exact .inr h
      | some x =>
        have hx : x ≤ top := ht x rfl
        refine ih hTail (fun y hy => Option.some.inj hy ▸ Int.max_le.mpr ⟨hx, hHead⟩) ?_
        rcases hTop with h | ⟨_, h⟩ | h
        · obtain rfl : x = top := Option.some.inj h
          exact .inl (congrArg some (Int.max_eq_left hHead))
        · exact .inl (congrArg some (h ▸ Int.max_eq_right (h.symm ▸ hx)))
        · exact .inr h

theorem topExp_prods {es : List (FinElem × FinElem)} {top : Int}
    (hTop : ∃ e ∈ es, e.1.2.1 * e.2.2.1 ≠ 0 ∧ leadOf e = top)
    (hLe : ∀ e ∈ es, e.1.2.1 * e.2.2.1 ≠ 0 → leadOf e ≤ top) : topExp (es.map prodOf) = some top :=
  foldl_topStep hLe (fun _ h => nomatch h) (.inr hTop)

/-- A block of finite elements, with scales that are not NaN, whose largest product has leading exponent `top` and whose
cut products do not cancel: their sum, scaled, rounded once (R175). -/
theorem blockSum_of_finite {es : List (FinElem × FinElem)} {sa sb : Nat} {top : Int} (ha : sa < 255) (hb : sb < 255)
    (hTop : ∃ e ∈ es, e.1.2.1 * e.2.2.1 ≠ 0 ∧ leadOf e = top)
    (hLe : ∀ e ∈ es, e.1.2.1 * e.2.2.1 ≠ 0 → leadOf e ≤ top) {acc : Int}
    (hAcc : acc = (es.map (cutAt (top - 40))).sum) (hNe : acc ≠ 0) :
    blockSum (es.map (fun e => (e.1.val, e.2.val))) sa sb =
      (let r := roundVal fp32 .rne (.fin (acc < 0) acc.natAbs (top - 40 + sa + sb - 254) false)
       (decodeNum fp32 r.1, gOver r.2)) := by
  have hNi : (es.map (fun e => (e.1.val, e.2.val))).any (fun p => p.1.isNan || p.2.isNan) = false := by
    simp [FinElem.val, Val.isNan]
  have hProds : (es.map (fun e => (e.1.val, e.2.val))).map (fun p => (p, vMul p.1 p.2)) =
      es.map (fun e => ((e.1.val, e.2.val), prodOf e)) := by
    rw [List.map_map]; rfl
  have hNv : (es.map (fun e => ((e.1.val, e.2.val), prodOf e))).any
      (fun q => q.2.isNan && !q.1.1.isNan && !q.1.2.isNan) = false := by
    simp [prodOf_eq, Val.isNan]
  have hVals : (es.map (fun e => ((e.1.val, e.2.val), prodOf e))).map (·.2) = es.map prodOf := by
    rw [List.map_map]; rfl
  have hInfs : (es.map prodOf).filter Val.isInf = [] :=
    List.filter_eq_nil_iff.mpr (List.forall_mem_map.mpr fun e _ => by simp [prodOf_eq, Val.isInf])
  have hAlign : ((es.map prodOf).map (alignTo (top - 40))).foldl (· + ·) 0 = acc := by
    rw [← List.sum_eq_foldl, List.map_map, hAcc]
    exact congrArg List.sum (List.map_congr_left fun e _ => alignTo_prodOf ..)
  unfold blockSum
  simp only [hNi, hProds, hNv, hVals, hInfs, topExp_prods hTop hLe, hAlign]
  rw [if_neg (by omega), if_neg hNe]
  rfl

/-! ### Blocks added to a cell -/

/-- The bits of cell (i, j) of group `x` after a block value is added with ordinal `n` (R176). -/
def cellSum (x : Group) (i j c : Nat) (n : W32) (v : Val) : Nat :=
  if x.w16 then 65536 * (roundVal bf16 (.sr (berthDraw x.key 1 i j n)) (vAdd (decodeNum fp32 c) v)).1
  else (roundVal fp32 .rne (vAdd (decodeNum fp32 c) v)).1

theorem addBlock_fst (x : Group) (i j c : Nat) (n : W32) (v : Val) :
    (addBlock c v x.w16 x.key i j n).1 = cellSum x i j c n v := by
  unfold addBlock cellSum
  split
  · exact Nat.mul_comm ..
  · rfl

theorem cellSum_lt (x : Group) (i j c : Nat) (n : W32) (v : Val) : cellSum x i j c n v < 2 ^ 32 := by
  unfold cellSum
  split
  · have := roundVal_bf16_lt (.sr (berthDraw x.key 1 i j n)) (vAdd (decodeNum fp32 c) v); omega
  · exact roundVal_fp32_lt ..

/-- The value of a block of A and a block of B. -/
def blockVal (a b : OpBlk) : Val := (blockSum (a.els.zip b.els) a.sc b.sc).1

theorem addBlocks_cons_fst (x : Group) (i j c : Nat) (n : W32) (a b : OpBlk) (r : List (OpBlk × OpBlk)) :
    (addBlocks x.w16 x.key i j n ((a, b) :: r) c).1 =
      (addBlocks x.w16 x.key i j (n + 1) r (cellSum x i j c n (blockVal a b))).1 := by
  rw [← addBlock_fst]; rfl

/-- A cell takes its blocks one after another, each with its ordinal (R92, R93). -/
theorem addBlocks_range_fst (x : Group) (i j k c : Nat) (n : W32) (a b : Nat → OpBlk) :
    (addBlocks x.w16 x.key i j n ((List.range k).map (fun l => (a l, b l))) c).1 =
      (List.range k).foldl (fun c l => cellSum x i j c (n + BitVec.ofNat 32 l) (blockVal (a l) (b l))) c := by
  induction k generalizing c n a b with
  | zero => rfl
  | succ k ih =>
    have hOrd : ∀ l : Nat, n + BitVec.ofNat 32 (l + 1) = n + 1 + BitVec.ofNat 32 l := fun l => by
      rw [BitVec.ofNat_add, BitVec.add_comm (BitVec.ofNat 32 l), BitVec.add_assoc]; rfl
    rw [List.range_succ_eq_map, List.map_cons, List.map_map, addBlocks_cons_fst, List.foldl_cons, List.foldl_map]
    refine (ih _ _ (a ∘ Nat.succ) (b ∘ Nat.succ)).trans ?_
    simp only [Function.comp, Nat.succ_eq_add_one, hOrd, BitVec.add_zero]

end Sys2Proof.Machine
end

section
/-! SUPPORT. The operand blocks of a product as elements and scales of the tile registers (R60 to R62, R86). -/

namespace Sys2Proof.Machine
open Sys2Proof

/-! ### Elements and scales of a tile register -/

/-- Byte `o` of tile register `t`. -/
def tileNum (b : BerthIdx) (tiles : Tbl Bank) (t o : Nat) : Nat := (bankByte (tget tiles {} t) (bankBase b t) o).toNat

/-- The raw bits of element (i, e) of tile register `t` read in format `f`. -/
def tileRaw (b : BerthIdx) (tiles : Tbl Bank) (f t i e : Nat) : Nat :=
  (List.range (rowSize f)).foldr (fun o n => tileNum b tiles t (rowSize f * i + o) + 256 * n) 0 /
    2 ^ (elemBits f * e) % 2 ^ elemBits f

/-- Its value, the scale of its block apart. -/
def tileElem (b : BerthIdx) (tiles : Tbl Bank) (f t i e : Nat) : Val :=
  decodeNum (numFmt f) (tileRaw b tiles f t i e)

/-- Block `k` of row `i` of an A tile. -/
def aBlk (b : BerthIdx) (tiles : Tbl Bank) (f t i k : Nat) : OpBlk :=
  ⟨(List.range 32).map (fun e => tileElem b tiles f t i (32 * k + e)),
    if isMx f then tileNum b tiles t (dataBytes f + 4 * i + k) else 127⟩

/-- Block `k` of column `j` of a B tile. -/
def bBlk (b : BerthIdx) (tiles : Tbl Bank) (f t j k : Nat) : OpBlk :=
  ⟨(List.range 32).map (fun e => tileElem b tiles f t (32 * k + e) j),
    if isMx f then tileNum b tiles t (dataBytes f + 128 * k + j) else 127⟩

/-! ### Rows of raw elements -/

theorem bankBytes_add (k : Bank) (base o m n : Nat) :
    bankBytes k base o (m + n) = bankBytes k base o m ++ bankBytes k base (o + m) n := by
  simp [bankBytes, List.range_add, Nat.add_assoc]

theorem leVal_bankBytes (k : Bank) (base o n : Nat) :
    leVal (bankBytes k base o n) = (List.range n).foldr (fun i a => (bankByte k base (o + i)).toNat + 256 * a) 0 :=
  leVal_map ..

theorem rowSize_of_ne {f : Nat} (h : f ≠ 10) : rowSize f = 16 * elemBits f := by
  rw [rowSize, if_neg h]; omega

/-- The bytes of row `i` of tile register `t` read in format `f`. -/
abbrev tileRow (b : BerthIdx) (tiles : Tbl Bank) (f t i n : Nat) : List Byte :=
  bankBytes (tget tiles {} t) (bankBase b t) (rowSize f * i) n

theorem tileRaw_eq (b : BerthIdx) (tiles : Tbl Bank) (f t i e : Nat) :
    tileRaw b tiles f t i e =
      leVal (tileRow b tiles f t i (rowSize f)) / 2 ^ (elemBits f * e) % 2 ^ elemBits f := by
  rw [leVal_bankBytes]; rfl

/-- The first elements of a row are read from as many of its bytes as they fill. -/
theorem rowRaw_tileRow (b : BerthIdx) (tiles : Tbl Bank) {f t i n m : Nat} (hf : f ≠ 10) (hn : n ≤ 8 * m)
    (hm : m ≤ 16) :
    rowRaw f n (tileRow b tiles f t i (m * elemBits f)) = (List.range n).map (tileRaw b tiles f t i) := by
  obtain ⟨d, hd⟩ := Nat.exists_eq_add_of_le hm
  refine List.map_congr_left fun j hj => ?_
  have hFits : elemBits f * j + elemBits f ≤ 8 * (m * elemBits f) := by
    have hj : j + 1 ≤ 8 * m := by have := List.mem_range.mp hj; omega
    calc elemBits f * j + elemBits f = elemBits f * (j + 1) := rfl
      _ ≤ elemBits f * (8 * m) := Nat.mul_le_mul_left _ hj
      _ = 8 * (m * elemBits f) := by rw [Nat.mul_comm, Nat.mul_assoc]
  have hRow : rowSize f = m * elemBits f + d * elemBits f := by rw [rowSize_of_ne hf, hd, Nat.add_mul]
  have hSplit := (congrArg (tileRow b tiles f t i) hRow).trans (bankBytes_add ..)
  rw [tileRaw_eq, hSplit, field_of_append _ _ (by simpa using hFits)]

/-! ### Blocks of 32 elements -/

theorem chunks32_range {α : Type} (k : Nat) (g : Nat → α) :
    chunks32 k ((List.range (32 * k)).map g) =
      (List.range k).map (fun x => (List.range 32).map (fun e => g (32 * x + e))) := by
  induction k generalizing g with
  | zero => rfl
  | succ k ih =>
    have hLen : ((List.range 32).map g).length = 32 := by simp
    have hCut : (List.range (32 * (k + 1))).map g =
        (List.range 32).map g ++ (List.range (32 * k)).map (fun e => g (32 + e)) := by
      rw [Nat.mul_succ, Nat.add_comm, List.range_add, List.map_append, List.map_map]; rfl
    have hTail : ∀ x e, g (32 + (32 * x + e)) = g (32 * (x + 1) + e) := fun x e => congrArg g (by omega)
    rw [chunks32, hCut, List.take_left' hLen, List.drop_left' hLen, ih, List.range_succ_eq_map (n := k),
      List.map_cons, List.map_map]
    simp only [Function.comp_def, hTail, Nat.mul_zero, Nat.zero_add, Nat.succ_eq_add_one]

theorem rowBlocks_range (f : Nat) {k n : Nat} (h : k ≤ n) (g sc : Nat → Nat) :
    rowBlocks f k ((List.range (32 * k)).map g) ((List.range n).map sc) =
      (List.range k).map (fun x => ⟨(List.range 32).map (fun e => decodeNum (numFmt f) (g (32 * x + e))), sc x⟩) := by
  unfold rowBlocks
  rw [chunks32_range]
  refine List.ext_getElem (by simp [Nat.min_eq_left h]) fun x _ _ => ?_
  simp [Function.comp_def]

/-- The blocks of a row of A. -/
theorem aRowBlks_eq (b : BerthIdx) (s : State) {t f k : Nat} (i : Nat) (hf : f ≠ 10) (hk : k ≤ 4) :
    aRowBlks b t f k i s = (List.range k).map (aBlk b (berth b s).tiles f t i) := by
  have hRaw : rowRaw f (32 * k) (tileData b t (rowSize f * i) (4 * k * elemBits f) s) =
      (List.range (32 * k)).map (tileRaw b (berth b s).tiles f t i) :=
    rowRaw_tileRow b (berth b s).tiles hf (by omega) (by omega)
  have hScales : (if isMx f then (tileData b t (dataBytes f + 4 * i) 4 s).map BitVec.toNat
      else List.replicate 4 0x7F) = (List.range 4).map (fun x =>
        if isMx f then tileNum b (berth b s).tiles t (dataBytes f + 4 * i + x) else 127) := by
    cases isMx f with
    | true => exact List.map_map ..
    | false => rfl
  unfold aRowBlks
  rw [hRaw, hScales, rowBlocks_range f hk]
  rfl

/-- The blocks of the columns of B. -/
theorem bCols_eq (b : BerthIdx) (s : State) {t f k : Nat} (hf : f ≠ 10) :
    bCols b t f k s = (List.range 128).map (fun j => (List.range k).map (bBlk b (berth b s).tiles f t j)) := by
  refine List.map_congr_left fun j hj => ?_
  have hj : j < 128 := List.mem_range.mp hj
  have hRaw : ∀ r, (rowRaw f 128 (tileData b t (rowSize f * r) (rowSize f) s)).getD j 0 =
      tileRaw b (berth b s).tiles f t r j := fun r => by
    have hRow := rowRaw_tileRow b (berth b s).tiles (t := t) (i := r) (n := 128) (m := 16) hf (by omega) (by omega)
    rw [← rowSize_of_ne hf] at hRow
    rw [show tileData b t (rowSize f * r) (rowSize f) s = tileRow b (berth b s).tiles f t r (rowSize f) from rfl, hRow]
    simp [hj]
  have hScale : ∀ x, ((if isMx f then tileData b t (dataBytes f + 128 * x) 128 s else []).getD j 0x7F).toNat =
      if isMx f then tileNum b (berth b s).tiles t (dataBytes f + 128 * x + j) else 127 := fun x => by
    cases isMx f with
    | true => simp [tileData, bankBytes, hj, tileNum, tile]
    | false => rfl
  simp only [List.map_map, Function.comp_def, hRaw, hScale]
  exact rowBlocks_range f (Nat.le_refl k) ..

end Sys2Proof.Machine
end

section
/-! SUPPORT. What one tile operation makes of its group (R91 to R93, R102). -/

namespace Sys2Proof.Machine
open Sys2Proof

/-! ### One row of cells -/

/-- Cell (i, j) of group `g` held in bank `k`. -/
def cellAt (b : BerthIdx) (g i j : Nat) (k : Bank) : Nat :=
  leVal (bankBytes k (bankBase b (16 + g)) (512 * i + 4 * j) 4)

/-- The value of block `k` of row `i` of A and column `j` of the B tile `t`, with their scales. -/
def pairBlk (b : BerthIdx) (tiles : Tbl Bank) (p : MmPair) (t i j k : Nat) : Val :=
  (blockSum
    ((List.range 32).map (fun e =>
      (tileElem b tiles p.fa.toNat p.ta.toNat i (32 * k + e), tileElem b tiles p.fb.toNat t (32 * k + e) j)))
    (if isMx p.fa.toNat then tileNum b tiles p.ta.toNat (dataBytes p.fa.toNat + 4 * i + k) else 127)
    (if isMx p.fb.toNat then tileNum b tiles t (dataBytes p.fb.toNat + 128 * k + j) else 127)).1

/-- Cell (i, j) of group `x` and the group's counter after a pair with its B tile (R92, R93). -/
def pairCell (b : BerthIdx) (tiles : Tbl Bank) (x : Group) (i j : Nat) (cn : Nat × W32) (p : MmPair × Nat) : Nat × W32 :=
  ((List.range p.1.kblk.toNat).foldl
      (fun c k => cellSum x i j c (cn.2 + BitVec.ofNat 32 k) (pairBlk b tiles p.1 p.2 i j k)) cn.1,
    cn.2 + BitVec.ofNat 32 p.1.kblk.toNat)

theorem blockVal_aBlk_bBlk (b : BerthIdx) (tiles : Tbl Bank) (p : MmPair) (t i j k : Nat) :
    blockVal (aBlk b tiles p.fa.toNat p.ta.toNat i k) (bBlk b tiles p.fb.toNat t j k) = pairBlk b tiles p t i j k := by
  unfold blockVal aBlk bBlk
  rw [List.zip_map']
  rfl

theorem cellAt_lt (b : BerthIdx) (g i j : Nat) (k : Bank) : cellAt b g i j k < 2 ^ 32 := by
  have h := leVal_lt (bankBytes k (bankBase b (16 + g)) (512 * i + 4 * j) 4)
  rwa [bankBytes_length] at h

theorem pairCell_fst_lt (b : BerthIdx) (tiles : Tbl Bank) (x : Group) (i j : Nat) {cn : Nat × W32} (p : MmPair × Nat)
    (h : cn.1 < 2 ^ 32) : (pairCell b tiles x i j cn p).1 < 2 ^ 32 := by
  unfold pairCell
  cases p.1.kblk.toNat with
  | zero => exact h
  | succ k =>
    rw [List.range_succ, List.foldl_append]
    exact cellSum_lt ..

/-- Row `i` of the cells of group `g` after a pair. -/
def productRow (b : BerthIdx) (p : MmPair) (tb g i : Nat) (s : State) : List Nat × GFlags :=
  mmaRow (group (berth b s) g) i (aRowBlks b p.ta.toNat p.fa.toNat p.kblk.toNat i s)
    (bCols b tb p.fb.toNat p.kblk.toNat s)
    ((List.range 128).map (fun j => leAt (groupData b g (512 * i) 512 s) (4 * j) 4))

theorem mmaRow_fst_range (x : Group) (i n : Nat) (a : List OpBlk) (col : Nat → List OpBlk) (cell : Nat → Nat) :
    (mmaRow x i a ((List.range n).map col) ((List.range n).map cell)).1 =
      (List.range n).map (fun j => (addBlocks x.w16 x.key i j x.ctr (a.zip (col j)) (cell j)).1) := by
  refine List.ext_getElem (by simp [mmaRow]) fun j _ _ => ?_
  simp [mmaRow]

/-- A pair that the matrix engine runs: no FP64 operand and at most 4 blocks (R85, R87). -/
structure PairRuns (p : MmPair) : Prop where
  fa : p.fa.toNat ≠ 10
  fb : p.fb.toNat ≠ 10
  kblk : p.kblk.toNat ≤ 4

theorem productRow_fst (b : BerthIdx) {p : MmPair} (tb g i : Nat) (s : State) (hp : PairRuns p) :
    (productRow b p tb g i s).1 = (List.range 128).map (fun j =>
      (pairCell b (berth b s).tiles (group (berth b s) g) i j
        (cellAt b g i j (group (berth b s) g).bank, (group (berth b s) g).ctr) (p, tb)).1) := by
  unfold productRow
  rw [aRowBlks_eq b s i hp.fa hp.kblk, bCols_eq b s hp.fb, mmaRow_fst_range]
  refine List.map_congr_left fun j hj => ?_
  have hj : j < 128 := List.mem_range.mp hj
  have hCell : leAt (groupData b g (512 * i) 512 s) (4 * j) 4 = cellAt b g i j (group (berth b s) g).bank :=
    leAt_bankBytes _ _ (by omega)
  rw [List.zip_map', hCell, addBlocks_range_fst]
  simp only [blockVal_aBlk_bBlk]
  rfl

/-! ### The rows of a bank -/

/-- A bank whose first `m` rows of 512 bytes are replaced. -/
def putRows (row : Nat → List Byte) (m : Nat) (k : Bank) : Bank :=
  (List.range m).foldl (fun k i => putBank k (512 * i) (row i)) k

section
variable {row : Nat → List Byte} (hRow : ∀ i, (row i).length = 512)
include hRow

/-- The replaced rows read as given; the rows from `m` on are kept. -/
theorem bankByte_putRows (k : Bank) (base : Nat) {m i : Nat} (hm : m ≤ 128) (hi : i < 65536) :
    bankByte (putRows row m k) base i = if i < 512 * m then (row (i / 512)).getD (i % 512) 0 else bankByte k base i := by
  induction m with
  | zero => simp [putRows]
  | succ m ih =>
    have hLast : putRows row (m + 1) k = putBank (putRows row m k) (512 * m) (row m) := by
      simp [putRows, List.range_succ]
    have hFits : 512 * m + (row m).length ≤ 65536 := by rw [hRow]; omega
    rw [hLast]
    by_cases hIn : 512 * m ≤ i ∧ i < 512 * (m + 1)
    · obtain ⟨o, rfl⟩ := Nat.exists_eq_add_of_le hIn.1
      rw [bankByte_putBank_stored base hFits (by rw [hRow]; omega), if_pos hIn.2]
      congr 2 <;> omega
    · rw [bankByte_putBank_other base hFits hi (by rw [hRow]; omega), ih (by omega)]
      by_cases hLt : i < 512 * m
      · rw [if_pos hLt, if_pos (by omega)]
      · rw [if_neg hLt, if_neg (by omega)]

/-- A run of bytes within a replaced row. -/
theorem bankBytes_putRows (k : Bank) (base : Nat) {m i o n : Nat} (hm : m ≤ 128) (hi : i < m) (ho : o + n ≤ 512) :
    bankBytes (putRows row m k) base (512 * i + o) n = ((row i).drop o).take n := by
  refine List.ext_getElem (by rw [bankBytes_length, List.length_take, List.length_drop, hRow]; omega) fun l hl _ => ?_
  rw [bankBytes_length] at hl
  have hRowOf : (512 * i + o + l) / 512 = i := by omega
  have hByte : (512 * i + o + l) % 512 = o + l := by omega
  simp only [bankBytes, List.getElem_map, List.getElem_range, List.getElem_take, List.getElem_drop]
  rw [bankByte_putRows hRow k base hm (by omega), if_pos (by omega), hRowOf, hByte,
    getD_of_lt_length _ (by rw [hRow]; omega)]

end

/-! ### The group after a tile operation -/

/-- Group `g` after a pair is added into its first `m` rows. -/
def productGroup (b : BerthIdx) (p : MmPair) (tb g m : Nat) (s : State) : Group :=
  let x := group (berth b s) g
  { x with
    bank := putRows (fun i => (productRow b p tb g i s).1.flatMap (leBytes 4)) m x.bank
    flags := x.flags ||| (List.range m).foldl (fun fl i => fl ||| (productRow b p tb g i s).2) 0
    ctr := x.ctr + w32 p.kblk.toNat }

theorem productRow_bytes_length (b : BerthIdx) {p : MmPair} (tb g i : Nat) (s : State) (hp : PairRuns p) :
    ((productRow b p tb g i s).1.flatMap (leBytes 4)).length = 512 := by
  rw [flatMap_leBytes_length, productRow_fst b tb g i s hp, List.length_map, List.length_range]

/-- From `x` to `y` group `g` has received the pairs `ps` one after another in its first `m` rows, every pair with its B
tile: its cells there are the sums, its counter has advanced, its width, key and flags are kept. -/
structure PairsAdded (b : BerthIdx) (tiles : Tbl Bank) (m g : Nat) (ps : List (MmPair × Nat)) (x y : Group) : Prop where
  opened : y.opened = x.opened
  w16 : y.w16 = x.w16
  key : y.key = x.key
  ctr : y.ctr = x.ctr + BitVec.ofNat 32 (ps.map (fun p => p.1.kblk.toNat)).sum
  flags : y.flags &&& x.flags = x.flags
  cells : ∀ i j, i < m → j < 128 →
    cellAt b g i j y.bank = (ps.foldl (pairCell b tiles x i j) (cellAt b g i j x.bank, x.ctr)).1
  rest : ∀ k, 512 * m ≤ k → k < 65536 →
    bankByte y.bank (bankBase b (16 + g)) k = bankByte x.bank (bankBase b (16 + g)) k

theorem or_and_cancel {n : Nat} (x y : BitVec n) : (x ||| y) &&& x = x := by
  ext i hi
  simp only [BitVec.getElem_and, BitVec.getElem_or]
  cases x[i] <;> simp

theorem pairsAdded_productGroup (b : BerthIdx) {p : MmPair} (tb g : Nat) {m : Nat} (s : State) (hp : PairRuns p)
    (hm : m ≤ 128) : PairsAdded b (berth b s).tiles m g [(p, tb)] (group (berth b s) g) (productGroup b p tb g m s) := by
  have hLen := fun i => productRow_bytes_length b tb g i s hp
  refine ⟨rfl, rfl, rfl, rfl, ?flags, fun i j hi hj => ?cells, fun k hk hLt => ?rest⟩
  case flags => exact or_and_cancel ..
  case cells =>
    have hWord := pairCell_fst_lt b (berth b s).tiles (group (berth b s) g) i j
      (cn := (_, (group (berth b s) g).ctr)) (p, tb) (cellAt_lt b g i j (group (berth b s) g).bank)
    unfold productGroup cellAt
    rw [bankBytes_putRows hLen _ _ hm hi (by omega), flatMap_leBytes_cell 4 (by rw [productRow_fst b tb g i s hp]; simpa),
      leVal_leBytes]
    simp only [productRow_fst b tb g i s hp, List.getElem_map, List.getElem_range]
    exact Nat.mod_eq_of_lt hWord
  case rest =>
    exact (bankByte_putRows hLen _ _ hm hLt).trans (if_neg (by omega))

/-! ### Pairs one after another -/

theorem foldl_pairCell_snd (b : BerthIdx) (tiles : Tbl Bank) (x : Group) (i j : Nat) (ps : List (MmPair × Nat))
    (cn : Nat × W32) : (ps.foldl (pairCell b tiles x i j) cn).2 =
      cn.2 + BitVec.ofNat 32 (ps.map (fun p => p.1.kblk.toNat)).sum := by
  induction ps generalizing cn with
  | nil => simp
  | cons p ps ih =>
    rw [List.foldl_cons, ih, List.map_cons, List.sum_cons, BitVec.ofNat_add, ← BitVec.add_assoc]
    rfl

/-- What a pair does to a cell depends on the width and the key of the group alone. -/
theorem pairCell_congr (b : BerthIdx) (tiles : Tbl Bank) {x y : Group} (hw : y.w16 = x.w16) (hk : y.key = x.key) :
    pairCell b tiles y = pairCell b tiles x := by
  unfold pairCell cellSum
  rw [hw, hk]

theorem PairsAdded.append {b : BerthIdx} {tiles : Tbl Bank} {m g : Nat} {ps qs : List (MmPair × Nat)} {x y z : Group}
    (h : PairsAdded b tiles m g ps x y) (h' : PairsAdded b tiles m g qs y z) :
    PairsAdded b tiles m g (ps ++ qs) x z := by
  refine ⟨h'.opened.trans h.opened, h'.w16.trans h.w16, h'.key.trans h.key, ?ctr, ?flags, fun i j hi hj => ?cells,
    fun k hk hLt => (h'.rest k hk hLt).trans (h.rest k hk hLt)⟩
  case ctr =>
    rw [h'.ctr, h.ctr, List.map_append, List.sum_append, BitVec.ofNat_add, BitVec.add_assoc]
  case flags =>
    calc z.flags &&& x.flags = z.flags &&& (y.flags &&& x.flags) := by rw [h.flags]
      _ = y.flags &&& x.flags := by rw [← BitVec.and_assoc, h'.flags]
      _ = x.flags := h.flags
  case cells =>
    have hMid : (cellAt b g i j y.bank, y.ctr) =
        ps.foldl (pairCell b tiles x i j) (cellAt b g i j x.bank, x.ctr) :=
      Prod.ext (h.cells i j hi hj) (h.ctr.trans (foldl_pairCell_snd b tiles x i j ps (_, x.ctr)).symm)
    rw [h'.cells i j hi hj, pairCell_congr b tiles h.w16 h.key, hMid, List.foldl_append]

end Sys2Proof.Machine
end

section
/-! SUPPORT. What the audit of a tile operation and its charge leave unchanged (R284, R286, R342, R343, R353), and what one tile
operation does to its berth. -/

namespace Sys2Proof.Machine
open Sys2Proof

/-! ### Outside a berth -/

/-- From `s` to `t` nothing has changed outside berth `b` and the state of the domain that holds it, but for the records of
accounting, audits and messages; which domain holds a berth is kept. -/
structure Elsewhere (b : BerthIdx) (s t : State) : Prop where
  others : ∀ c, c ≠ b → berth c t = berth c s
  mem : t.mem = s.mem
  serve : t.serve = s.serve
  en : ∀ d, (dom d t).en = (dom d s).en
  doms : ∀ d, some d ≠ berthDom b s → dom d t = dom d s

theorem Elsewhere.berthDom {b : BerthIdx} {s t : State} (h : Elsewhere b s t) : berthDom b t = berthDom b s := by
  unfold Machine.berthDom holdsBerth serveOf
  simp only [h.en, h.serve]

theorem Elsewhere.trans {b : BerthIdx} {s t u : State} (h : Elsewhere b s t) (h' : Elsewhere b t u) :
    Elsewhere b s u where
  others c hc := (h'.others c hc).trans (h.others c hc)
  mem := h'.mem.trans h.mem
  serve := h'.serve.trans h.serve
  en d := (h'.en d).trans (h.en d)
  doms d hd := (h'.doms d (h.berthDom ▸ hd)).trans (h.doms d hd)

theorem elsewhere_modBerth (b : BerthIdx) (f : Berth → Berth) (s : State) : Elsewhere b s (modBerth b f s) :=
  ⟨fun _ hc => berth_modBerth_other hc f s, rfl, rfl, fun _ => rfl, fun _ _ => rfl⟩

/-! ### What sampling and charging keep -/

/-- From `s` to `t` a tile operation of berth `b` has been sampled or charged: of the berth only the sampling register may
have changed. -/
structure Sampled (b : BerthIdx) (s t : State) : Prop where
  elsewhere : Elsewhere b s t
  here : { berth b t with audZ := 0 } = { berth b s with audZ := 0 }

namespace Sampled

theorem trans {b : BerthIdx} {s t u : State} (h : Sampled b s t) (h' : Sampled b t u) : Sampled b s u :=
  ⟨h.elsewhere.trans h'.elsewhere, h'.here.trans h.here⟩

theorem of_kept {b : BerthIdx} {s t : State} (hBerths : t.berths = s.berths) (hMem : t.mem = s.mem)
    (hServe : t.serve = s.serve) (hDomains : t.domains = s.domains) : Sampled b s t := by
  have hBerth : ∀ c, berth c t = berth c s := fun c => by rw [berth, hBerths]; rfl
  have hDom : ∀ d, dom d t = dom d s := fun d => by rw [dom, hDomains]; rfl
  exact ⟨⟨fun c _ => hBerth c, hMem, hServe, fun d => by rw [hDom], fun d _ => hDom d⟩, by rw [hBerth]⟩

theorem refl (b : BerthIdx) (s : State) : Sampled b s s := of_kept rfl rfl rfl rfl

/-- A change of the domain that holds the berth, its EN kept. -/
theorem of_modDom {b : BerthIdx} {s : State} {d : Nat} (h : berthDom b s = some d) {f : Domain → Domain}
    (hEn : ∀ x, (f x).en = x.en) : Sampled b s (modDom d f s) := by
  refine ⟨⟨fun _ _ => rfl, rfl, rfl, fun e => ?_, fun e he => ?_⟩, rfl⟩
  · by_cases he : e = d
    · rw [he, dom_modDom, hEn]
    · rw [dom_modDom_other he]
  · exact dom_modDom_other (fun hed => he (by rw [hed, h])) f s

end Sampled

theorem berthDom_lt {b : BerthIdx} {s : State} {d : Nat} (h : berthDom b s = some d) : d < 16 :=
  List.mem_range.mp (List.mem_of_find?_eq_some h)

/-- The finish check leaves all but the state of its domain. -/
theorem checkDone_cases (d : Nat) (s : State) :
    checkDone d s = s ∨ ∃ f : Domain → Domain, (∀ x, (f x).en = x.en) ∧ checkDone d s = modDom d f s := by
  unfold checkDone
  split
  · exact .inr ⟨fun x => { x with st := .done }, fun _ => rfl, rfl⟩
  · split
    · exact .inr ⟨fun x => { x with st := .opened }, fun _ => rfl, rfl⟩
    · exact .inl rfl

theorem auditFrame_cases (o : AudOutcome) (q : AudReq) (s : State) :
    auditFrame o q s = s ∨
      ∃ f : Domain → Domain, (∀ x, (f x).en = x.en) ∧ auditFrame o q s = modDom q.frame.dom.toNat f s := by
  unfold auditFrame
  simp only
  split
  · exact .inr ⟨fun x => { x with audBad := true }, fun _ => rfl, rfl⟩
  · exact checkDone_cases ..

namespace Sampled
variable {b : BerthIdx} {s : State}

theorem auditFrame {q : AudReq} (o : AudOutcome) (h : berthDom b s = some q.frame.dom.toNat) :
    Sampled b s (auditFrame o q s) := by
  rcases auditFrame_cases o q s with hEq | ⟨f, hEn, hEq⟩
  · rw [hEq]; exact refl b s
  · rw [hEq]; exact of_modDom h hEn

theorem setHealth (h : Health) : Sampled b s (setHealth h s) := of_kept rfl rfl rfl rfl

theorem raise (p bit : Nat) : Sampled b s (raise p bit s) := of_kept rfl rfl rfl rfl

theorem report (k : Blk) (c : W16) : Sampled b s (report k c s) := of_kept (by simp) (by simp) (by simp) (by simp)

theorem pushRecord (r : List Byte) : Sampled b s (pushRecord r s) := by
  unfold Machine.pushRecord
  split
  · simp only
    split
    · exact (setHealth _).trans ((raise _ _).trans (raise _ _))
    · exact (setHealth _).trans (raise _ _)
  · exact setHealth _

theorem auditSkipped (q : AudReq) (dev : W16) : Sampled b s (auditCount .skipped q dev s) := by
  unfold auditCount
  simp only
  split
  · exact (setHealth _).trans ((pushRecord _).trans (report _ _))
  · exact setHealth _

theorem sendAudReq (q : AudReq) (dev : W16) : Sampled b s (sendAudReq q dev s) := of_kept rfl rfl rfl rfl

theorem nextFree : Sampled b s (nextFree s).2 := of_kept rfl rfl rfl rfl

/-- The sampling of a tile operation (R342, R343). -/
theorem sampleOp (o : AudOp) : Sampled b s (sampleOp b o s) := by
  have hStep : ∀ z, Sampled b s (modBerth b (fun be => { be with audZ := z }) s) := fun z =>
    ⟨elsewhere_modBerth .., by rw [berth_modBerth]⟩
  unfold Machine.sampleOp
  cases hDom : berthDom b s with
  | none => exact refl b s
  | some d =>
    have hFree := (hStep (auditStep (berth b s).audZ)).trans nextFree
    simp only
    split
    · exact refl b s
    split
    · exact hStep _
    split
    · refine (hFree.trans (auditSkipped _ _)).trans (auditFrame _ ?_)
      rw [(hFree.trans (auditSkipped _ _)).elsewhere.berthDom, hDom]
      exact congrArg some (Nat.mod_eq_of_lt (berthDom_lt hDom)).symm
    · exact (hFree.trans (setHealth _)).trans (sendAudReq _ _)

theorem accrue (d : Nat) (f : Accrual → Accrual) : Sampled b s (accrue d f s) := of_kept rfl rfl rfl rfl

theorem addAct (c n : Nat) : Sampled b s (addAct c n s) := of_kept rfl rfl rfl rfl

end Sampled

/-! ### One tile operation -/

theorem foldl_pair {α β γ : Type} (f : β → α → β) (g : γ → α → γ) (l : List α) (x : β) (y : γ) :
    l.foldl (fun st a => (f st.1 a, g st.2 a)) (x, y) = (l.foldl f x, l.foldl g y) := by
  induction l generalizing x y with
  | nil => rfl
  | cons a l ih => exact ih ..

/-- The charge of the cycles of a tile operation (R284, R286). -/
def chargeOp (b : BerthIdx) (cyc mode : Nat) (s : State) : State :=
  let t := mxCycles b cyc s
  addAct (berthClient b t).toNat (cyc * (t.acct.w.toList.getD (1 + mode) 0).toNat) t

theorem Sampled.chargeOp (b : BerthIdx) (cyc mode : Nat) (s : State) : Sampled b s (chargeOp b cyc mode s) := by
  refine Sampled.trans ?_ (Sampled.addAct _ _)
  unfold mxCycles
  split
  · exact Sampled.accrue _ _
  · exact Sampled.refl b s

/-- A tile operation stores its group with the pair added, is sampled and is charged. -/
theorem mmaOne_eq (b : BerthIdx) (p : MmPair) (tb : Nat) (g : BitVec 3) (m : Nat) (s : State) :
    ∃ op cyc mode, mmaOne b p tb g m s = chargeOp b cyc mode
      (sampleOp b op (modBerth b (setGroup g.toNat (productGroup b p tb g.toNat m s)) s)) := by
  have hRows : (List.range m).foldl (fun (st : Bank × GFlags) i =>
      (putBank st.1 (512 * i) ((productRow b p tb g.toNat i s).1.flatMap (leBytes 4)),
        st.2 ||| (productRow b p tb g.toNat i s).2)) ((group (berth b s) g.toNat).bank, 0) =
      ((productGroup b p tb g.toNat m s).bank,
        (List.range m).foldl (fun fl i => fl ||| (productRow b p tb g.toNat i s).2) 0) :=
    foldl_pair (fun k i => putBank k (512 * i) ((productRow b p tb g.toNat i s).1.flatMap (leBytes 4)))
      (fun fl i => fl ||| (productRow b p tb g.toNat i s).2) ..
  unfold productRow at hRows
  unfold mmaOne
  simp only [hRows]
  exact ⟨_, cdiv m (rowsPerBand (mxMode (pairRateOf p) (group (berth b s) g.toNat).w16)) * p.kblk.toNat,
    mxMode (pairRateOf p) (group (berth b s) g.toNat).w16, rfl⟩

theorem sampled_mmaOne (b : BerthIdx) (p : MmPair) (tb : Nat) (g : BitVec 3) (m : Nat) (s : State) :
    Sampled b (modBerth b (setGroup g.toNat (productGroup b p tb g.toNat m s)) s) (mmaOne b p tb g m s) := by
  obtain ⟨op, cyc, mode, hEq⟩ := mmaOne_eq b p tb g m s
  rw [hEq]
  exact (Sampled.sampleOp op).trans (Sampled.chargeOp b cyc mode _)

/-! ### The operations of a product -/

/-- From `s` to `t` a product has run on berth `b`: every group of `ts` has received its pairs, no other group has changed,
and of the berth nothing else but the sampling register. -/
structure ProductsRun (b : BerthIdx) (m : Nat) (ts : List (Nat × List (MmPair × Nat))) (s t : State) : Prop where
  elsewhere : Elsewhere b s t
  here : { berth b t with groups := [], audZ := 0 } = { berth b s with groups := [], audZ := 0 }
  added : ∀ gp ∈ ts, PairsAdded b (berth b s).tiles m gp.1 gp.2 (group (berth b s) gp.1) (group (berth b t) gp.1)
  untouched : ∀ h, h ∉ ts.map (·.1) → group (berth b t) h = group (berth b s) h

theorem group_setGroup (g : Nat) (y : Group) (be : Berth) : group (setGroup g y be) g = y := tget_tset_same ..

theorem group_setGroup_other {g h : Nat} (hne : h ≠ g) (y : Group) (be : Berth) :
    group (setGroup g y be) h = group be h := tget_tset_other _ _ _ _ _ hne

theorem productsRun_mmaOne (b : BerthIdx) {p : MmPair} (tb : Nat) (g : BitVec 3) {m : Nat} (s : State) (hp : PairRuns p)
    (hm : m ≤ 128) : ProductsRun b m [(g.toNat, [(p, tb)])] s (mmaOne b p tb g m s) := by
  obtain ⟨hElse, hHere⟩ := sampled_mmaOne b p tb g m s
  rw [berth_modBerth] at hHere
  have hGroups := congrArg Berth.groups hHere
  have hGroup : ∀ h, group (berth b (mmaOne b p tb g m s)) h =
      group (setGroup g.toNat (productGroup b p tb g.toNat m s) (berth b s)) h := fun h =>
    congrArg (fun gs : Tbl Group => tget gs {} h) hGroups
  refine ⟨(elsewhere_modBerth ..).trans hElse, ?here, fun gp hgp => ?added, fun h hh => ?untouched⟩
  case here => exact congrArg (fun be : Berth => { be with groups := [] }) hHere
  case added =>
    obtain rfl := List.mem_singleton.mp hgp
    rw [hGroup, group_setGroup]
    exact pairsAdded_productGroup b tb g.toNat s hp hm
  case untouched =>
    rw [hGroup, group_setGroup_other (by simpa using hh)]

namespace ProductsRun
variable {b : BerthIdx} {m : Nat} {s t u : State}

theorem tiles {ts : List (Nat × List (MmPair × Nat))} (h : ProductsRun b m ts s t) :
    (berth b t).tiles = (berth b s).tiles := congrArg (·.tiles) h.here

theorem nil (b : BerthIdx) (m : Nat) (s : State) : ProductsRun b m [] s s :=
  ⟨(Sampled.refl b s).elsewhere, rfl, fun _ h => absurd h List.not_mem_nil, fun _ _ => rfl⟩

/-- One group receives pairs and then more. -/
theorem same {g : Nat} {ps qs : List (MmPair × Nat)} (h : ProductsRun b m [(g, ps)] s t)
    (h' : ProductsRun b m [(g, qs)] t u) : ProductsRun b m [(g, ps ++ qs)] s u := by
  refine ⟨h.elsewhere.trans h'.elsewhere, h'.here.trans h.here, fun gp hgp => ?_, fun k hk =>
    (h'.untouched k hk).trans (h.untouched k hk)⟩
  obtain rfl := List.mem_singleton.mp hgp
  have hNext := h'.added _ List.mem_cons_self
  rw [h.tiles] at hNext
  exact (h.added _ List.mem_cons_self).append hNext

/-- Groups receive pairs and then one more group its own. -/
theorem snoc {ts : List (Nat × List (MmPair × Nat))} {g : Nat} {ps : List (MmPair × Nat)} (h : ProductsRun b m ts s t)
    (h' : ProductsRun b m [(g, ps)] t u) (hg : g ∉ ts.map (·.1)) : ProductsRun b m (ts ++ [(g, ps)]) s u := by
  refine ⟨h.elsewhere.trans h'.elsewhere, h'.here.trans h.here, fun gp hgp => ?added, fun k hk => ?untouched⟩
  case added =>
    rcases List.mem_append.mp hgp with hgp | hgp
    · have hne : gp.1 ≠ g := fun e => hg (e ▸ List.mem_map_of_mem hgp)
      rw [h'.untouched gp.1 (by simpa using hne)]
      exact h.added gp hgp
    · obtain rfl := List.mem_singleton.mp hgp
      have hNext := h'.added _ List.mem_cons_self
      rwa [h.tiles, h.untouched g hg] at hNext
  case untouched =>
    simp only [List.map_append, List.mem_append, not_or] at hk
    exact (h'.untouched k hk.2).trans (h.untouched k hk.1)

end ProductsRun

/-- The operations of a grouped product, one group after another. -/
theorem productsRun_grouped (b : BerthIdx) {p : MmPair} (g n : Nat) {m : Nat} (s : State) (hp : PairRuns p) (hm : m ≤ 128)
    (hg : g + n ≤ 8) :
    ProductsRun b m ((List.range n).map (fun t => (g + t, [(p, p.tb.toNat + t)]))) s
      (foldS (List.range n) (fun t s => mmaOne b p (p.tb.toNat + t) (BitVec.ofNat 3 (g + t)) m s) s) := by
  induction n with
  | zero => exact .nil b m s
  | succ n ih =>
    have hIdx : (BitVec.ofNat 3 (g + n)).toNat = g + n := Nat.mod_eq_of_lt (by omega)
    have hLast := productsRun_mmaOne b (p.tb.toNat + n) (BitVec.ofNat 3 (g + n))
      (foldS (List.range n) (fun t s => mmaOne b p (p.tb.toNat + t) (BitVec.ofNat 3 (g + t)) m s) s) hp hm
    rw [hIdx] at hLast
    unfold foldS at ih hLast ⊢
    rw [List.range_succ, List.map_append, List.foldl_append]
    refine (ih (by omega)).snoc hLast ?_
    simp

end Sys2Proof.Machine
end

section
/-! The products of the matrix engine: what MXE_START does with MMA, MMA.G and MMAF (R85, R87, R91 to R95, R99, R105,
R494). -/

namespace Sys2Proof.Machine
open Sys2Proof

/-! ### What a product writes -/

/-- The groups of a product, each with the pairs it receives and their B tiles; none for any other word. -/
def productTargets (w : PWord) : List (Nat × List (MmPair × Nat)) :=
  match w with
  | .mma g p _ => [(g.toNat, [(p, p.tb.toNat)])]
  | .mmaG g p n _ => (List.range n.toNat).map (fun t => (g.toNat + t, [(p, p.tb.toNat + t)]))
  | .mmaF g p p2 _ => [(g.toNat, [(p, p.tb.toNat), (p2, p2.tb.toNat)])]
  | _ => []

theorem map_fst_productTargets (w : PWord) : (productTargets w).map (·.1) = mmGroups w := by
  cases w with
  | mmaG g p n r => exact List.map_map ..
  | _ => rfl

/-- A word with targets is a product. -/
theorem product_cases {w : PWord} (h : productTargets w ≠ []) :
    (∃ g p r, w = .mma g p r) ∨ (∃ g p n r, w = .mmaG g p n r) ∨ ∃ g p p2 r, w = .mmaF g p p2 r := by
  cases w with
  | mma g p r => exact .inl ⟨g, p, r, rfl⟩
  | mmaG g p n r => exact .inr (.inl ⟨g, p, n, r, rfl⟩)
  | mmaF g p p2 r => exact .inr (.inr ⟨g, p, p2, r, rfl⟩)
  | _ => exact absurd rfl h

/-! ### Shape and rates -/

/-- The parts of MX_SHAPE that a product which runs relies on (R87, R99). -/
theorem shape_of_good {w : PWord} (h : mmShapeBad w = false) :
    mmRows w ≤ 128 ∧ (∀ p ∈ mmPairs w, p.kblk.toNat ≤ 4) ∧ ∀ g p n r, w = .mmaG g p n r → g.toNat + n.toNat ≤ 8 := by
  unfold mmShapeBad at h
  simp only [Bool.or_eq_false_iff, beq_eq_false_iff_ne, decide_eq_false_iff_not, List.any_eq_false, Bool.or_eq_true,
    decide_eq_true_eq, not_or] at h
  obtain ⟨⟨⟨-, hRows⟩, hPairs⟩, hGroups⟩ := h
  refine ⟨by omega, fun p hp => by have := (hPairs p hp).2; omega, ?_⟩
  rintro g p n r rfl
  simp only [Bool.or_eq_false_iff, decide_eq_false_iff_not] at hGroups
  omega

theorem format_of_rate {p : MmPair} (h : pairRateOf p ≠ .bad) : p.fa.toNat ≠ 10 ∧ p.fb.toNat ≠ 10 := by
  unfold pairRateOf at h
  refine ⟨fun hf => h ?_, fun hf => h ?_⟩
  · rw [hf]; rfl
  · rw [hf]
    unfold pairRate
    cases opClass p.fa.toNat <;> rfl

theorem pairRuns_of_good {w : PWord} (hShape : mmShapeBad w = false) (hRates : ∀ p ∈ mmPairs w, pairRateOf p ≠ .bad) :
    ∀ p ∈ mmPairs w, PairRuns p := fun p hp =>
  ⟨(format_of_rate (hRates p hp)).1, (format_of_rate (hRates p hp)).2, (shape_of_good hShape).2.1 p hp⟩

/-- A product of good shape and pairs runs over its groups. -/
theorem productsRun_mxRun (b : BerthIdx) {q : QEnt} (s : State) (hT : productTargets q.w ≠ [])
    (hShape : mmShapeBad q.w = false) (hRates : ∀ p ∈ mmPairs q.w, pairRateOf p ≠ .bad) :
    ProductsRun b (mmRows q.w) (productTargets q.w) s (mxRun b q s) := by
  have hPair := pairRuns_of_good hShape hRates
  obtain ⟨hRows, -, hGroups⟩ := shape_of_good hShape
  unfold mxRun
  rcases product_cases hT with ⟨g, p, r, hw⟩ | ⟨g, p, n, r, hw⟩ | ⟨g, p, p2, r, hw⟩ <;> rw [hw] at hPair hRows hGroups ⊢
  · exact productsRun_mmaOne b p.tb.toNat g s (hPair p (by simp [mmPairs])) hRows
  · exact productsRun_grouped b g.toNat n.toNat s (hPair p (by simp [mmPairs])) hRows (hGroups g p n r rfl)
  · exact (productsRun_mmaOne b p.tb.toNat g s (hPair p (by simp [mmPairs])) hRows).same
      (productsRun_mmaOne b p2.tb.toNat g _ (hPair p2 (by simp [mmPairs])) hRows)

/-! ### The check of a product (R494) -/

theorem contains_map_true {α : Type} (f : α → Bool) (l : List α) : (l.map f).contains true = l.any f := by
  rw [List.contains_eq_any_beq, List.any_map]
  exact List.any_congr rfl fun a => by simp

theorem contains_map_false {α : Type} (f : α → Bool) (l : List α) :
    (l.map f).contains false = l.any (fun a => !f a) := by
  rw [List.contains_eq_any_beq, List.any_map]
  exact List.any_congr rfl fun a => by simp

theorem contains_rate (r : OpClass) (ps : List MmPair) :
    (ps.map pairRateOf).contains r = ps.any (fun p => pairRateOf p == r) := by
  simp only [List.contains_eq_any_beq, List.any_map, Function.comp_def, BEq.comm (a := r)]

theorem mxCode_of_product {b : BerthIdx} {q : QEnt} {s : State} (h : productTargets q.w ≠ []) : mxCode b q s =
    (let wide := (mmGroups q.w).map (fun g => (group (berth b s) g).w16)
     let rates := (mmPairs q.w).map pairRateOf
     if mmShapeBad q.w then some Code.mxShape
     else if rates.contains .bad then some Code.mxBadOperand
     else if (mmGroups q.w).any (fun g => !openBefore (berth b s) q.seq g) then some Code.accNotOpen
     else if (wide.contains true && wide.contains false) || (wide.contains true && rates.contains .f4) then
       some Code.accMode
     else if !(berth b s).doubleEn && doubledRate rates wide then some Code.mxRateDisabled
     else none) := by
  unfold mxCode
  rcases product_cases h with ⟨g, p, r, hw⟩ | ⟨g, p, n, r, hw⟩ | ⟨g, p, p2, r, hw⟩ <;> rw [hw]

/-- An accepted product has a good shape and allowed pairs. -/
theorem good_of_accepted {b : BerthIdx} {q : QEnt} {s : State} (hT : productTargets q.w ≠ [])
    (h : mxCode b q s = none) : mmShapeBad q.w = false ∧ ∀ p ∈ mmPairs q.w, pairRateOf p ≠ .bad := by
  rw [mxCode_of_product hT] at h
  simp only at h
  split at h
  · cases h
  · split at h
    · cases h
    · rename_i hShape hRate
      refine ⟨by simpa using hShape, fun p hp hBad => hRate ?_⟩
      rw [contains_rate]
      exact List.any_eq_true.mpr ⟨p, hp, by simp [hBad]⟩

section
variable (be : Berth) (w : PWord)

/-- A 16-bit group among those of a product. -/
def hasWide : Bool := (productTargets w).any (fun gp => (group be gp.1).w16)

/-- An FP32 group among those of a product. -/
def hasNarrow : Bool := (productTargets w).any (fun gp => !(group be gp.1).w16)

/-- A pair of a rate among those of a product. -/
def hasRate (r : OpClass) : Bool := (mmPairs w).any (fun p => pairRateOf p == r)

/-- Groups of two widths, or an F4 pair for a 16-bit group (ACC_MODE). -/
def modeClash : Bool := (hasWide be w && hasNarrow be w) || (hasWide be w && hasRate w .f4)

/-- A pair of doubled rate: F8 for a 16-bit group, or F4 (R105). -/
def doubles : Bool := (hasRate w .f8 && hasWide be w) || hasRate w .f4

end

theorem any_productTargets (f : Nat → Bool) (w : PWord) :
    (productTargets w).any (fun gp => f gp.1) = (mmGroups w).any f := by
  rw [← map_fst_productTargets, List.any_map]; rfl

section
variable {b : BerthIdx} {q : QEnt} {s : State} (hT : productTargets q.w ≠ []) (hShape : mmShapeBad q.w = false)
  (hRates : ∀ p ∈ mmPairs q.w, pairRateOf p ≠ .bad)
  (hOpen : ∀ gp ∈ productTargets q.w, openBefore (berth b s) q.seq gp.1 = true)
include hT hShape hRates hOpen

/-- The check of a product of good shape, allowed pairs and OPEN groups: the width of its groups, then the rate. -/
theorem mxCode_of_good : mxCode b q s =
    if modeClash (berth b s) q.w then some Code.accMode
    else if !(berth b s).doubleEn && doubles (berth b s) q.w then some Code.mxRateDisabled
    else none := by
  have hBad : (mmPairs q.w).any (fun p => pairRateOf p == .bad) = false := by
    simpa [List.any_eq_false] using hRates
  have hClosed : (mmGroups q.w).any (fun g => !openBefore (berth b s) q.seq g) = false := by
    rw [← any_productTargets fun g => !openBefore (berth b s) q.seq g]
    simpa [List.any_eq_false] using hOpen
  rw [mxCode_of_product hT]
  simp only [doubledRate, contains_rate, contains_map_true, contains_map_false, hShape, hBad, hClosed, modeClash,
    doubles, hasWide, hasNarrow, hasRate, any_productTargets fun g => (group (berth b s) g).w16,
    any_productTargets fun g => !(group (berth b s) g).w16, Bool.false_eq_true, if_false]

theorem mxCode_of_modeClash (h : modeClash (berth b s) q.w = true) : mxCode b q s = some Code.accMode := by
  rw [mxCode_of_good hT hShape hRates hOpen, if_pos h]

theorem mxCode_of_doubles (hMode : modeClash (berth b s) q.w = false) (hRate : doubles (berth b s) q.w = true)
    (hEn : (berth b s).doubleEn = false) : mxCode b q s = some Code.mxRateDisabled := by
  rw [mxCode_of_good hT hShape hRates hOpen, hMode, hRate, hEn]; rfl

theorem mxCode_of_allowed (hMode : modeClash (berth b s) q.w = false)
    (hFree : doubles (berth b s) q.w = false ∨ (berth b s).doubleEn = true) : mxCode b q s = none := by
  rw [mxCode_of_good hT hShape hRates hOpen, hMode]
  rcases hFree with h | h <;> simp [h]

end

/-! ### The start of a word -/

/-- The state whose error record a stop of the engine writes: the head of its queue is gone (R109). -/
def mxHalted (b : BerthIdx) (s : State) : State :=
  modBerth b (fun be => { be with mxq := be.mxq.tail, mxStopped := true }) s

section
variable {c : W16} (hc : codeClass c = 3) (b : BerthIdx) (s : State)
include hc

/-- A code of class 0x3 that stops the engine is recorded in MX_STATUS (R110). -/
theorem stopMx_eq : stopMx b c s = setLastErr (Blk.mx b) c (report (Blk.mx b) c (mxHalted b s)) := if_pos hc

theorem lastErr_stopMx : lastErr (Blk.mx b) (stopMx b c s) = c := by
  rw [stopMx_eq hc]; exact tget_tset_same ..

theorem stopMx_kept : stopMx b c s =
    { mxHalted b s with pages := (stopMx b c s).pages, lastErr := (stopMx b c s).lastErr } := by
  rw [stopMx_eq hc]
  conv => lhs; rw [report_eq]
  rfl

theorem onlyBerth_stopMx : OnlyBerth b { berth b s with mxq := (berth b s).mxq.tail, mxStopped := true }
    { s with pages := (stopMx b c s).pages, lastErr := (stopMx b c s).lastErr } (stopMx b c s) := by
  have hKept := stopMx_kept hc b s
  have hBerths : ∀ d, berth d (stopMx b c s) = berth d (mxHalted b s) := fun d => by rw [hKept]; rfl
  refine ⟨(hBerths b).trans (berth_modBerth b _ s), fun d hd => (hBerths d).trans (berth_modBerth_other hd _ s), ?_⟩
  exact congrArg (fun t : State => { t with berths := s.berths }) hKept

end

section
variable {b : BerthIdx} {q : QEnt} {r : List QEnt} {s : State} (hAwake : Awake s) (hQueue : (berth b s).mxq = q :: r)
  (hRuns : (berth b s).mxStopped = false)
include hAwake hQueue hRuns

theorem exec_mxeStart_of_refused {c : W16} (h : mxCode b q s = some c) :
    exec (.mxeStart b) s = .next (stopMx b c s) := by
  have hStart : mxStart b s = stopMx b c s := by
    unfold mxStart
    simp only [hQueue, hRuns, h, Bool.false_eq_true, if_false]
  exact (awake_run _ (by simpa [inReset] using hAwake)).trans (congrArg _ hStart)

theorem exec_mxeStart_of_accepted (h : mxCode b q s = none) (hReady : mxReady (berth b s) q = true) :
    exec (.mxeStart b) s = .next (mxRun b q (modBerth b (fun be => { be with mxq := r }) s)) := by
  have hStart : mxStart b s = mxRun b q (modBerth b (fun be => { be with mxq := r }) s) := by
    unfold mxStart
    simp only [hQueue, hRuns, h, hReady, Bool.false_eq_true, if_false, if_true]
  exact (awake_run _ (by simpa [inReset] using hAwake)).trans (congrArg _ hStart)

/-- A refused word leaves the queue and stops the engine. -/
theorem mxeStart_stops {c : W16} (hc : codeClass c = 3) (h : mxCode b q s = some c) :
    ∃ t, exec (.mxeStart b) s = .next t ∧
      OnlyBerth b { berth b s with mxq := r, mxStopped := true } { s with pages := t.pages, lastErr := t.lastErr } t ∧
      lastErr (Blk.mx b) t = c := by
  have hOnly := onlyBerth_stopMx hc b s
  rw [hQueue] at hOnly
  exact ⟨_, exec_mxeStart_of_refused hAwake hQueue hRuns h, hOnly, lastErr_stopMx hc b s⟩

end

/-! ### The value of a block as the rules state it (R175) -/

theorem gOver_eq (fl : VFlags) : gOver fl = if fl.getLsbD 1 then 1 else 0 := by
  unfold gOver
  cases fl.getLsbD 1 <;> rfl

/-! ### The statement -/

/-- Settles O31. An accepted product is a run of tile operations (`productsRun_mxRun`), each of which stores its group with
a pair added (`pairsAdded_productGroup`) and else samples and charges; the refusals are the branches of `mxCode_of_good`;
the value of a block is `blockSum_of_finite`. -/
theorem productsTouchOnlyTheirGroup : Obligations.ProductsTouchOnlyTheirGroup := by
  unfold Obligations.ProductsTouchOnlyTheirGroup
  refine ⟨?products, ?blocks⟩
  case products =>
    rintro s b q r be rfl hAwake hQueue hRuns hReady targets m grp tb el blk sum cell pair hT
    have hTargets : targets = productTargets q.w := rfl
    rw [hTargets] at hT ⊢
    refine ⟨fun hNone => ?accepted, ?checked⟩
    case accepted =>
      obtain ⟨hShape, hRates⟩ := good_of_accepted hT hNone
      obtain ⟨hElse, hHere, hAdded, hUntouched⟩ :=
        productsRun_mxRun b (modBerth b (fun be => { be with mxq := r }) s) hT hShape hRates
      rw [berth_modBerth] at hHere hAdded hUntouched
      refine ⟨_, exec_mxeStart_of_accepted hAwake hQueue hRuns hNone hReady, ?added, hUntouched, ?kept, ?queue, ?others,
        hElse.mem, hElse.doms⟩
      case added =>
        rintro gp hgp y rfl
        obtain ⟨hOpened, hWidth, hKey, hCtr, hFlags, hCells, hRest⟩ := hAdded gp hgp
        exact ⟨hOpened, hWidth, hKey, hCtr, hFlags, hCells, hRest⟩
      case kept =>
        exact congrArg (fun o : Berth => { o with
          mxq := (berth b s).mxq, groups := (berth b s).groups, audZ := (berth b s).audZ }) hHere
      case queue => exact congrArg (fun o : Berth => o.mxq) hHere
      case others => exact fun c hc => (hElse.others c hc).trans (berth_modBerth_other hc _ s)
    case checked =>
      intro hShape hRates hOpen wide narrow f4 f8
      exact ⟨fun hMode => mxeStart_stops hAwake hQueue hRuns rfl (mxCode_of_modeClash hT hShape hRates hOpen hMode),
        fun hMode hRate hEn =>
          mxeStart_stops hAwake hQueue hRuns rfl (mxCode_of_doubles hT hShape hRates hOpen hMode hRate hEn),
        mxCode_of_allowed hT hShape hRates hOpen⟩
  case blocks =>
    intro es sa sb top _ ha hb lead hTop hLe cut acc hAcc hNe
    rw [← gOver_eq]
    exact blockSum_of_finite ha hb hTop hLe hAcc hNe

end Sys2Proof.Machine
end

section
/-! What reset leaves (R190, R393, R415): of the tables of interrupt sources, frame domains, page headers, extents and
ledger resources only the last lists anything, GPIO0, so every other entry reads as its table's default. -/

namespace Sys2Proof.Machine
open Sys2Proof

@[simp] theorem irqSrc_reset (n : Nat) : irqSrc n State.reset = {} := rfl

@[simp] theorem dom_reset (d : Nat) : dom d State.reset = {} := rfl

@[simp] theorem hdr_reset (p : Nat) : hdr p State.reset = {} := rfl

@[simp] theorem ext_reset (x : Nat) : ext x State.reset = extDefault x := rfl

/-- The reset ledger lists GPIO0 alone, for the house with function READY (R415). -/
theorem ledgerEntry_reset_gpio0 : ledgerEntry 0 State.reset = { owner := some 0xFF, func := 4 } := rfl

theorem ledgerEntry_reset_other {r : Nat} (h : r ≠ 0) : ledgerEntry r State.reset = {} :=
  if_neg h.symm

/-- The number of an SRAM extent fits the 21 bits of its PHYS (R190). -/
theorem extDefault_sram {x : Nat} (h : x < 65536) :
    (extDefault x).kind = .scratch ∧ (extDefault x).phys.toNat = x := by
  have hPhys : (BitVec.ofNat 21 x).toNat = x := Nat.mod_eq_of_lt (by omega)
  rw [extDefault, if_pos h]
  exact ⟨rfl, hPhys⟩

theorem extDefault_lpx {x : Nat} (h : 65536 ≤ x) : (extDefault x).kind = .pool := by
  rw [extDefault, if_neg (Nat.not_lt.mpr h)]

theorem srcState_cases (q : SrcState) : q = .inactive ∨ q = .pending ∨ q = .active ∨ q = .completing := by
  cases q <;> simp

/-- Settles O3: for each table by the entry that reset leaves in it, and for the single registers by their reset
values. -/
theorem resetValues : Obligations.ResetValues := by
  unfold Obligations.ResetValues
  refine ⟨fun s n => srcState_cases _, ?sources, ?thresholds, ledgerEntry_reset_gpio0, ?unowned, ?period, ?address,
    ?domains, ?slices, ?pools, ?pages, ?limits⟩
  case sources =>
    intro n
    simp
  case thresholds =>
    intro t
    exact Vector.getElem_replicate t.isLt
  case unowned =>
    intro r hr
    rw [ledgerEntry_reset_other hr]
  case period => rfl
  case address => rfl
  case domains =>
    intro d
    simp
  case slices =>
    intro x hx
    rw [ext_reset]
    exact extDefault_sram hx
  case pools =>
    intro x hx
    rw [ext_reset]
    exact extDefault_lpx hx
  case pages =>
    intro p
    simp
  case limits => exact ⟨rfl, rfl, rfl, rfl⟩

end Sys2Proof.Machine
end
